-- ==== Sys2Proof/Word.lean ====
section
/-! DEFINITION. The word types of the UZL-2406 and their plainest arithmetic: bytes, stamps, samples,
the signed comparison of stamps and the manual's named roundings. -/

namespace Sys2Proof

/-- One byte of a parcel. -/
abbrev Byte := BitVec 8

/-- A sample count in a source's or the house's sample space (00_scope, Samples and stamps). -/
abbrev Stamp := BitVec 32

/-- A 24-bit two's-complement sample or coefficient. -/
abbrev Sample := BitVec 24

/-- The signed 32-bit difference `a − b` by which stamps are compared (00_scope, Comparing stamps). -/
def stampDiff (a b : Stamp) : Int := (a - b).toInt

/-- `a` is ahead of `b`: the signed difference is positive. -/
def ahead (a b : Stamp) : Bool := decide (0 < stampDiff a b)

/-- `a` is behind `b`: the signed difference is negative. -/
def behind (a b : Stamp) : Bool := decide (stampDiff a b < 0)

/-- `x / 2^k` rounded to the nearest integer, ties toward +∞ (00_scope, Rounding). -/
def roundShift (x : Int) (k : Nat) : Int := (x + 2 ^ (k - 1)) / 2 ^ k

/-- Clamp into `lo … hi`. -/
def clampInt (lo hi x : Int) : Int := if x < lo then lo else if hi < x then hi else x

/-- Clamp into `lo … hi`. -/
def clampNat (lo hi x : Nat) : Nat := if x < lo then lo else if hi < x then hi else x

/-- Saturate to the 24-bit sample range. -/
def satSample (y : Int) : Int := clampInt (-8388608) 8388607 y

/-- A counter that saturates at 65,535 after rising by `n`. -/
def satAdd (c n : Nat) : Nat := min (c + n) 65535

end Sys2Proof
end

