-- ==== Sys2Proof/Syntax.lean ====
section
/-! DEFINITION. The commands of the block: one constructor of `Instr` per row of spec/opcode_table.json,
with what each event brings to the part. -/

namespace Sys2Proof

/-- One line character as the line interface delivers it (R1): the reserved sync character, a data
byte, or a damaged byte. -/
inductive LineChar where
  | sync
  | data (b : Byte)
  | damaged
deriving DecidableEq, Repr

/-- The four characters at a sync position: sync character, second sync byte, frame number (R3, R4). -/
structure FrameHead where
  c0 : LineChar
  c1 : LineChar
  c2 : LineChar
  c3 : LineChar
deriving DecidableEq, Repr

/-- The characters of one slot, as they stand on the line; a slot has 84 (R2). -/
abbrev Slot := List LineChar

/-- The steps of the part (95_what_each_step_holds.md): one constructor per row of the table.

A step that something outside brings about carries what it brings (a slot's 84 characters, a sync
position's four, a reference cycle's quality, the reading of the straps at the end of a reset).
A step that the part takes by itself names the lane, program or rule that takes it. A step of the
Order Unit carries nothing: its operands are the order at the head of the intake. -/
inductive Instr where
  | powerOn
  | powerOnResetEnd (straps : BitVec 6)
  | resetLineLow
  | resetLineHigh (straps : BitVec 6)
  | lineFault
  | syncFound (position : Nat) (head : FrameHead)
  | checkSync (head : FrameHead)
  | receiverLocked
  | lockedSync (head : FrameHead)
  | rejectedSlot (slot : Slot)
  | audioParcel (slot : Slot)
  | cueParcel (slot : Slot)
  | pictureReport (slot : Slot)
  | orderParcel (slot : Slot)
  | passthroughParcel (slot : Slot)
  | referenceCycle (good : Bool)
  | referenceLock
  | houseSample
  | fillReached (p : Fin 16)
  | warmUpEnd (p : Fin 16)
  | resyncFlush (p : Fin 16)
  | parkingEnd (p : Fin 16)
  | jumpFadeOutEnd (p : Fin 16)
  | jumpRelease (p : Fin 16)
  | egressWarmUpEnd
  | autoStart
  | resetOrderDone
  | alarmTick
  | laneStalled (l : Fin 32)
  | laneLost (l : Fin 32)
  | pictureTimeout (p : Fin 16)
  | recordRaised (r : Fin 64)
  | countWindowEnd (r : Fin 64)
  | releaseEnd (r : Fin 64)
  | autoRevert (p : Fin 16)
  | egressFrameStart
  | resetBegin (straps : BitVec 6)
  | unknownOrder
  | writeLane
  | writeProgram
  | writeProfile
  | writeWeighting
  | writeCoefficients
  | writeBandSet
  | writeRule
  | writeEgressMap
  | writeSettings
  | readLane
  | readProgram
  | readProfile
  | readWeighting
  | readCoefficients
  | readBandSet
  | readRule
  | readEgressMap
  | readSettings
  | statusPart
  | statusLane
  | statusRule
  | statusProgramPlay
  | statusProgramServo
  | statusProgramMeter
  | statusProgramGain
  | statusProgramChangeover
  | statusProgramCounters
  | start
  | park
  | delay
  | changeover
  | acknowledge
  | cue
  | reset
deriving DecidableEq, Repr

end Sys2Proof
end

