-- ==== Sys2Proof/Decode.lean ====
section
/-! DEFINITION. The commands that a word spells by the bits of spec/opcode_table.json. The table of this
block gives bits to no row (every row's "fields" is empty and none has "fixed"), so no word spells a
command: the commands are events on the lines and pins and steps of the part's own. What the part
does decode, the bytes of parcels and orders, is read in Sys2Proof/Machine/Operands.lean. -/

namespace Sys2Proof

/-- The command an opcode-table word of `nbits` bits spells: none, since no row has bits. -/
def decodeTableWord (_nbits _w : Nat) : Option Instr := none

end Sys2Proof
end

