-- ==== Sys2Proof/Config.lean ====
section
/-! DEFINITION. The values the manual does not state. Each is a constant without a body, so nothing can
be proved of it and a statement that mentions it holds for every value. -/

namespace Sys2Proof

/-- The segment count after 2^32 − 1 segment ends, by the end boundary passed: R95 says the count rises
by one and its table ends the range at 2^32 − 1, and neither says what follows. DESIGN CHOICE, safe
(log entry 6). -/
opaque Config.segmentCountPast : Stamp → BitVec 32

/-- The four bytes in which a histogram block total above 2^32 − 1 is returned or frozen: each of the
300 counts may reach 2^32 − 1 (R99) and the layout gives the total four bytes (11.4). DESIGN CHOICE,
safe (log entry 7). -/
opaque Config.blockTotalPast : Nat → BitVec 32

end Sys2Proof
end

