-- ==== Sys2Proof/Machine/State.lean ====
section
/-! DEFINITION. Every piece of state the manual gives the UZL-2406, as plain data, with the values it
holds after power-on as the fields' defaults (INVENTORY.md lists them with the rule that names each),
and `State.reset`. -/

namespace Sys2Proof.Machine

/-! ## Lanes and the delay store (Chapter 2) -/

/-- The five rate classes (00_scope, Rate classes). -/
inductive RateClass where
  | c32 | c44 | c48 | c88 | c96
deriving DecidableEq, Repr

/-- How a gap exposed by loss is filled (R15, R26). -/
inductive ConcealMode where
  | repeatLast | zero
deriving DecidableEq, Repr

/-- A lane table entry (R15); the defaults are its power-on values. -/
structure LaneEntry where
  defined : Bool := false
  origin : Byte := 0
  tag : Byte := 0
  rateClass : RateClass := .c48
  startPage : Nat := 0
  sizePages : Nat := 8
  conceal : ConcealMode := .repeatLast
  lostTime : Nat := 100
deriving DecidableEq, Repr

/-- The lane states (R19). -/
inductive LaneStatus where
  | parked | armed | receiving | stalled | lost
deriving DecidableEq, Repr

/-- The dynamic state of one lane (Chapter 2, opening table; R37). -/
structure Lane where
  status : LaneStatus := .parked
  horizon : Option Stamp := none
  lastSeq : Option Byte := none
  idle : Nat := 0
  taint : Nat := 0
  concealed : Nat := 0
  late : Nat := 0
  dropped : Nat := 0
deriving DecidableEq, Repr

/-- The mark with which a word is read (R18). -/
inductive Mark where
  | empty | good | suspect
deriving DecidableEq, Repr

/-- A word of the delay memory that is not EMPTY: its sample, and whether its mark is SUSPECT
(otherwise GOOD) (R18). -/
structure RingWord where
  sample : Sample
  suspect : Bool
deriving DecidableEq, Repr

/-- The delay memory: the words that are not EMPTY, by index 0 to 4,194,303, the indices strictly
rising. An index not listed holds an EMPTY word, whose sample value is never read (R18). -/
abbrev DelayMem := List (Nat × RingWord)

/-! ## Programs (Chapters 3 to 7) -/

/-- MANUAL or FOLLOW (R38). -/
inductive DelayMode where
  | manual | follow
deriving DecidableEq, Repr

/-- The glide rates (R81). -/
inductive GlideRate where
  | slow | medium | fast
deriving DecidableEq, Repr

/-- AUTO or MANUAL: the revert mode of a program (R156) and the acknowledge mode of a rule (R135). -/
inductive AutoManual where
  | auto | manual
deriving DecidableEq, Repr

/-- A program table entry (R38); the defaults are its power-on values. The weights are held for the
eight member positions the entry's layout carries. -/
structure ProgramEntry where
  defined : Bool := false
  members : List (Fin 32) := []
  weights : Vector Nat 8 := Vector.replicate 8 1000
  profile : Fin 8 := 0
  bank : Fin 4 := 0
  houseLocked : Bool := false
  delayMode : DelayMode := .manual
  manualDelay : Nat := 0
  picture : Option (Byte × Byte) := none
  pictureOffset : Int := 0
  deadband : Nat := 24
  pictureTimeout : Nat := 1000
  cushion : Nat := 48
  bandSet : Fin 4 := 1
  glideRate : GlideRate := .medium
  jumpThreshold : Nat := 0
  warmUp : Nat := 100
  alternate : Option (Fin 16) := none
  revertMode : AutoManual := .auto
  revertTime : Nat := 5000
  meterInterval : Nat := 0
  autoStart : Bool := false
deriving DecidableEq, Repr

/-- The play states (Chapter 3). -/
inductive PlayState where
  | parked | priming | warming | running | holdover | resyncing | parking
deriving DecidableEq, Repr

/-- Where a fade position is moving (R50). -/
inductive FadeTarget where
  | silent | opened
deriving DecidableEq, Repr

/-- Play state, fade and warm-up of a program (Chapter 3, opening table; R53). `warmUpSet` is the
warm-up, in milliseconds, set for the coming PRIMING (R41, R48). -/
structure Play where
  state : PlayState := .parked
  fade : Nat := 0
  target : FadeTarget := .silent
  warmUpLeft : Nat := 0
  warmUpSet : Nat := 0
  elapsed : Bool := false
  resyncs : Nat := 0
deriving DecidableEq, Repr

/-- A read position: a stamp and a 24-bit fraction (Chapter 4). -/
structure ReadPos where
  stamp : Stamp
  frac : BitVec 24
deriving DecidableEq, Repr

/-- The Rate Converter's state for one program (Chapter 4; R71). `fixed` holds the T and the G that
stood at an egress frame start before the servo wrote them, for the house sample that begins there (R57). -/
structure Converter where
  pos : Option ReadPos := none
  trim : Int := 0
  glide : Int := 0
  hold : Bool := false
  fixed : Option (Int × Int) := none
  starved : Nat := 0
  clips : Nat := 0
deriving DecidableEq, Repr

/-- The servo modes (Chapter 5). -/
inductive ServoMode where
  | track | glide | jump
deriving DecidableEq, Repr

/-- What a jump waits for (R82, R84). -/
inductive JumpPhase where
  | fadeOut | hold
deriving DecidableEq, Repr

/-- The Delay Servo's and Picture Follower's state for one program (Chapter 5; R90). `pictureDue` marks
that the tick just taken found the idle time at its timeout; `pictureLate` is the PICTURE condition
as last reported (R88). -/
structure Servo where
  delay : Nat := 0
  fill : Nat := 0
  limit : Nat := 0
  clamped : Bool := false
  mode : ServoMode := .track
  phase : Option JumpPhase := none
  error : Int := 0
  pictureIdle : Nat := 0
  pictureLast : Option Nat := none
  pictureDue : Bool := false
  pictureLate : Bool := false
deriving DecidableEq, Repr

/-- The last two inputs and outputs of one weighting biquad (R93). -/
structure BiquadState where
  x1 : Int := 0
  x2 : Int := 0
  v1 : Int := 0
  v2 : Int := 0
deriving DecidableEq, Repr

/-- The meter's state for one member: two biquads, the segment sum and the segment peak (Chapter 6). -/
structure MemberMeter where
  first : BiquadState := {}
  second : BiquadState := {}
  sum : Nat := 0
  peak : Nat := 0
deriving DecidableEq, Repr

/-- OPEN or CLOSED (R102). -/
inductive Integration where
  | opened | closed
deriving DecidableEq, Repr

/-- The cue types (R8). -/
inductive CueType where
  | segmentStart | segmentEnd | userMark
deriving DecidableEq, Repr

/-- The result of the last closed measurement segment (R102). -/
structure SegmentRecord where
  value : Int
  stamp : Stamp
  blocks : BitVec 32
  segments : BitVec 32
deriving DecidableEq, Repr

/-- A meter report as made at step 8 of a segment end (R105, R106). -/
structure MeterReport where
  node : BitVec 6
  program : Fin 16
  play : PlayState
  integration : Integration
  segments : BitVec 32
  momentary : Int
  shortTerm : Int
  integrated : Int
  scheduled : Int
  applied : Int
  delay : Nat
  mode : ServoMode
  peaks : List Nat
deriving DecidableEq, Repr

/-- The Loudness Meter's state for one program (Chapter 6; R109). A segment energy is held as the
integer z·N·1000·2^46 (R96). `boundary` is the end boundary of the segment in progress (R95). -/
structure Meter where
  pos : Option Stamp := none
  origin : Option Stamp := none
  boundary : Stamp := 0
  segments : BitVec 32 := 0
  members : List MemberMeter := []
  history : List Nat := []
  momentary : Int := -7000
  shortTerm : Int := -7000
  integrated : Int := -7000
  histogram : Vector Nat 300 := Vector.replicate 300 0
  integration : Integration := .opened
  record : Option SegmentRecord := none
  cues : List (Stamp × CueType) := []
  cueOverflows : Nat := 0
  reportCount : Nat := 0
  report : Option MeterReport := none
deriving DecidableEq, Repr

/-- An entry of a program's event schedule (R113). -/
inductive Entry where
  | gain (stamp : Stamp) (value : Int)
  | cue (stamp : Stamp) (kind : CueType) (mark : BitVec 16)
deriving DecidableEq, Repr

/-- The Gain Law's state for one program (Chapter 7; R124). -/
structure Gain where
  scheduled : Int := 0
  applied : Int := 0
  linear : Int := 1048576
  rampStart : Int := 1048576
  rampEnd : Int := 1048576
  rampStep : Nat := 480
  reissue : Bool := false
  schedule : List Entry := []
  coalesces : Nat := 0
  gainDrops : Nat := 0
  cueDrops : Nat := 0
  forwardDrops : Nat := 0
  clips : Nat := 0
deriving DecidableEq, Repr

/-- The changeover states (9.4). -/
inductive ChangeoverState where
  | primary | wanted | alternate | reverting
deriving DecidableEq, Repr

/-- The force settings (R154). -/
inductive Force where
  | automatic | forceAlternate | forcePrimary
deriving DecidableEq, Repr

/-- The changeover state of one program (9.4). `revertDue` marks that the tick just taken found the
revert count at the revert time (R156). -/
structure Change where
  state : ChangeoverState := .primary
  force : Force := .automatic
  latch : Option (Fin 16) := none
  revert : Nat := 0
  revertDue : Bool := false
deriving DecidableEq, Repr

/-- The four action hold counts of a program (R139). -/
structure Holds where
  mute : Nat := 0
  freeze : Nat := 0
  holdDelay : Nat := 0
  changeover : Nat := 0
deriving DecidableEq, Repr

/-- What the meter hands the Alarm Unit at a segment end (R103). -/
structure LevelReport where
  momentary : Int
  shortTerm : Int
  target : Int
deriving DecidableEq, Repr

/-- What the meter hands the Alarm Unit when a segment closes (R104). -/
structure CloseReport where
  value : Int
  target : Int
deriving DecidableEq, Repr

/-- The condition events of one program collected in the tick period in progress (R125, R126). -/
structure Events where
  overload : Bool := false
  arrival : Bool := false
  air : Bool := false
  levels : List LevelReport := []
  closes : List CloseReport := []
deriving DecidableEq, Repr

/-- The dynamic state of one program. -/
structure Program where
  play : Play := {}
  conv : Converter := {}
  servo : Servo := {}
  meter : Meter := {}
  gain : Gain := {}
  change : Change := {}
  holds : Holds := {}
  events : Events := {}
deriving DecidableEq, Repr

/-! ## Shared tables (Chapters 4 to 10) -/

/-- A profile (R110); the defaults are its power-on values. -/
structure Profile where
  target : Int := -2300
  maxBoost : Int := 600
  maxCut : Int := 1200
  attack : Int := 50
  release : Int := 20
  holdGate : Int := -4000
  absGate : Int := -7000
  relGate : Int := -1000
deriving DecidableEq, Repr

/-- The coefficients of one weighting biquad, 28 fraction bits (R94). Pass-through after power-on. -/
structure Biquad where
  b0 : BitVec 32 := 268435456
  b1 : BitVec 32 := 0
  b2 : BitVec 32 := 0
  a1 : BitVec 32 := 0
  a2 : BitVec 32 := 0
deriving DecidableEq, Repr

/-- A weighting table entry (R94). -/
structure Weighting where
  first : Biquad := {}
  second : Biquad := {}
deriving DecidableEq, Repr

/-- One phase of a coefficient bank: 32 taps (R67). -/
abbrev Phase := Vector Sample 32

/-- One coefficient bank: 65 phases (R67). -/
abbrev Bank := Vector Phase 65

/-- A phase of the identity bank: 4,194,304 at tap 15 and 0 elsewhere (R67). -/
def identityPhase : Phase := (Vector.replicate 32 0).set 15 4194304

/-- A band set (R77). -/
structure BandSet where
  b1 : Nat
  b2 : Nat
deriving DecidableEq, Repr

/-- The condition kinds (R126). -/
inductive CondKind where
  | silence | loud | segment | overload | loss | impaired | picture | clamp | clock
  | trunk | reference | shed
deriving DecidableEq, Repr

/-- PERSIST or COUNT (R132, R133). -/
inductive QualifyMode where
  | persist | count
deriving DecidableEq, Repr

/-- MINOR or MAJOR (R128). -/
inductive Severity where
  | minor | major
deriving DecidableEq, Repr

/-- ARRIVAL or AIR (R126). -/
inductive Timing where
  | arrival | air
deriving DecidableEq, Repr

/-- The actions a rule names (R128). -/
structure Actions where
  mute : Bool := false
  freeze : Bool := false
  holdDelay : Bool := false
  changeover : Bool := false
deriving DecidableEq, Repr

/-- A rule table entry (R128); the defaults are its power-on values. A scope of `none` is the part. -/
structure Rule where
  enabled : Bool := false
  kind : CondKind := .silence
  scope : Option (Fin 16) := some 0
  level : Int := 0
  qualify : QualifyMode := .persist
  n : Nat := 1
  w : Nat := 1
  releaseTime : Nat := 0
  stretch : Nat := 0
  ackMode : AutoManual := .auto
  severity : Severity := .minor
  actions : Actions := {}
  notice : Bool := false
  timing : Timing := .arrival
deriving DecidableEq, Repr

/-- An egress map entry (R152); the defaults are its power-on values. -/
structure MapEntry where
  enabled : Bool := false
  tag : Byte := 0
  slot : Fin 128 := 0
  program : Fin 16 := 0
  member : Fin 8 := 0
deriving DecidableEq, Repr

/-- EXTERNAL or INTERNAL (R171). -/
inductive RefSelect where
  | external | internal
deriving DecidableEq, Repr

/-- The settings record (R171). -/
structure Settings where
  node : BitVec 6 := 0
  select : RefSelect := .external
deriving DecidableEq, Repr

/-- Every table that orders write and read; the defaults are the power-on values. -/
structure Tables where
  lanes : Vector LaneEntry 32 := Vector.replicate 32 {}
  programs : Vector ProgramEntry 16 := Vector.replicate 16 {}
  profiles : Vector Profile 8 := Vector.replicate 8 {}
  weightings : Vector Weighting 5 := Vector.replicate 5 {}
  banks : Vector Bank 4 := Vector.replicate 4 (Vector.replicate 65 identityPhase)
  band3 : BandSet := ⟨4, 48⟩
  rules : Vector Rule 64 := Vector.replicate 64 {}
  map : Vector MapEntry 32 := Vector.replicate 32 {}
  settings : Settings := {}
deriving DecidableEq, Repr

/-! ## The trunk receiver (Chapter 1) -/

/-- The framing states (R3). -/
inductive Framing where
  | hunt | check | locked
deriving DecidableEq, Repr

/-- The Trunk Receiver. `slotsLeft` counts the slots of the taken frame not yet taken (R2); `damaged` is the
length of the run of damaged bytes that the bytes taken so far end in (R1);
`trunkSeen` records that the receiver was in HUNT or CHECK in the tick period in progress (R6). -/
structure Receiver where
  framing : Framing := .hunt
  goodSyncs : Nat := 0
  expectedPos : Nat := 0
  expectedNum : BitVec 16 := 0
  misses : Nat := 0
  slotsLeft : Nat := 0
  damaged : Nat := 0
  checkFails : Nat := 0
  unknownKinds : Nat := 0
  countErrors : Nat := 0
  lockLosses : Nat := 0
  trunkSeen : Bool := true
deriving DecidableEq, Repr

/-! ## The Alarm Unit (Chapter 8) -/

/-- The record states (8.3). -/
inductive RecordState where
  | clear | qualifying | raised | releasing | ackWait
deriving DecidableEq, Repr

/-- The causes of a notice-making change (R142). -/
inductive Cause where
  | raised | cleared | ackWait | acknowledged | rewritten | parked
deriving DecidableEq, Repr

/-- A move of a record that the tick just taken has brought about and that is taken at that tick, those
that make notices in ascending rule index (R132 to R136, R142, log entry 32). -/
inductive DueMove where
  | raise | windowEnd | release
deriving DecidableEq, Repr

/-- A rule's record (8.3; R148). -/
structure Record where
  state : RecordState := .clear
  qual : Nat := 0
  window : Nat := 0
  stretch : Nat := 0
  release : Nat := 0
  acked : Bool := false
  last : Option Cause := none
  lastStamp : Stamp := 0
  changes : Nat := 0
  queued : Bool := false
  owed : Bool := false
  raises : Nat := 0
  due : Option DueMove := none
deriving DecidableEq, Repr

/-- What brought about the last reset (R175, R176). -/
inductive ResetCause where
  | power | line | order
deriving DecidableEq, Repr

/-- A notice in the queue: a rule's, with the contents it last took (R143), or STARTED (R177). -/
inductive Notice where
  | rule (r : Fin 64) (state : RecordState) (acked : Bool) (last : Option Cause) (stamp : Stamp)
      (changes : Nat)
  | started (cause : ResetCause) (programs : List (Fin 16)) (failed : Nat)
deriving DecidableEq, Repr

/-- The Alarm Unit: the records, the two lines, the notice queue, and the part-scoped SHED event of the
tick period in progress (Chapter 8; R162). -/
structure Alarm where
  records : Vector Record 64 := Vector.replicate 64 {}
  majorLine : Bool := false
  minorLine : Bool := false
  notices : List Notice := []
  shedSeen : Bool := false
deriving DecidableEq, Repr

/-! ## Egress and House Timing (Chapter 9) -/

/-- The reference states (R149). -/
inductive RefState where
  | seeking | locked | holdover
deriving DecidableEq, Repr

/-- House Timing. `trimmed` says whether the oscillator has been trimmed to the reference since
power-on (R149); `leftLocked` that the state left LOCKED in the tick period in progress (R151);
`toTick` and `toFrame` count the house samples before the next alarm tick and the next egress frame
start, 0 when it is due (R150). -/
structure House where
  reference : RefState := .seeking
  goodCycles : Nat := 0
  trimmed : Bool := false
  leftLocked : Bool := false
  stamp : Stamp := 0
  warmUpLeft : Nat := 3072
  warmedUp : Bool := false
  toTick : Nat := 48
  toFrame : Nat := 12
deriving DecidableEq, Repr

/-- One egress lane: crossfade position, sequence, discontinuity owed, and the samples and marks of the
frame period in progress, in house order (R153, R159). -/
structure EgressLane where
  x : Nat := 0
  seq : Byte := 0
  owed : Bool := false
  samples : List (Int × Bool) := []
deriving DecidableEq, Repr

/-- An egress frame: its sync pattern and frame number, and its 128 slots of 84 bytes (1.2, R150, R163). -/
structure Frame where
  head : FrameHead
  slots : List (List Byte)
deriving DecidableEq, Repr

/-- A CUE parcel waiting in the cue outbox, with the program whose entry it was (R118); the parcel does not carry the
program, which is the model's own (log entry 28). -/
structure CueOut where
  tag : Byte
  stamp : Stamp
  kind : CueType
  mark : BitVec 16
  program : Fin 16
deriving DecidableEq, Repr

/-- The Egress Assembler. `map` is the egress map that governs the present frame period and `pending`
marks the stored entries that govern from the next frame start, with whether a write enabled or
retagged the lane (R152). `sent` is the frame last built and put on the egress trunk. `sampleFrom`
is the model's own: how many parcels the outbox held as the house sample now under way began, and none from a frame
start to the next house sample (R118, log entry 28). -/
structure Egress where
  map : Vector MapEntry 32 := Vector.replicate 32 {}
  pending : Vector (Option Bool) 32 := Vector.replicate 32 none
  lanes : Vector EgressLane 32 := Vector.replicate 32 {}
  number : BitVec 16 := 0
  rotation : Option (Fin 16) := none
  outbox : List CueOut := []
  sampleFrom : Option Nat := none
  passthrough : List (List Byte) := []
  shed : Nat := 0
  sent : Option Frame := none
deriving DecidableEq, Repr

/-! ## The Order Unit (Chapter 10) -/

/-- An order as it waits in the intake: its common fields and its argument bytes (10.1, 11.4). -/
structure Order where
  replyTo : Byte
  tag : BitVec 16
  kind : Byte
  args : List Byte
deriving DecidableEq, Repr

/-- The reply statuses (R167). -/
inductive Status where
  | done | clamped | refusedState | refusedIndex | refusedValue | refusedConflict | refusedInUse
  | refusedUnknown
deriving DecidableEq, Repr

/-- A reply in the reply queue (R168); the overflow flag is written as it leaves. -/
structure Reply where
  node : Byte
  tag : BitVec 16
  kind : Byte
  status : Status
  results : List Byte
deriving DecidableEq, Repr

/-- The unit states (Chapter 10). -/
inductive UnitState where
  | idle | parkPending | resetPending
deriving DecidableEq, Repr

/-- The unfinished PARK or RESET whose reply is owed (R166, R175). -/
structure PendingOrder where
  replyTo : Byte
  tag : BitVec 16
  kind : Byte
deriving DecidableEq, Repr

/-- The Order Unit. `autoStarted` says that auto-start has been applied since the last reset (R52,
R166); `resetDone` that the reset of the pending RESET has been performed (R175). -/
structure Orders where
  intake : List Order := []
  unit : UnitState := .idle
  owing : Option PendingOrder := none
  replies : List Reply := []
  overflow : Bool := false
  drops : Nat := 0
  cause : ResetCause := .power
  autoStarted : Bool := false
  resetDone : Bool := false
deriving DecidableEq, Repr

/-! ## The machine -/

/-- Why the block stops. -/
inductive Fault where
  /-- Raised by the six slot commands when the slot they bring does not have 84 characters: no such slot
  can stand on the trunk (R2), so the hardware is never given it. Safe: the model stops where the
  hardware has no behaviour. -/
  | malformedSlot
deriving DecidableEq, Repr

/-- Why a command has no meaning. -/
inductive Refusal where
  /-- Raised by `exec` for a command that has no meaning yet, by its name in the table; no command of
  this model is left so. Safe: the model stops where the hardware goes on. -/
  | notModelled (mnemonic : String)
deriving DecidableEq, Repr

/-- The whole state of the part, its pins included, and the commands that wait for it. -/
structure State where
  /-- The commands waiting, first in, first out. -/
  pending : List Instr := []
  /-- VDD_CORE has risen and the power-on reset has not ended (R180). -/
  powerReset : Bool := false
  /-- RESET_N is low (R180). -/
  resetLow : Bool := false
  /-- NODE[5:0] as the pins read (R11). -/
  straps : BitVec 6 := 0
  /-- The own node, read from the straps when a reset ends (R11). -/
  node : BitVec 6 := 0
  tables : Tables := {}
  rx : Receiver := {}
  lanes : Vector Lane 32 := Vector.replicate 32 {}
  mem : DelayMem := []
  programs : Vector Program 16 := Vector.replicate 16 {}
  alarm : Alarm := {}
  house : House := {}
  egress : Egress := {}
  orders : Orders := {}
deriving DecidableEq, Repr

/-- The part right after the power-on reset, strapped as node 1 (DESIGN CHOICE, log entry 1: the straps
are the board's; unconnected ones would read 0 and leave the part in strap fault). -/
def State.reset : State := { straps := 1, node := 1 }

end Sys2Proof.Machine
end

