-- ==== Sys2Proof/Machine/Ops.lean ====
section
/-! DEFINITION. The named operations over the part's state: one home for every read and write of a lane,
a program, a record or a word of the delay memory; the rings by stamp, the retired edge and the
acceptance window, retirement and flushing (Chapter 2). -/

namespace Sys2Proof.Machine

/-! ## Reading and writing the parts of the state -/

/-- The part is out of reset: power is in range and RESET_N is high (R180). -/
def State.running (s : State) : Bool := !s.powerReset && !s.resetLow

/-- The own node reads 0 (R12). -/
def State.strapFault (s : State) : Bool := s.node == 0

def State.lane (s : State) (l : Fin 32) : Lane := s.lanes[l]

def State.setLane (s : State) (l : Fin 32) (x : Lane) : State :=
  { s with lanes := s.lanes.set l.val x l.isLt }

def State.program (s : State) (p : Fin 16) : Program := s.programs[p]

def State.setProgram (s : State) (p : Fin 16) (x : Program) : State :=
  { s with programs := s.programs.set p.val x p.isLt }

/-- Rewrite every program by its index. -/
def State.mapPrograms (s : State) (f : Fin 16 → Program → Program) : State :=
  { s with programs := Vector.ofFn fun p => f p (s.program p) }

/-- Rewrite every lane by its index. -/
def State.mapLanes (s : State) (f : Fin 32 → Lane → Lane) : State :=
  { s with lanes := Vector.ofFn fun l => f l (s.lane l) }

def State.entry (s : State) (p : Fin 16) : ProgramEntry := s.tables.programs[p]

def State.laneEntry (s : State) (l : Fin 32) : LaneEntry := s.tables.lanes[l]

def State.rule (s : State) (r : Fin 64) : Rule := s.tables.rules[r]

def State.record (s : State) (r : Fin 64) : Record := s.alarm.records[r]

def State.setRecord (s : State) (r : Fin 64) (x : Record) : State :=
  { s with alarm := { s.alarm with records := s.alarm.records.set r.val x r.isLt } }

def State.egressLane (s : State) (e : Fin 32) : EgressLane := s.egress.lanes[e]

/-- Rewrite every egress lane by its map index. -/
def State.mapEgressLanes (s : State) (f : Fin 32 → EgressLane → EgressLane) : State :=
  { s with egress := { s.egress with lanes := Vector.ofFn fun e => f e (s.egressLane e) } }

/-- The map entry that governs an egress lane in the present frame period (R152). -/
def State.mapEntry (s : State) (e : Fin 32) : MapEntry := s.egress.map[e]

/-! ## Rate classes (00_scope, Rate classes; R55) -/

/-- The nominal ratio R0 of a class. -/
def RateClass.ratio : RateClass → Int
  | .c32 => 11184811
  | .c44 => 15414067
  | .c48 => 16777216
  | .c88 => 30828134
  | .c96 => 33554432

/-- The segment length N of a class (R95). -/
def RateClass.segment : RateClass → Nat
  | .c32 => 3200
  | .c44 => 4410
  | .c48 => 4800
  | .c88 => 8820
  | .c96 => 9600

/-- The place of a class in the weighting table. -/
def RateClass.index : RateClass → Fin 5
  | .c32 => 0
  | .c44 => 1
  | .c48 => 2
  | .c88 => 3
  | .c96 => 4

/-! ## Members, leaders and classes (Chapter 3) -/

/-- The leader's lane: the lane of member 0. -/
def State.leader (s : State) (p : Fin 16) : Option (Fin 32) := (s.entry p).members.head?

/-- The program a lane is a member of (R39 keeps it at most one defined program). -/
def State.programOf (s : State) (l : Fin 32) : Option (Fin 16) :=
  (List.finRange 16).find? fun p => (s.entry p).defined && (s.entry p).members.contains l

/-- The rate class of a program: its members' (R55). -/
def State.classOf (s : State) (p : Fin 16) : RateClass :=
  match s.leader p with
  | some l => (s.laneEntry l).rateClass
  | none => .c48

/-- The nominal ratio R0 of a program: its class's, 2^24 when house-locked (R55). -/
def State.nominal (s : State) (p : Fin 16) : Int :=
  if (s.entry p).houseLocked then 16777216 else (s.classOf p).ratio

/-- The ring size of a lane in words: its region's pages times 1,024 (R17). -/
def LaneEntry.ringSize (e : LaneEntry) : Nat := e.sizePages * 1024

/-- S, the smallest ring size among a program's members (R46, R73). -/
def State.smallestRing (s : State) (p : Fin 16) : Nat :=
  ((s.entry p).members.map fun l => (s.laneEntry l).ringSize).min?.getD 0

/-- The leader's write horizon W. -/
def State.leaderHorizon (s : State) (p : Fin 16) : Option Stamp :=
  (s.leader p).bind fun l => (s.lane l).horizon

/-- The play state of a program. -/
def State.playState (s : State) (p : Fin 16) : PlayState := (s.program p).play.state

/-- The program is not PARKED. -/
def State.active (s : State) (p : Fin 16) : Bool := s.playState p != .parked

/-- The play states in which outputs are computed (R59). -/
def PlayState.sounding : PlayState → Bool
  | .warming | .running | .holdover | .resyncing | .parking => true
  | .parked | .priming => false

/-- The play states in which P free-runs (R61). -/
def PlayState.freeRunning : PlayState → Bool
  | .holdover | .resyncing | .parking => true
  | .parked | .priming | .warming | .running => false

/-! ## The delay memory (R17, R18) -/

/-- The delay memory's words: 4,096 pages of 1,024. -/
def memWords : Nat := 4194304

/-- The word at an index; `none` is EMPTY. -/
def DelayMem.find : DelayMem → Nat → Option RingWord
  | [], _ => none
  | (j, w) :: rest, i => if j = i then some w else DelayMem.find rest i

/-- Put a word at an index, keeping the indices strictly rising. -/
def DelayMem.insert : DelayMem → Nat → RingWord → DelayMem
  | [], i, w => [(i, w)]
  | (j, v) :: rest, i, w =>
    if i < j then (i, w) :: (j, v) :: rest
    else if i = j then (i, w) :: rest
    else (j, v) :: DelayMem.insert rest i w

/-- Put a word at an index of the delay memory; there is no word beyond the last. -/
def DelayMem.put (m : DelayMem) (i : Nat) (w : RingWord) : DelayMem :=
  if i < memWords then m.insert i w else m

/-- Make EMPTY every word whose index the test accepts. -/
def DelayMem.clear (m : DelayMem) (test : Nat → Bool) : DelayMem := m.filter fun c => !test c.1

/-- How many words the test accepts are SUSPECT. -/
def DelayMem.suspects (m : DelayMem) (test : Nat → Bool) : Nat :=
  (m.filter fun c => test c.1 && c.2.suspect).length

/-- The canonical form: the indices strictly rise and lie within the memory. -/
def DelayMem.wf (m : DelayMem) : Bool :=
  decide (m.Pairwise fun a b => a.1 < b.1) && m.all fun c => decide (c.1 < memWords)

/-- The index of the word that holds a stamp of a lane (R17). -/
def LaneEntry.wordIndex (e : LaneEntry) (t : Stamp) : Nat :=
  e.startPage * 1024 + t.toNat % e.ringSize

/-- The index lies in the lane's region. -/
def LaneEntry.inRegion (e : LaneEntry) (i : Nat) : Bool :=
  decide (e.startPage * 1024 ≤ i) && decide (i < e.startPage * 1024 + e.ringSize)

/-! ## The retired edge and the acceptance window (R30) -/

/-- The smaller of two stamps in the signed sense (R30). Two stamps exactly 2^31 apart are each behind the other, and
the first is taken (DESIGN CHOICE, log entry 25). -/
def earlier (a b : Stamp) : Stamp := if ahead a b then b else a

/-- A program's retired edge: the smaller of floor(P) − 15 and M; none without a read position. -/
def State.edge (s : State) (p : Fin 16) : Option Stamp :=
  match (s.program p).conv.pos, (s.program p).meter.pos with
  | some P, some M => some (earlier (P.stamp - 15) M)
  | some P, none => some (P.stamp - 15)
  | none, _ => none

/-- The stamp lies in the window of `size` stamps from the edge. -/
def inWindow (edge : Stamp) (size : Nat) (t : Stamp) : Bool :=
  decide (0 ≤ stampDiff t edge) && decide (stampDiff t edge < size)

/-- Every stamp of a parcel lies in the window. -/
def allInWindow (edge : Stamp) (size : Nat) (first : Stamp) (count : Nat) : Bool :=
  (List.range count).all fun i => inWindow edge size (first + BitVec.ofNat 32 i)

/-- What a reader of stamp `t` of a lane receives: the sample and the mark, 0 and EMPTY for an EMPTY word
or a stamp outside the window (R34). -/
def State.readWord (s : State) (edge : Option Stamp) (l : Fin 32) (t : Stamp) : Int × Mark :=
  let e := s.laneEntry l
  match edge with
  | none => (0, .empty)
  | some from_ =>
    if inWindow from_ e.ringSize t then
      match s.mem.find (e.wordIndex t) with
      | some w => (w.sample.toInt, if w.suspect then .suspect else .good)
      | none => (0, .empty)
    else (0, .empty)

/-- Write the word of stamp `t` of a lane, its mark GOOD or SUSPECT; the taint count moves with the mark
(R18). -/
def State.writeWord (s : State) (l : Fin 32) (t : Stamp) (x : Sample) (suspect : Bool) : State :=
  let i := (s.laneEntry l).wordIndex t
  let was := match s.mem.find i with
    | some w => w.suspect
    | none => false
  let lane := s.lane l
  let taint :=
    match was, suspect with
    | true, false => lane.taint - 1
    | false, true => lane.taint + 1
    | _, _ => lane.taint
  { s.setLane l { lane with taint := taint } with mem := s.mem.put i ⟨x, suspect⟩ }

/-- Write samples to consecutive stamps from `t`. -/
def State.writeRun (s : State) (l : Fin 32) (t : Stamp) (suspect : Bool) : List Sample → State
  | [] => s
  | x :: rest => (s.writeWord l t x suspect).writeRun l (t + 1) suspect rest

/-- Retire the words of a lane from the old edge up to, not including, the new: they become EMPTY and
SUSPECT ones leave the taint count (R33). Every word that is not EMPTY has its stamp within one ring
size of the old edge, so its place in the ring gives its distance from the edge. -/
def State.retireLane (s : State) (l : Fin 32) (old new : Stamp) : State :=
  let e := s.laneEntry l
  let gone : Nat → Bool := fun i =>
    e.inRegion i &&
      decide ((((i - e.startPage * 1024) + e.ringSize - old.toNat % e.ringSize) % e.ringSize : Nat)
        < stampDiff new old)
  let lane := s.lane l
  { s.setLane l { lane with taint := lane.taint - s.mem.suspects gone } with
      mem := s.mem.clear gone }

/-- Retire in every member's ring what a forward move of the edge leaves behind (R33). -/
def State.retire (s : State) (p : Fin 16) (old new : Option Stamp) : State :=
  match old, new with
  | some a, some b =>
    if ahead b a then (s.entry p).members.foldl (fun s l => s.retireLane l a b) s else s
  | _, _ => s

/-- Flush a lane's ring: every word EMPTY, the taint count 0, the horizon and last sequence absent; the
lane state, the idle time and the counters as they were (R34). -/
def State.flushLane (s : State) (l : Fin 32) : State :=
  { s.setLane l { s.lane l with taint := 0, horizon := none, lastSeq := none } with
      mem := s.mem.clear (s.laneEntry l).inRegion }

/-- Flush every member's ring. -/
def State.flushMembers (s : State) (p : Fin 16) : State :=
  (s.entry p).members.foldl (fun s l => s.flushLane l) s

/-! ## Positions and fill -/

/-- Add a ratio to a position: the 56-bit sum of stamp and fraction (R59). -/
def ReadPos.advance (P : ReadPos) (ratio : Int) : ReadPos :=
  let sum : BitVec 56 := (P.stamp ++ P.frac) + BitVec.ofInt 56 ratio
  ⟨sum.extractLsb' 24 32, sum.extractLsb' 0 24⟩

/-- The fill W − P, with P's fraction, in units of 2^−24. -/
def fillFine (W : Stamp) (P : ReadPos) : Int := stampDiff W P.stamp * 16777216 - P.frac.toNat

/-- W − P is at least `target` source samples. -/
def fillAtLeast (W : Stamp) (P : ReadPos) (target : Nat) : Bool :=
  decide ((target : Int) * 16777216 ≤ fillFine W P)

/-- W − P exceeds `size` − 64 source samples (R46, R78). -/
def fillExceeds (W : Stamp) (P : ReadPos) (size : Nat) : Bool :=
  decide (((size : Int) - 64) * 16777216 < fillFine W P)

/-- T held within ±8,389 whatever is written to it (R56). -/
def holdTrim (t : Int) : Int := clampInt (-8389) 8389 t

/-- G held within ±floor(R0/256) whatever is written to it (R56). -/
def holdGlide (nominal g : Int) : Int := clampInt (-(nominal / 256)) (nominal / 256) g

/-- The effective ratio R: 0 while PARKED (R71), 2^24 when house-locked, R0 + T + G otherwise (R56). -/
def State.ratio (s : State) (p : Fin 16) : Int :=
  if s.playState p = .parked then 0
  else if (s.entry p).houseLocked then 16777216
  else s.nominal p + (s.program p).conv.trim + (s.program p).conv.glide

/-- The T that governs the house sample: the one fixed at the frame start it begins at, or as it stands
(R57). -/
def Converter.standingTrim (c : Converter) : Int := (c.fixed.map (·.1)).getD c.trim

/-- The G that governs the house sample (R57). -/
def Converter.standingGlide (c : Converter) : Int := (c.fixed.map (·.2)).getD c.glide

/-- The ratio of the advance in WARMING and RUNNING: R as it stood when the house sample began (R56, R57). -/
def State.heldRatio (s : State) (p : Fin 16) : Int :=
  if (s.entry p).houseLocked then 16777216
  else s.nominal p + (s.program p).conv.standingTrim + (s.program p).conv.standingGlide

/-- The free-running advance R0 + T, with T as it stood when the house sample began; 2^24 when house-locked
(R57, R61). A G that stood then has no part in it (R57 against R61; DESIGN CHOICE, log entry 29). -/
def State.freeRatio (s : State) (p : Fin 16) : Int :=
  if (s.entry p).houseLocked then 16777216 else s.nominal p + (s.program p).conv.standingTrim

end Sys2Proof.Machine
end

