-- ==== Sys2Proof/Machine/Flags.lean ====
section
/-! DEFINITION. What the part derives from its state: the fade target (R50), the changeover decision
(R154 to R157), the alarm conditions (R126) and the alarm lines (R141), and `State.followThrough`, which
hands every such change on in the event that makes it (R140). -/

namespace Sys2Proof.Machine

/-! ## The fade target (R50) -/

/-- OPEN when the program plays, its warm-up has elapsed, MUTE is not in force and no jump is in its
FADE_OUT or HOLD phase; SILENT otherwise (R50). -/
def Program.fadeTarget (x : Program) : FadeTarget :=
  let playing := x.play.state == .running || x.play.state == .holdover
  if playing && x.play.elapsed && x.holds.mute == 0 && x.servo.phase.isNone then .opened else .silent

/-- Re-evaluate the fade target. -/
def Program.retarget (x : Program) : Program :=
  { x with play := { x.play with target := x.fadeTarget } }

/-! ## Changeover (R154 to R157) -/

/-- Changeover is wanted on the program (R154). -/
def State.wanted (s : State) (p : Fin 16) : Bool :=
  match (s.program p).change.force with
  | .forceAlternate => true
  | .automatic => decide (0 < (s.program p).holds.changeover)
  | .forcePrimary => false

/-- A program is healthy as an alternate: defined, RUNNING, and CHANGEOVER not in force on it (R154). -/
def State.healthy (s : State) (a : Fin 16) : Bool :=
  (s.entry a).defined && s.playState a == .running && (s.program a).holds.changeover == 0

/-- Every enabled egress lane whose source program is this one stands at x = 0 (R157). -/
def State.lanesHome (s : State) (p : Fin 16) : Bool :=
  (List.finRange 32).all fun e =>
    !((s.mapEntry e).enabled && (s.mapEntry e).program == p) || (s.egressLane e).x == 0

/-- Enter ALTERNATE with a latch on the candidate if it is present and healthy (R155). The revert count is then 0
(DESIGN CHOICE, log entry 12). -/
def State.trySwitch (s : State) (p : Fin 16) (c : Change) : Option Change :=
  match c.latch.or (s.entry p).alternate with
  | some a =>
    if s.healthy a then some { c with state := .alternate, latch := some a, revert := 0, revertDue := false }
    else none
  | none => none

/-- One re-evaluation of a program's changeover state (R155, R156). -/
def State.evalChange (s : State) (p : Fin 16) (c : Change) : Change :=
  match c.state with
  | .primary =>
    if s.wanted p then (s.trySwitch p c).getD { c with state := .wanted } else c
  | .wanted =>
    if s.wanted p then (s.trySwitch p c).getD c else { c with state := .primary }
  | .alternate =>
    if s.wanted p then c else { c with state := .reverting, revert := 0, revertDue := false }
  | .reverting =>
    if s.wanted p then { c with state := .alternate, revert := 0, revertDue := false } else c

/-- The latch clears in PRIMARY or WANTED once every lane of the program is home (R157). -/
def State.clearLatch (s : State) (p : Fin 16) (c : Change) : Change :=
  if (c.state == .primary || c.state == .wanted) && s.lanesHome p then { c with latch := none } else c

/-- The re-evaluation, the clearing of the latch, and the re-evaluation that a cleared latch brings, since
it changes the candidate (R154, R157). -/
def State.settleChange (s : State) (p : Fin 16) : Change :=
  s.evalChange p (s.clearLatch p (s.evalChange p (s.program p).change))

/-- The program's lanes cross toward the alternate (R158). -/
def ChangeoverState.crossed : ChangeoverState → Bool
  | .alternate | .reverting => true
  | .primary | .wanted => false

/-! ## The alarm lines (R141) -/

/-- A record holds its actions in RAISED and RELEASING (8.3). -/
def RecordState.holding : RecordState → Bool
  | .raised | .releasing => true
  | .clear | .qualifying | .ackWait => false

/-- A record of an enabled rule in RAISED, RELEASING or ACK_WAIT, unacknowledged, drives its line. -/
def State.drives (s : State) (severity : Severity) (r : Fin 64) : Bool :=
  (s.rule r).enabled && (s.rule r).severity == severity && !(s.record r).acked &&
    ((s.record r).state.holding || (s.record r).state == .ackWait)

/-- The state of a line: MAJOR also in strap fault; in strap fault MINOR is inactive (R12, R127, R141). -/
def State.lineActive (s : State) (severity : Severity) : Bool :=
  s.running &&
    (if s.strapFault then severity == .major else (List.finRange 64).any fun r => s.drives severity r)

/-- Drive both lines from the records. -/
def State.driveLines (s : State) : State :=
  { s with alarm :=
    { s.alarm with majorLine := s.lineActive .major, minorLine := s.lineActive .minor } }

/-! ## Handing changes on -/

/-- Hand on at once what a change of play state, action, force, latch or record brings: every program's
fade target, every program's changeover state, and the two lines (R50, R140, R141, R154). -/
def State.followThrough (s : State) : State :=
  let s := s.mapPrograms fun _ x => x.retarget
  let s := s.mapPrograms fun p x => { x with change := s.settleChange p }
  s.driveLines

/-! ## The conditions (R126) -/

/-- LOSS: a member lane is LOST, or its idle time makes it LOST at this tick (R22, R126). -/
def State.lossPresent (s : State) (p : Fin 16) : Bool :=
  (s.entry p).members.any fun l =>
    (s.lane l).status == .lost ||
      ((s.lane l).status != .parked && decide ((s.laneEntry l).lostTime ≤ (s.lane l).idle))

/-- A rule's program-scoped condition at a tick, for a program that is not PARKED (R126). -/
def State.programCondition (s : State) (rl : Rule) (p : Fin 16) : Bool :=
  let x := s.program p
  match rl.kind with
  | .silence => x.events.levels.any fun v => decide (v.momentary < rl.level)
  | .loud => x.events.levels.any fun v => decide (v.target + rl.level < v.shortTerm)
  | .segment => x.events.closes.any fun v => decide (rl.level < ((v.value - v.target).natAbs : Int))
  | .overload => x.events.overload
  | .loss => s.lossPresent p
  | .impaired => match rl.timing with
    | .arrival => x.events.arrival
    | .air => x.events.air
  | .picture =>
    (s.entry p).delayMode == .follow && decide ((s.entry p).pictureTimeout ≤ x.servo.pictureIdle)
  | .clamp => x.servo.clamped
  | .clock => x.conv.trim.natAbs == 8389
  | .trunk | .reference | .shed => false

/-- TRUNK: in HUNT or CHECK at the tick or at any time in its period (R6). -/
def State.trunkPresent (s : State) : Bool := s.rx.framing != .locked || s.rx.trunkSeen

/-- REFERENCE: under EXTERNAL, not LOCKED at the tick or left LOCKED in its period (R151). -/
def State.referencePresent (s : State) : Bool :=
  s.tables.settings.select == .external && (s.house.reference != .locked || s.house.leftLocked)

/-- Whether a rule's condition is present at a tick (R126). A program-scoped condition is absent for a
program that is PARKED or undefined. -/
def State.conditionPresent (s : State) (rl : Rule) : Bool :=
  match rl.scope with
  | some p => (s.entry p).defined && s.active p && s.programCondition rl p
  | none =>
    match rl.kind with
    | .trunk => s.trunkPresent
    | .reference => s.referencePresent
    | .shed => s.alarm.shedSeen
    | _ => false

end Sys2Proof.Machine
end

