-- ==== Sys2Proof/Machine/Levels.lean ====
section
/-! DEFINITION. The exact loudness and gain arithmetic: values in cLU of exact rational energies (R98),
of means over histogram bins (R100), and the linear gain of a value in cLU (R119). Every logarithm is
decided exactly, by comparing integer powers; no rounding enters before the one the rule names. -/

namespace Sys2Proof.Machine

/-- The largest `base + k` with `k < 2^bits` that the test accepts, for a test that holds up to some
point and fails beyond it; `base` when it accepts none. -/
def searchUp (test : Int → Bool) : Nat → Int → Int
  | 0, base => base
  | bits + 1, base =>
    let next := base + 2 ^ bits
    if test next then searchUp test bits next else searchUp test bits base

/-- `a · 10^e ≤ b`, for an exponent of either sign. -/
def powTenLe (a : Nat) (e : Int) (b : Nat) : Bool :=
  if 0 ≤ e then decide (a * 10 ^ e.toNat ≤ b) else decide (a ≤ b * 10 ^ (-e).toNat)

/-- Whether the loudness −0.691 + 10·log10(num/den) LU, rounded to cLU with ties toward +∞, is at least
`n`, before the raise to −7,000: (num/den)^5000 ≥ 10^(5n + 343) (R98). -/
def loudnessAtLeast (num den : Nat) (n : Int) : Bool :=
  powTenLe (den ^ 5000) (5 * n + 343) (num ^ 5000)

/-- The largest value the meter can form, +3,543 cLU (R98). -/
def maxLoudness : Int := 3543

/-- The value in cLU of the energy num/den, raised to −7,000 (R98). -/
def loudness (num den : Nat) : Int :=
  if num = 0 then -7000
  else searchUp (fun n => decide (n ≤ maxLoudness) && loudnessAtLeast num den n) 14 (-7000)

/-! ### Means over histogram bins (R100)

Bin i counts for the energy 10^((−6,918.4 + 25i)/1,000). The mean energy of a list of (bin, count)
pairs is 10^(−6.9184) · X with X = (Σ count · 10^(i/40)) / Σ count, and its value is at least n exactly
when X^1000 ≥ 10^(n + 6,987). -/

/-- The integer part of the 40th root of `v`, of at most `bits` bits, at or above `acc`. -/
def root40 (v : Nat) : Nat → Nat → Nat
  | 0, acc => acc
  | bits + 1, acc =>
    let next := acc + 2 ^ bits
    if next ^ 40 ≤ v then root40 v bits next else root40 v bits acc

/-- ⌊2^bits · 10^(i/40)⌋ for a residue `i` below 40. -/
def rootTenth (bits i : Nat) : Nat := root40 (10 ^ i * 2 ^ (40 * bits)) (bits + 4) 0

/-- The total count of the blocks. -/
def blockCount (blocks : List (Nat × Nat)) : Nat := (blocks.map (·.2)).sum

/-- The bins all have one residue modulo 40, so that the sum is 10^(i/40) times an integer. -/
def oneResidue (blocks : List (Nat × Nat)) : Bool :=
  match blocks with
  | [] => true
  | b :: _ => blocks.all fun c => c.1 % 40 == b.1 % 40

/-- Σ count · 10^(i div 40) over bins of one residue. -/
def wholeSum (blocks : List (Nat × Nat)) : Nat :=
  (blocks.map fun b => b.2 * 10 ^ (b.1 / 40)).sum

/-- The exact comparison X^1000 ≥ 10^m when the bins have one residue `i0`. -/
def oneResidueAtLeast (blocks : List (Nat × Nat)) (i0 m : Nat) : Bool :=
  decide (10 ^ m * blockCount blocks ^ 1000 ≤ 10 ^ (25 * i0) * wholeSum blocks ^ 1000)

/-- Bounds of 2^bits · Σ count · 10^(i/40), below and above. -/
def sumBounds (bits : Nat) (blocks : List (Nat × Nat)) : Nat × Nat :=
  let roots := (List.range 40).map (rootTenth bits)
  ((blocks.map fun b => b.2 * 10 ^ (b.1 / 40) * roots.getD (b.1 % 40) 0).sum,
   (blocks.map fun b => b.2 * 10 ^ (b.1 / 40) * (roots.getD (b.1 % 40) 0 + 1)).sum)

/-- The comparison X^1000 ≥ 10^m by bounds of growing precision. With two residues or more X is no power
of 10^(1/1000), and with counts below 2^32 it differs from one by more than 2^(−70,000), so the last
precision (2^17 bits) always decides. -/
def boundsAtLeast (blocks : List (Nat × Nat)) (m : Nat) : Nat → Nat → Bool
  | 0, _ => true
  | stages + 1, bits =>
    let sums := sumBounds bits blocks
    let whole := 10 ^ m * (blockCount blocks * 2 ^ bits) ^ 1000
    if whole ≤ sums.1 ^ 1000 then true
    else if sums.2 ^ 1000 ≤ whole then false
    else boundsAtLeast blocks m stages (2 * bits)

/-- Whether the value of the mean energy of the blocks is at least `n` (R98, R100). -/
def meanAtLeast (blocks : List (Nat × Nat)) (n : Int) : Bool :=
  if n + 6987 ≤ 0 then true
  else if oneResidue blocks then
    oneResidueAtLeast blocks ((blocks.map (·.1)).headD 0 % 40) (n + 6987).toNat
  else boundsAtLeast blocks (n + 6987).toNat 12 64

/-- The value of the mean energy of the blocks, by (bin, count) pairs with a count above 0 (R100). -/
def meanValue (blocks : List (Nat × Nat)) : Int :=
  searchUp (fun n => decide (n ≤ maxLoudness) && meanAtLeast blocks n) 14 (-7000)

/-- The lower edge of bin `i` (R99). -/
def binEdge (i : Nat) : Int := -7000 + 25 * i

/-- The integrated value of a histogram given as (bin, count) pairs, under an absolute and a relative
gate (R100). -/
def integratedValue (bins : List (Nat × Nat)) (absGate relGate : Int) : Int :=
  let gated := bins.filter fun b => decide (absGate ≤ binEdge b.1) && decide (0 < b.2)
  if gated.isEmpty then -7000
  else
    let threshold := meanValue gated + relGate
    meanValue (gated.filter fun b => decide (threshold ≤ binEdge b.1))

/-- The linear gain of `g` cLU: 2^20 · 10^(g/2000) rounded to nearest, ties toward +∞ (R119): the
largest n with (2n − 1)^2000 ≤ 2^42000 · 10^g. -/
def linearGain (g : Int) : Int :=
  searchUp (fun n => decide (0 < n) && powTenLe ((2 * n - 1).toNat ^ 2000) (-g) (2 ^ 42000)) 24 0

end Sys2Proof.Machine
end

