-- ==== Sys2Proof/Machine/Schedule.lean ====
section
/-! DEFINITION. The event schedule (7.3, 7.4): entries in stamp order, their offer, their play-out as the
read position moves, cue forwarding, and every move of the read position and of the meter position with
the retirement it brings (R33, R58). -/

namespace Sys2Proof.Machine

def Entry.stamp : Entry → Stamp
  | .gain t _ => t
  | .cue t _ _ => t

/-- A new entry goes after every stored entry at or behind its stamp and before every one ahead (R113). Where
stored stamps are spread so wide that no place is both, it goes before the first that is ahead (DESIGN
CHOICE, log entry 25). -/
def insertEntry (e : Entry) : List Entry → List Entry
  | [] => [e]
  | h :: rest => if ahead h.stamp e.stamp then e :: h :: rest else h :: insertEntry e rest

/-- Give the newest stored GAIN entry a new value, keeping its stamp; `none` when there is none (R116). -/
def mergeNewestGain (value : Int) : List Entry → Option (List Entry)
  | [] => none
  | h :: rest =>
    match mergeNewestGain value rest with
    | some rest' => some (h :: rest')
    | none =>
      match h with
      | .gain t _ => some (.gain t value :: rest)
      | .cue _ _ _ => none

/-- The schedule holds at most 128 entries (R113). -/
def scheduleSize : Nat := 128

/-- The cue outbox holds up to 8 parcels (R118). -/
def outboxSize : Nat := 8

/-- The egress tag of the lowest-indexed enabled egress map entry that takes member 0 of the program
(R118). -/
def State.cueTag (s : State) (p : Fin 16) : Option Byte :=
  ((List.finRange 32).find? fun e =>
    (s.mapEntry e).enabled && (s.mapEntry e).program == p && (s.mapEntry e).member == 0).map
    fun e => (s.mapEntry e).tag

/-- One more forward drop of a program (R118). -/
def State.dropForward (s : State) (p : Fin 16) : State :=
  let x := s.program p
  s.setProgram p { x with gain := { x.gain with forwardDrops := satAdd x.gain.forwardDrops 1 } }

/-- Place a parcel at the tail of the cue outbox, or count a forward drop of its program (R118). -/
def State.placeCue (s : State) (c : CueOut) : State :=
  if s.egress.outbox.length < outboxSize then
    { s with egress := { s.egress with outbox := s.egress.outbox ++ [c] } }
  else s.dropForward c.program

/-- Place a CUE entry that takes effect in the cue outbox, stamped with the next house sample to begin, or
count a forward drop (R118). -/
def State.forwardCue (s : State) (p : Fin 16) (kind : CueType) (mark : BitVec 16) : State :=
  match s.cueTag p with
  | some tag => s.placeCue ⟨tag, s.house.stamp, kind, mark, p⟩
  | none => s.dropForward p

/-- The parcels placed in the outbox before the house sample under way began (R118). -/
def Egress.cuesBefore (e : Egress) : List CueOut := e.outbox.take (e.sampleFrom.getD e.outbox.length)

/-- The parcels placed in the outbox at the house sample under way (R118). -/
def Egress.cuesSince (e : Egress) : List CueOut := e.outbox.drop (e.sampleFrom.getD e.outbox.length)

/-- Take an effect that belongs to the house sample under way, with the cues it places standing ahead of those that
higher programs have placed at that house sample: these are taken out, the effect is taken, and they are placed again
(R118). -/
def State.inProgramOrder (s : State) (p : Fin 16) (effect : State → State) : State :=
  let since := s.egress.cuesSince
  let t := effect { s with egress := { s.egress with
    outbox := s.egress.cuesBefore ++ since.filter fun c => decide (c.program ≤ p) } }
  (since.filter fun c => decide (p < c.program)).foldl State.placeCue t

/-- A GAIN entry takes effect: Ga becomes its value and a ramp starts from the linear gain as it stands
(R117, R119). -/
def Gain.startRamp (g : Gain) (value : Int) : Gain :=
  { g with applied := value, rampStart := g.linear, rampEnd := linearGain value, rampStep := 0 }

/-- An entry takes effect (R117). -/
def State.takeEffect (s : State) (p : Fin 16) (e : Entry) : State :=
  match e with
  | .gain _ value => s.setProgram p { s.program p with gain := (s.program p).gain.startRamp value }
  | .cue _ kind mark => s.forwardCue p kind mark

/-- Every stored entry whose stamp floor(P) reaches or passes leaves the schedule, and they take effect in list
order (R117). -/
def State.playOut (s : State) (p : Fin 16) : State :=
  let x := s.program p
  match x.conv.pos with
  | none => s
  | some P =>
    let due := x.gain.schedule.filter fun e => !ahead e.stamp P.stamp
    let left := x.gain.schedule.filter fun e => ahead e.stamp P.stamp
    let s := s.setProgram p { x with gain := { x.gain with schedule := left } }
    due.foldl (fun s e => s.takeEffect p e) s

/-- Offer an entry to the schedule: it takes effect at once when its stamp is not ahead of floor(P), is
stored when there is room, and otherwise is merged or dropped by its kind. The answer says whether the
schedule took it (R112, R114, R116). -/
def State.offer (s : State) (p : Fin 16) (e : Entry) : Bool × State :=
  let x := s.program p
  let atOnce := match x.conv.pos with
    | some P => !ahead e.stamp P.stamp
    | none => false
  if atOnce then (true, s.takeEffect p e)
  else if x.gain.schedule.length < scheduleSize then
    (true, s.setProgram p { x with gain := { x.gain with schedule := insertEntry e x.gain.schedule } })
  else
    match e with
    | .gain _ value =>
      match mergeNewestGain value x.gain.schedule with
      | some merged =>
        (true, s.setProgram p { x with gain :=
          { x.gain with schedule := merged, coalesces := satAdd x.gain.coalesces 1 } })
      | none =>
        (false, s.setProgram p { x with gain := { x.gain with gainDrops := satAdd x.gain.gainDrops 1 } })
    | .cue _ _ _ =>
      (false, s.setProgram p { x with gain := { x.gain with cueDrops := satAdd x.gain.cueDrops 1 } })

/-- Move the read position: the retired edge follows it and the schedule plays out to it (R33, R58). -/
def State.movePos (s : State) (p : Fin 16) (P : ReadPos) : State :=
  let x := s.program p
  let moved := s.setProgram p { x with conv := { x.conv with pos := some P } }
  (moved.retire p (s.edge p) (moved.edge p)).playOut p

/-- Set the read position to a stamp with fraction 0; every setting clears the hold flag (R58, R60). -/
def State.setPos (s : State) (p : Fin 16) (t : Stamp) : State :=
  let x := s.program p
  (s.setProgram p { x with conv := { x.conv with hold := false } }).movePos p ⟨t, 0⟩

/-! ## The ramp (R119, R120) -/

/-- One step of the ramp, before the gain is applied to an output (R119). -/
def Gain.stepRamp (g : Gain) : Gain :=
  if g.rampStep < 480 then
    let j := g.rampStep + 1
    { g with rampStep := j, linear := g.rampStart + ((g.rampEnd - g.rampStart) * j).tdiv 480 }
  else g

/-- The gained sample before saturation: y × g / 2^20 rounded to nearest, ties toward +∞ (R120). -/
def gainedSample (y g : Int) : Int := roundShift (y * g) 20

/-- The faded sample: the gained sample times k, divided by 480, truncated toward zero (R51). -/
def fadedSample (x : Int) (k : Nat) : Int := (x * k).tdiv 480

/-! ## Resync and park (R121, R122) -/

/-- At the RESYNCING flush: the schedule is discarded, the ramp finishes at g(Ga), Gs and Ga are kept, and
the re-issue flag is set when they differ (R121). -/
def Gain.resync (g : Gain) : Gain :=
  { g with
    schedule := [], linear := linearGain g.applied, rampStart := linearGain g.applied
    rampEnd := linearGain g.applied, rampStep := 480
    reissue := g.reissue || g.scheduled != g.applied }

/-- At the end of PARKING: gains and ramp at rest, the schedule discarded, the counters kept (R122). -/
def Gain.park (g : Gain) : Gain :=
  { g with
    scheduled := 0, applied := 0, linear := 1048576, rampStart := 1048576, rampEnd := 1048576
    rampStep := 480, reissue := false, schedule := [] }

end Sys2Proof.Machine
end

