-- ==== Sys2Proof/Machine/Meter.lean ====
section
/-! DEFINITION. The Loudness Meter and the gain decision (Chapters 6 and 7): weighting, the measurement of
one stamp, the nine steps of a segment end in their order, and the move of the meter position. -/

namespace Sys2Proof.Machine

/-! ## Weighting (R93) -/

/-- The sum of products of one biquad, exact (R93). -/
def Biquad.sum (c : Biquad) (b : BiquadState) (x0 : Int) : Int :=
  c.b0.toInt * x0 + c.b1.toInt * b.x1 + c.b2.toInt * b.x2 - c.a1.toInt * b.v1 - c.a2.toInt * b.v2

/-- One input through a biquad: its saturated output, and its state after (R93). -/
def Biquad.run (c : Biquad) (b : BiquadState) (x0 : Int) : Int × BiquadState :=
  let v := clampInt (-134217728) 134217728 (roundShift (c.sum b x0) 28)
  (v, { x1 := x0, x2 := b.x1, v1 := v, v2 := b.v1 })

/-- One sample of a member: weighted through both biquads and squared into the sum, its magnitude into the
peak (R92). -/
def MemberMeter.measure (w : Weighting) (m : MemberMeter) (x : Int) : MemberMeter :=
  let (u, f) := w.first.run m.first x
  let (v, g) := w.second.run m.second u
  { first := f, second := g, sum := m.sum + v.natAbs ^ 2, peak := max m.peak x.natAbs }

/-! ## Energies and values (R96 to R98) -/

/-- The denominator of a held energy: N · 1,000 · 2^46 (R96). -/
def energyUnit (cls : RateClass) : Nat := cls.segment * 1000 * 2 ^ 46

/-- The segment energy z in units of 1/(N·1,000·2^46): the weighted sum of the members' segment sums
(R96). -/
def segmentEnergy (weights : List Nat) (members : List MemberMeter) : Nat :=
  ((weights.zip members).map fun wm => wm.1 * wm.2.sum).sum

/-- The value in cLU of the mean of the last `n` energies, or of all when there are fewer (R97, R98). -/
def meanLoudness (unit n : Nat) (history : List Nat) : Int :=
  let last := history.drop (history.length - n)
  loudness last.sum (last.length * unit)

/-- Enter an energy in the history of the 30 most recent (R96). -/
def pushEnergy (history : List Nat) (z : Nat) : List Nat :=
  let h := history ++ [z]
  h.drop (h.length - 30)

/-! ## The histogram (R99, R100) -/

/-- The bin of a momentary value of at least −7,000; bin 299 takes everything from +475 up (R99). -/
def histogramBin (value : Int) : Fin 300 :=
  let i := ((value + 7000) / 25).toNat
  if h : i < 300 then ⟨i, h⟩ else 299

/-- The occupied bins as (bin, count) pairs. -/
def Meter.bins (m : Meter) : List (Nat × Nat) :=
  ((List.finRange 300).map fun i => (i.val, m.histogram[i])).filter fun b => b.2 != 0

/-- The total count of the blocks. -/
def Meter.blocks (m : Meter) : Nat := blockCount m.bins

/-- The total in four bytes (R102, 11.4); beyond them it is not stated. -/
def blockTotal (n : Nat) : BitVec 32 :=
  if n < 4294967296 then BitVec.ofNat 32 n else Config.blockTotalPast n

/-- Offer the momentary block: in OPEN, complete, of an energy above 0 whose unraised value is at least
−7,000, and not below the absolute gate (R99). -/
def Meter.enterBlock (m : Meter) (unit : Nat) (absGate : Int) : Meter :=
  let last := m.history.drop (m.history.length - 4)
  let z := last.sum
  if m.integration == .opened && last.length == 4 && z != 0 &&
      loudnessAtLeast z (4 * unit) (-7000) && decide (absGate ≤ m.momentary) then
    let i := histogramBin m.momentary
    { m with histogram := m.histogram.set i.val (min (m.histogram[i] + 1) 4294967295) i.isLt }
  else m

/-! ## Segment cues (R101, R102) -/

/-- Place a cue after every listed cue at or behind its stamp (R101). Where listed stamps are spread so wide
that they have no order, it goes before the first that is ahead of it (DESIGN CHOICE, log entry 25). -/
def insertCue (c : Stamp × CueType) : List (Stamp × CueType) → List (Stamp × CueType)
  | [] => [c]
  | h :: rest => if ahead h.1 c.1 then c :: h :: rest else h :: insertCue c rest

/-- List a segment cue for the meter, or count an overflow; a USER_MARK, or a cue entered while M is
absent, is not listed (R101). -/
def Meter.listCue (m : Meter) (t : Stamp) (kind : CueType) : Meter :=
  if kind == .userMark || m.pos.isNone then m
  else if m.cues.length < 16 then { m with cues := insertCue (t, kind) m.cues }
  else { m with cueOverflows := satAdd m.cueOverflows 1 }

/-- Apply one segment cue to the integration; the answer lists the values that a close hands to the
SEGMENT rules (R102, R104). A close behind a SEGMENT_START of the same segment end freezes the value of step 4, though
the histogram is empty by then (DESIGN CHOICE, log entry 27). -/
def Meter.applyCue (m : Meter) (c : Stamp × CueType) : Meter × List Int :=
  match c.2, m.integration with
  | .segmentStart, _ =>
    ({ m with histogram := Vector.replicate 300 0, integration := .opened }, [])
  | .segmentEnd, .opened =>
    ({ m with
        integration := .closed
        record := some ⟨m.integrated, c.1, blockTotal m.blocks, m.segments⟩ }, [m.integrated])
  | .segmentEnd, .closed => (m, [])
  | .userMark, _ => (m, [])

/-- Apply a list of cues in order. -/
def Meter.applyCues (m : Meter) : List (Stamp × CueType) → Meter × List Int
  | [] => (m, [])
  | c :: rest =>
    let (m1, v1) := m.applyCue c
    let (m2, v2) := m1.applyCues rest
    (m2, v1 ++ v2)

/-! ## The gain decision (R112) -/

/-- The new scheduled gain: one step from Gs toward the desired gain (R112). -/
def Profile.nextGain (f : Profile) (gs short : Int) : Int :=
  let desired := clampInt (-f.maxCut) f.maxBoost (f.target - short)
  let stepped :=
    if desired < gs then max desired (gs - f.attack)
    else if gs < desired then min desired (gs + f.release)
    else gs
  clampInt (-3000) 2000 stepped

/-- Step 6 of a segment end: the Gain Law acts when the block is complete, the short-term value is at
least the hold gate and FREEZE is not in force, and offers a GAIN entry at the boundary (R112). -/
def State.decideGain (s : State) (p : Fin 16) (boundary : Stamp) : State :=
  let x := s.program p
  let f := s.tables.profiles[(s.entry p).profile]
  if decide (4 ≤ x.meter.history.length) && decide (f.holdGate ≤ x.meter.shortTerm) &&
      x.holds.freeze == 0 then
    let next := f.nextGain x.gain.scheduled x.meter.shortTerm
    if next != x.gain.scheduled || x.gain.reissue then
      let (taken, s) := s.offer p (.gain boundary next)
      if taken then
        let y := s.program p
        s.setProgram p { y with gain := { y.gain with scheduled := next, reissue := false } }
      else s
    else s
  else s

/-! ## Meter reports (R105, R106) -/

/-- The report of this segment end (R106). -/
def State.makeReport (s : State) (p : Fin 16) : MeterReport :=
  let x := s.program p
  { node := s.tables.settings.node
    program := p
    play := x.play.state
    integration := x.meter.integration
    segments := x.meter.segments
    momentary := x.meter.momentary
    shortTerm := x.meter.shortTerm
    integrated := match x.meter.integration, x.meter.record with
      | .closed, some r => r.value
      | _, _ => x.meter.integrated
    scheduled := x.gain.scheduled
    applied := x.gain.applied
    delay := x.servo.delay
    mode := x.servo.mode
    peaks := x.meter.members.map (·.peak) }

/-- Step 8 of a segment end: the report count, and a report when one is due and there is a management
node (R105). -/
def State.stepReport (s : State) (p : Fin 16) : State :=
  let x := s.program p
  let interval := (s.entry p).meterInterval
  if interval = 0 then s.setProgram p { x with meter := { x.meter with reportCount := 0 } }
  else if x.meter.reportCount + 1 < interval then
    s.setProgram p { x with meter := { x.meter with reportCount := x.meter.reportCount + 1 } }
  else
    let report := if s.tables.settings.node = 0 then x.meter.report else some (s.makeReport p)
    s.setProgram p { x with meter := { x.meter with reportCount := 0, report := report } }

/-! ## Segment ends (R95) -/

/-- The segment count after one more segment end; past 2^32 − 1 it is not stated. -/
def nextSegmentCount (n : BitVec 32) (boundary : Stamp) : BitVec 32 :=
  if n = 4294967295 then Config.segmentCountPast boundary else n + 1

/-- Steps 1 to 4: energy, momentary and short-term values, histogram, integrated value (R95). -/
def Meter.closeSegment (m : Meter) (cls : RateClass) (weights : List Nat) (f : Profile) : Meter :=
  let unit := energyUnit cls
  let m := { m with
    segments := nextSegmentCount m.segments m.boundary
    boundary := m.boundary + BitVec.ofNat 32 cls.segment
    history := pushEnergy m.history (segmentEnergy weights m.members)
    members := m.members.map fun (x : MemberMeter) => { x with sum := 0 } }
  let m := { m with momentary := meanLoudness unit 4 m.history, shortTerm := meanLoudness unit 30 m.history }
  let m := m.enterBlock unit f.absGate
  { m with integrated := integratedValue m.bins f.absGate f.relGate }

/-- The end of a segment: the nine steps in their order, each seeing what those before it left (R95). Step 7
takes every listed cue behind the boundary, in list order, wherever in the list it stands (R101, R102;
DESIGN CHOICE, log entry 25). -/
def State.endSegment (s : State) (p : Fin 16) : State :=
  let e := s.entry p
  let f := s.tables.profiles[e.profile]
  let boundary := (s.program p).meter.boundary
  let x := s.program p
  let m := x.meter.closeSegment (s.classOf p) e.weights.toList f
  let s := s.setProgram p { x with
    meter := m
    events := { x.events with levels := x.events.levels ++ [⟨m.momentary, m.shortTerm, f.target⟩] } }
  let s := s.decideGain p boundary
  let y := s.program p
  let due := y.meter.cues.filter fun c => behind c.1 boundary
  let left := y.meter.cues.filter fun c => !behind c.1 boundary
  let (m, closes) := Meter.applyCues { y.meter with cues := left } due
  let s := s.setProgram p { y with
    meter := m
    events := { y.events with closes := y.events.closes ++ closes.map fun v => ⟨v, f.target⟩ } }
  let s := s.stepReport p
  let z := s.program p
  s.setProgram p { z with meter :=
    { z.meter with members := z.meter.members.map fun (x : MemberMeter) => { x with peak := 0 } } }

/-! ## The meter position (R91, R92) -/

/-- Measure stamp `t`: each member's word as a reader receives it, an EMPTY word as 0, its mark unread
(R92). -/
def State.measureStamp (s : State) (p : Fin 16) (edge : Option Stamp) (t : Stamp) : State :=
  let x := s.program p
  let w := s.tables.weightings[(s.classOf p).index]
  let members := ((s.entry p).members.zip x.meter.members).map fun lm =>
    lm.2.measure w (s.readWord edge lm.1 t).1
  s.setProgram p { x with meter := { x.meter with members := members } }

/-- Measure `n` stamps from `t`, ending each segment as its last stamp is measured (R92, R95). -/
def State.measureRun (s : State) (p : Fin 16) (edge : Option Stamp) : Nat → Stamp → State
  | 0, _ => s
  | n + 1, t =>
    let s := s.measureStamp p edge t
    let s := if t + 1 = (s.program p).meter.boundary then s.endSegment p else s
    s.measureRun p edge n (t + 1)

/-- Move M to a stamp if that is ahead of it, measuring every stamp passed; the retired edge follows
(R33, R91). -/
def State.moveMeter (s : State) (p : Fin 16) (target : Stamp) : State :=
  match (s.program p).meter.pos with
  | none => s
  | some M =>
    if ahead target M then
      let measured := s.measureRun p (s.edge p) (stampDiff target M).toNat M
      let x := measured.program p
      let moved := measured.setProgram p { x with meter := { x.meter with pos := some target } }
      moved.retire p (s.edge p) (moved.edge p)
    else s

/-- A leader write that moved W to a stamp takes M to W minus the cushion (R91). -/
def State.meterFollows (s : State) (p : Fin 16) (W : Stamp) : State :=
  s.moveMeter p (W - BitVec.ofNat 32 (s.entry p).cushion)

/-- The leader's first parcel sets M: origin, count, sums, peaks, filters and report count afresh (R91). -/
def Meter.begin (m : Meter) (t : Stamp) (cls : RateClass) (members : Nat) : Meter :=
  { m with
    pos := some t, origin := some t, boundary := t + BitVec.ofNat 32 cls.segment, segments := 0
    members := List.replicate members {}, reportCount := 0 }

/-- At the RESYNCING flush: M and the history go; histogram, integration state, record, pending report,
overflow count and last readings stay (R107). -/
def Meter.resync (m : Meter) : Meter :=
  { m with
    pos := none, origin := none, boundary := 0, segments := 0, members := [], history := []
    cues := [], reportCount := 0 }

/-- At the end of PARKING: everything but the overflow count is as after a reset (R108). -/
def Meter.park (m : Meter) : Meter := { cueOverflows := m.cueOverflows }

end Sys2Proof.Machine
end

