-- ==== Sys2Proof/Machine/Programs.lean ====
section
/-! DEFINITION. The play states (Chapter 3), the delay target (5.1), the servo update (5.3), the jump
(5.4) and the picture follower (5.5), over one program. -/

namespace Sys2Proof.Machine

/-! ## The delay target (R72 to R74) -/

/-- F* for a delay: round(D × R0 / 2^24) + cushion, ties toward +∞ (R72). -/
def fillTarget (delay : Nat) (nominal : Int) (cushion : Nat) : Nat :=
  (delay * nominal.toNat + 8388608) / 16777216 + cushion

/-- D_max: the largest D up to 480,000 with round(D × R0 / 2^24) + cushion + 64 at most `ring` (R73). -/
def delayLimit (ring cushion : Nat) (nominal : Int) : Nat :=
  min 480000 (((ring - cushion - 64) * 16777216 + 8388607) / nominal.toNat)

/-- Put a delay target in force: D limited to D_max, the clamped flag, and F* (R74). -/
def State.putInForce (s : State) (p : Fin 16) (v : Nat) : State :=
  let x := s.program p
  let d := min v x.servo.limit
  s.setProgram p { x with servo := { x.servo with
    delay := d
    clamped := decide (x.servo.limit < v)
    fill := fillTarget d (s.nominal p) (s.entry p).cushion } }

/-! ## Discontinuity marks (R160) -/

/-- The program feeds the enabled egress lane: as its source program, or, with x above 0, as the latched
alternate of its source program (R160). -/
def State.feeds (s : State) (p : Fin 16) (e : Fin 32) : Bool :=
  (s.mapEntry e).enabled &&
    ((s.mapEntry e).program == p ||
      (decide (0 < (s.egressLane e).x) && (s.program (s.mapEntry e).program).change.latch == some p))

/-- The program marks a discontinuity: it becomes owed on every egress lane it feeds (R160). -/
def State.markDiscontinuity (s : State) (p : Fin 16) : State :=
  s.mapEgressLanes fun e x => if s.feeds p e then { x with owed := true } else x

/-! ## Entries to the play states -/

/-- On entry to HOLDOVER, RESYNCING and PARKING: G 0, the hold flag clear, any glide or jump ended, the
mode TRACK; T is kept (R45, R48, R49, R71, R90), and a T fixed for the house sample still governs it (R57). A G fixed
for it is dropped (R57 against R61; DESIGN CHOICE, log entry 29). -/
def Program.suspend (x : Program) (st : PlayState) : Program :=
  { x with
    play := { x.play with state := st }
    conv := { x.conv with glide := 0, hold := false, fixed := x.conv.fixed.map fun f => (f.1, 0) }
    servo := { x.servo with mode := .track, phase := none } }

/-- A RESYNC request reaches a program: from PRIMING with P set, WARMING, RUNNING or HOLDOVER it enters
RESYNCING and the resync count rises; in any other state nothing comes of it (R47, R48). -/
def State.requestResync (s : State) (p : Fin 16) : State :=
  let x := s.program p
  match x.play.state with
  | .priming | .warming | .running | .holdover =>
    if x.conv.pos.isNone then s
    else
      let y := x.suspend .resyncing
      (s.setProgram p { y with play := { y.play with resyncs := satAdd y.play.resyncs 1 } }).followThrough
  | .parked | .resyncing | .parking => s

/-- A RUNNING program whose leader became LOST enters HOLDOVER (R45). -/
def State.enterHoldover (s : State) (p : Fin 16) : State :=
  (s.setProgram p ((s.program p).suspend .holdover)).followThrough

/-- The program enters RUNNING with the servo in TRACK and G = 0 (R43, R46). -/
def State.enterRunning (s : State) (p : Fin 16) : State :=
  let x := s.program p
  (s.setProgram p { x with
    play := { x.play with state := .running }
    conv := { x.conv with glide := 0 }
    servo := { x.servo with mode := .track, phase := none } }).followThrough

/-- The leader is LOST. -/
def State.leaderLost (s : State) (p : Fin 16) : Bool :=
  match s.leader p with
  | some l => (s.lane l).status == .lost
  | none => false

/-- The test of R42: PRIMING with P and W, and W − P at least F*. -/
def State.fillReachedDue (s : State) (p : Fin 16) : Bool :=
  s.playState p == .priming &&
    match (s.program p).conv.pos, s.leaderHorizon p with
    | some P, some W => fillAtLeast W P (s.program p).servo.fill
    | _, _ => false

/-- P is set to W − F* and the program enters WARMING with its warm-up to count; if its leader is already LOST
it goes on at once to RESYNCING (R42, R43). -/
def State.enterWarming (s : State) (p : Fin 16) : State :=
  match s.leaderHorizon p with
  | none => s
  | some W =>
    let s := s.setPos p (W - BitVec.ofNat 32 (s.program p).servo.fill)
    let x := s.program p
    let s := s.setProgram p { x with play :=
      { x.play with state := .warming, warmUpLeft := 48 * x.play.warmUpSet } }
    if s.leaderLost p then s.requestResync p else s.followThrough

/-- The warm-up has counted down (R43). -/
def State.warmUpEndDue (s : State) (p : Fin 16) : Bool :=
  s.playState p == .warming && (s.program p).play.warmUpLeft == 0

/-- The warm-up ends: the elapsed flag yes, RUNNING, the fade target re-evaluated (R43). -/
def State.endWarmUp (s : State) (p : Fin 16) : State :=
  let x := s.program p
  (s.setProgram p { x with play := { x.play with elapsed := true } }).enterRunning p

/-- RESYNCING waits for k = 0 (R48, R50). -/
def State.flushDue (s : State) (p : Fin 16) : Bool :=
  s.playState p == .resyncing && (s.program p).play.fade == 0

/-- The six parts of the step that ends RESYNCING (R48), with the discontinuity it marks (R160). -/
def State.resyncFlush (s : State) (p : Fin 16) : State :=
  let s := s.flushMembers p
  let x := s.program p
  let s := s.setProgram p { x with
    play := { x.play with state := .priming, warmUpSet := 20, elapsed := false }
    conv := { x.conv with pos := none, glide := 0, hold := false, fixed := none }
    meter := x.meter.resync
    gain := x.gain.resync }
  (s.markDiscontinuity p).followThrough

/-! ## Starting (R40, R41) -/

/-- Two regions share a page (R40). -/
def LaneEntry.overlaps (a b : LaneEntry) : Bool :=
  decide (a.startPage < b.startPage + b.sizePages) && decide (b.startPage < a.startPage + a.sizePages)

/-- No two lanes of the list have regions that share a page. -/
def State.regionsApart (s : State) : List (Fin 32) → Bool
  | [] => true
  | l :: rest =>
    (rest.all fun k => !(s.laneEntry l).overlaps (s.laneEntry k)) && s.regionsApart rest

/-- The checks of R40 after the index, in their order: the first refusal, or none. -/
def State.startRefusal (s : State) (p : Fin 16) : Option Status :=
  let e := s.entry p
  if !e.defined then some .refusedState
  else if s.active p then some .refusedState
  else if !e.members.all (fun l => (s.laneEntry l).defined) then some .refusedState
  else if !e.members.all (fun l => (s.lane l).status == .parked) then some .refusedState
  else if !e.members.all (fun l => (s.laneEntry l).rateClass == s.classOf p) then some .refusedConflict
  else if e.houseLocked && s.classOf p != .c48 then some .refusedConflict
  else if !s.regionsApart e.members then some .refusedConflict
  else if !e.members.all (fun l => (List.finRange 32).all fun k =>
      (s.lane k).status == .parked || !(s.laneEntry l).overlaps (s.laneEntry k)) then
    some .refusedConflict
  else none

/-- A member lane at a START: ARMED, idle 0, horizon and last sequence absent, taint 0 (R19). -/
def Lane.arm (x : Lane) : Lane :=
  { x with status := .armed, idle := 0, horizon := none, lastSeq := none, taint := 0 }

/-- START or auto-start of a program that passed the checks: its lanes ARMED, PRIMING, T and G 0, TRACK,
D_max formed and the manual delay put in force (R41, R71, R73, R74, R90). -/
def State.startProgram (s : State) (p : Fin 16) : State :=
  let e := s.entry p
  let s := s.mapLanes fun l x => if e.members.contains l then x.arm else x
  let x := s.program p
  let s := s.setProgram p { x with
    play := { x.play with
      state := .priming, fade := 0, target := .silent, elapsed := false, warmUpSet := e.warmUp }
    conv := { x.conv with pos := none, trim := 0, glide := 0, hold := false, fixed := none }
    servo := { limit := delayLimit (s.smallestRing p) e.cushion (s.nominal p) }
    meter := { x.meter with pos := none }
    gain := { x.gain with schedule := [] } }
  (s.putInForce p e.manualDelay).followThrough

/-! ## The servo (R78 to R82, R86) -/

/-- The values of a band set (R77). -/
def State.bandSet (s : State) (i : Fin 4) : BandSet :=
  match i with
  | 0 => ⟨2, 16⟩
  | 1 => ⟨4, 48⟩
  | 2 => ⟨12, 192⟩
  | 3 => s.tables.band3

/-- The band set a program names (R77). -/
def State.bands (s : State) (p : Fin 16) : BandSet := s.bandSet (s.entry p).bandSet

/-- Gmax by the glide rate: R0 shifted right by 12, 10 or 8 places (R81). -/
def glideMax (nominal : Int) : GlideRate → Int
  | .slow => nominal / 4096
  | .medium => nominal / 1024
  | .fast => nominal / 256

/-- E = floor(W − P − F*) (R78). -/
def servoError (W : Stamp) (P : ReadPos) (fill : Nat) : Int := fillFine W P / 16777216 - fill

/-- A jump begins: mode JUMP, phase FADE_OUT, G 0, T kept (R82). -/
def Program.beginJump (x : Program) : Program :=
  { x with
    conv := { x.conv with glide := 0 }
    servo := { x.servo with mode := .jump, phase := some .fadeOut } }

/-- A GLIDE update: back to TRACK within b1, otherwise G = ±Gmax in the direction of E (R81). -/
def Program.glideUpdate (x : Program) (E : Int) (b1 : Nat) (nominal gmax : Int) : Program :=
  if E.natAbs ≤ b1 then
    { x with conv := { x.conv with glide := 0 }, servo := { x.servo with mode := .track } }
  else
    { x with
      conv := { x.conv with glide := holdGlide nominal (if 0 < E then gmax else -gmax) }
      servo := { x.servo with mode := .glide } }

/-- A TRACK update: nothing within b1, one unit of trim up to b2, a glide beyond (R79). A house-locked
program has no trim and no glide (R86). -/
def Program.trackUpdate (x : Program) (E : Int) (b : BandSet) (nominal gmax : Int)
    (houseLocked : Bool) : Program :=
  if E.natAbs ≤ b.b1 || houseLocked then x
  else if E.natAbs ≤ b.b2 then
    { x with conv := { x.conv with trim := holdTrim (x.conv.trim + if 0 < E then 1 else -1) } }
  else x.glideUpdate E b.b1 nominal gmax

/-- The servo update of one program at an egress frame start: E, then the first that applies of overrun,
jump start, and the action of the mode (R78). -/
def State.servoUpdate (s : State) (p : Fin 16) : State :=
  let x := s.program p
  match x.play.state, x.conv.pos, s.leaderHorizon p with
  | .running, some P, some W =>
    let e := s.entry p
    let E := servoError W P x.servo.fill
    let x := { x with servo := { x.servo with error := E } }
    let s := s.setProgram p x
    let b := s.bands p
    if fillExceeds W P (s.smallestRing p) then s.requestResync p
    else if x.servo.mode != .jump &&
        ((e.jumpThreshold != 0 && decide (e.jumpThreshold < E.natAbs)) ||
          (e.houseLocked && decide (b.b2 < E.natAbs))) then
      (s.setProgram p x.beginJump).followThrough
    else
      let gmax := glideMax (s.nominal p) e.glideRate
      match x.servo.mode with
      | .track => s.setProgram p (x.trackUpdate E b (s.nominal p) gmax e.houseLocked)
      | .glide => s.setProgram p (x.glideUpdate E b.b1 (s.nominal p) gmax)
      | .jump => s
  | _, _, _ => s

/-! ## The jump (R82 to R85) -/

/-- The jump ends: no phase, mode TRACK, the fade target re-evaluated, a discontinuity marked
(R83, R84, R160). -/
def State.endJump (s : State) (p : Fin 16) : State :=
  let x := s.program p
  let s := s.setProgram p { x with servo := { x.servo with mode := .track, phase := none } }
  (s.markDiscontinuity p).followThrough

/-- A jump's FADE_OUT waits for k = 0 (R82). A house sample that brings k to 0 has advanced P by then (R58; DESIGN
CHOICE, log entry 28). -/
def State.fadeOutDue (s : State) (p : Fin 16) : Bool :=
  s.playState p == .running && (s.program p).servo.phase == some .fadeOut && (s.program p).play.fade == 0

/-- k has reached 0 in FADE_OUT: the fill is compared with F*, and the jump holds, or moves and ends (R82, R83). A move's cues stand in
ascending program index with those of the house sample that brought k to 0 (R118). -/
def State.fadeOutEnd (s : State) (p : Fin 16) : State :=
  match (s.program p).conv.pos, s.leaderHorizon p with
  | some P, some W =>
    let fill := (s.program p).servo.fill
    if fillAtLeast W P fill then (s.inProgramOrder p fun t => t.setPos p (W - BitVec.ofNat 32 fill)).endJump p
    else
      let x := s.program p
      s.setProgram p { x with servo := { x.servo with phase := some .hold } }
  | _, _ => s

/-- The release test of a jump's HOLD: W − P at least F* (R84). -/
def State.releaseDue (s : State) (p : Fin 16) : Bool :=
  s.playState p == .running && (s.program p).servo.phase == some .hold &&
    match (s.program p).conv.pos, s.leaderHorizon p with
    | some P, some W => fillAtLeast W P (s.program p).servo.fill
    | _, _ => false

/-- The hold is released: P is set to W − F*, and the jump ends (R84). -/
def State.jumpRelease (s : State) (p : Fin 16) : State :=
  match s.leaderHorizon p with
  | some W => (s.setPos p (W - BitVec.ofNat 32 (s.program p).servo.fill)).endJump p
  | none => s

/-! ## The picture follower (R87, R89) -/

/-- The delay of a report in house samples: round(µs × 48 / 1000), ties toward +∞ (R87). -/
def pictureSamples (micros : Nat) : Nat := (micros * 48 + 500) / 1000

/-- The proposal Dp (R87). -/
def State.proposal (s : State) (p : Fin 16) (micros : Nat) : Int :=
  clampInt 0 (s.program p).servo.limit ((pictureSamples micros : Int) + (s.entry p).pictureOffset)

/-- A report delivered to a program's Picture Follower: ignored in MANUAL mode or when invalid; otherwise
it restarts the idle time and becomes the last picture delay, and, unless HOLD_DELAY is in force, its
proposal is put in force when it differs from D by at least the deadband (R87, R89). -/
def State.pictureTaken (s : State) (p : Fin 16) (micros : Nat) (valid : Bool) : State :=
  let e := s.entry p
  if e.delayMode == .manual || !valid then s
  else
    let x := s.program p
    let s := s.setProgram p { x with servo :=
      { x.servo with pictureIdle := 0, pictureLast := some micros } }
    if x.holds.holdDelay != 0 then s
    else
      let Dp := s.proposal p micros
      if (e.deadband : Int) ≤ (Dp - x.servo.delay).natAbs then
        let lowered := decide ((x.servo.limit : Int) < (pictureSamples micros : Int) + e.pictureOffset)
        let s := s.putInForce p Dp.toNat
        let y := s.program p
        s.setProgram p { y with servo := { y.servo with clamped := lowered } }
      else s

end Sys2Proof.Machine
end

