-- ==== Sys2Proof/Machine/Alarms.lean ====
section
/-! DEFINITION. The Alarm Unit (Chapter 8): the move of a record at a tick, the moves a tick brings about,
hold counts, notices and the queue that carries them, and the idle counts that fall at a tick. -/

namespace Sys2Proof.Machine

/-! ## Notices (R142 to R145) -/

/-- The notice queue holds up to 16 notices (R143). -/
def noticeSize : Nat := 16

/-- The notice of a rule with its record as it now stands (R142). -/
def State.noticeOf (s : State) (r : Fin 64) : Notice :=
  let x := s.record r
  .rule r x.state x.acked x.last x.lastStamp x.changes

/-- The notice belongs to the rule. -/
def Notice.isOf (n : Notice) (r : Fin 64) : Bool :=
  match n with
  | .rule k _ _ _ _ _ => k == r
  | .started _ _ _ => false

/-- Update a rule's queued notice in place (R143). -/
def State.refreshNotice (s : State) (r : Fin 64) : State :=
  { s with alarm := { s.alarm with
    notices := s.alarm.notices.map fun n => if n.isOf r then s.noticeOf r else n } }

/-- Place a notice made for a rule: in place, at the tail while there is a place, or owed (R143). A rule already owed
stays owed also where departures have left places, and is queued at its turn among the owed rules, in index order
(R143, R144). -/
def State.placeNotice (s : State) (r : Fin 64) : State :=
  let x := s.record r
  if x.queued then s.refreshNotice r
  else if x.owed then s
  else if s.alarm.notices.length < noticeSize then
    let s := s.setRecord r { x with queued := true }
    { s with alarm := { s.alarm with notices := s.alarm.notices ++ [s.noticeOf r] } }
  else s.setRecord r { x with owed := true }

/-- A notice-making change of a record: cause and stamp, and, when a notice flag is yes and there is a
management node, one more change and a notice (R142). -/
def State.noticeChange (s : State) (r : Fin 64) (cause : Cause) (flagged : Bool) : State :=
  let x := { s.record r with last := some cause, lastStamp := s.house.stamp }
  if flagged && s.tables.settings.node != 0 then
    (s.setRecord r { x with changes := min (x.changes + 1) 255 }).placeNotice r
  else s.setRecord r x

/-- The lowest-indexed owed rule is queued at the tail (R144). -/
def State.promoteOwed (s : State) : State :=
  match (List.finRange 64).find? fun r => (s.record r).owed with
  | none => s
  | some r =>
    let s := s.setRecord r { s.record r with owed := false, queued := true }
    { s with alarm := { s.alarm with notices := s.alarm.notices ++ [s.noticeOf r] } }

/-- A departure has left a place in the queue, and a rule is owed (R144). -/
def State.promotionDue (s : State) : Bool :=
  decide (s.alarm.notices.length < noticeSize) && (List.finRange 64).any fun r => (s.record r).owed

/-- Queue owed rules in ascending index while there are places, up to a number of them (R144). -/
def State.promoteUpTo (s : State) : Nat → State
  | 0 => s
  | n + 1 => if s.promotionDue then s.promoteOwed.promoteUpTo n else s

/-- Queue owed rules in the places that departures have left (R144). -/
def State.promoteAll (s : State) : State := s.promoteUpTo noticeSize

/-- ALARM_TICK is due: 48 house samples have passed since the last (R125, R150). -/
def State.tickDue (s : State) : Bool := s.house.toTick == 0

/-- The notice at the head is off the queue, its rule's mark and changes count cleared, no owed rule yet queued (R144). -/
def State.departed (s : State) (n : Notice) (rest : List Notice) : State :=
  let s := { s with alarm := { s.alarm with notices := rest } }
  match n with
  | .rule r _ _ _ _ _ => s.setRecord r { s.record r with queued := false, changes := 0 }
  | .started _ _ _ => s

/-- The notice at the head leaves the queue, and the lowest-indexed owed rule is queued at the tail (R144). Where an
alarm tick is due as well, the frame start was taken ahead of the tick it falls together with (R150): the tick's
notices of rules not owed then take the places ahead of any owed rule, an owed rule that moves at the tick waits for
its owed turn, and `State.promoteAll` queues owed rules, the lowest-indexed first, in what is left before an order or
a house sample is taken (R144; the moment is a DESIGN CHOICE, log entry 10). -/
def State.takeNotice (s : State) : Option (Notice × State) :=
  match s.alarm.notices with
  | [] => none
  | n :: rest =>
    let t := s.departed n rest
    some (n, if s.tickDue then t else t.promoteUpTo 1)

/-- The management node becomes 0: the queue is emptied, every mark cleared and every changes count 0
(R145). -/
def State.dropNotices (s : State) : State :=
  { s with alarm := { s.alarm with
    notices := []
    records := Vector.ofFn fun r =>
      { s.record r with queued := false, owed := false, changes := 0 } } }

/-- Place the STARTED notice at the head; when the queue holds 16, the notice at the tail leaves unsent
and its rule is owed (R146). -/
def State.placeStarted (s : State) (programs : List (Fin 16)) (failed : Nat) : State :=
  let n := Notice.started s.orders.cause programs failed
  if s.alarm.notices.length < noticeSize then
    { s with alarm := { s.alarm with notices := n :: s.alarm.notices } }
  else
    let s' := match s.alarm.notices.getLast? with
      | some (.rule r _ _ _ _ _) => s.setRecord r { s.record r with queued := false, owed := true }
      | _ => s
    { s' with alarm := { s'.alarm with notices := n :: s.alarm.notices.dropLast } }

/-! ## Hold counts (R139) -/

/-- One count for each action the rule names. -/
def Holds.add (h : Holds) (a : Actions) : Holds where
  mute := h.mute + a.mute.toNat
  freeze := h.freeze + a.freeze.toNat
  holdDelay := h.holdDelay + a.holdDelay.toNat
  changeover := h.changeover + a.changeover.toNat

/-- One count less for each action the rule names. -/
def Holds.drop (h : Holds) (a : Actions) : Holds where
  mute := h.mute - a.mute.toNat
  freeze := h.freeze - a.freeze.toNat
  holdDelay := h.holdDelay - a.holdDelay.toNat
  changeover := h.changeover - a.changeover.toNat

/-- The rule's actions are added to its program's hold counts (R134). -/
def State.holdActions (s : State) (rl : Rule) : State :=
  match rl.scope with
  | some p => s.setProgram p { s.program p with holds := (s.program p).holds.add rl.actions }
  | none => s

/-- The rule's actions leave its program's hold counts (R130, R135, R138). -/
def State.releaseActions (s : State) (rl : Rule) : State :=
  match rl.scope with
  | some p => s.setProgram p { s.program p with holds := (s.program p).holds.drop rl.actions }
  | none => s

/-! ## The move of a record at a tick (R131 to R136) -/

/-- The move due once a record qualifies or its window ends (R131 to R133). -/
def Record.qualifyDue (x : Record) (rl : Rule) : Record :=
  if rl.n ≤ x.qual then { x with due := some .raise }
  else if rl.qualify == .count && decide (rl.w ≤ x.window) then { x with due := some .windowEnd }
  else { x with due := none }

/-- RELEASING is left once the release count reaches the release time (R135). -/
def Record.releaseDue (x : Record) (rl : Rule) : Record :=
  { x with due := if rl.releaseTime ≤ x.release then some .release else none }

/-- A record at a tick, its condition present or absent: counts and timers move, a CLEAR record enters
QUALIFYING, a QUALIFYING one under PERSIST returns to CLEAR, and a RAISED one enters RELEASING. Entries to
RAISED, window ends and departures from RELEASING become due (R131 to R136). -/
def Record.tick (x : Record) (rl : Rule) (present : Bool) : Record :=
  let x := { x with due := none }
  match x.state with
  | .clear =>
    if present then
      Record.qualifyDue { x with
        state := .qualifying, acked := false, qual := 1
        window := if rl.qualify = QualifyMode.count then 1 else 0 } rl
    else x
  | .qualifying =>
    match rl.qualify with
    | .persist =>
      if present then Record.qualifyDue { x with qual := x.qual + 1 } rl
      else { x with state := .clear, qual := 0 }
    | .count =>
      Record.qualifyDue { x with window := x.window + 1, qual := x.qual + present.toNat } rl
  | .raised =>
    if x.stretch ≠ 0 then { x with stretch := x.stretch - 1 }
    else if present then x
    else Record.releaseDue { x with state := .releasing, release := 0 } rl
  | .releasing =>
    if present then { x with due := some .raise }
    else Record.releaseDue { x with release := x.release + 1 } rl
  | .ackWait => if present then { x with due := some .raise } else x

/-! ## The moves a tick brings about (R133 to R136) -/

/-- The move is a notice-making change (R142). -/
def DueMove.notifies : DueMove → Bool
  | .raise | .release => true
  | .windowEnd => false

/-- A move of the rule's record makes a notice: its notice flag is yes and there is a management node (R142). -/
def State.reports (s : State) (r : Fin 64) (m : DueMove) : Bool :=
  m.notifies && (s.rule r).notice && s.tables.settings.node != 0

/-- A rule's due move is next: where it makes a notice, no lower-indexed rule has a move due that makes one, since the
notices of one tick are placed in ascending rule index (R142). That such moves are taken as a whole in the order of
their notices is a DESIGN CHOICE (log entry 32): R142 orders only the placing of notices and R125 leaves the order of the
moves open, so where one makes changeover wanted and another costs the candidate its health (R154), the lower rule's is
taken first. A move that makes no notice waits for none. -/
def State.moveDue (s : State) (r : Fin 64) (m : DueMove) : Bool :=
  (s.record r).due == some m &&
    (!s.reports r m || (List.finRange 64).all fun k =>
      decide (r ≤ k) || !((s.record k).due.any fun d => s.reports k d))

/-- A record enters RAISED (R134, R136). Its release count is then 0: from RELEASING the count is discarded (R135), and
from QUALIFYING and ACK_WAIT the 0 is a DESIGN CHOICE (log entry 12). -/
def State.raiseRecord (s : State) (r : Fin 64) : State :=
  let rl := s.rule r
  let x := s.record r
  let fresh := x.state != .releasing
  let s := s.setRecord r { x with
    state := .raised, due := none, release := 0
    stretch := if fresh then rl.stretch else x.stretch
    acked := x.acked && x.state != .ackWait
    raises := if x.state == .qualifying then satAdd x.raises 1 else x.raises }
  let s := if fresh then s.holdActions rl else s
  (s.noticeChange r .raised rl.notice).followThrough

/-- A COUNT window ends short: CLEAR when it held no present tick, otherwise a new window begins at the
next tick (R133). The window tick of 0 in CLEAR is a DESIGN CHOICE (log entry 12). -/
def State.endWindow (s : State) (r : Fin 64) : State :=
  let x := s.record r
  s.setRecord r { x with
    state := if x.qual = 0 then .clear else x.state, qual := 0, window := 0, due := none }

/-- A record leaves RELEASING for CLEAR or ACK_WAIT, its actions released (R135). -/
def State.releaseRecord (s : State) (r : Fin 64) : State :=
  let rl := s.rule r
  let x := s.record r
  let closed := rl.ackMode == .auto || x.acked
  let s := s.setRecord r { x with state := if closed then .clear else .ackWait, due := none }
  let s := s.releaseActions rl
  (s.noticeChange r (if closed then .cleared else .ackWait) rl.notice).followThrough

/-- A record returned to CLEAR with its counts and timers at 0 (R130, R138). -/
def Record.cleared (x : Record) : Record :=
  { x with state := .clear, qual := 0, window := 0, stretch := 0, release := 0, due := none }

/-- The end of a program's PARKING returns one record scoped to it to CLEAR, silently from QUALIFYING
(R138). -/
def State.parkRecord (s : State) (r : Fin 64) : State :=
  let rl := s.rule r
  let x := s.record r
  match x.state with
  | .clear => s
  | .qualifying => s.setRecord r x.cleared
  | .raised | .releasing =>
    ((s.setRecord r x.cleared).releaseActions rl).noticeChange r .parked rl.notice
  | .ackWait => (s.setRecord r x.cleared).noticeChange r .parked rl.notice

/-- Every record scoped to a program returns to CLEAR, in ascending rule index (R138). -/
def State.parkRecords (s : State) (p : Fin 16) : State :=
  (List.finRange 64).foldl
    (fun s r => if (s.rule r).scope == some p then s.parkRecord r else s) s

/-- Acknowledge one rule (R137). A record that goes from ACK_WAIT to CLEAR keeps its counts, to which R137 gives no
value there (DESIGN CHOICE, log entry 12). -/
def State.acknowledge (s : State) (r : Fin 64) : State :=
  let x := s.record r
  let rl := s.rule r
  match x.state with
  | .clear | .qualifying => s
  | .raised | .releasing =>
    if x.acked then s
    else (s.setRecord r { x with acked := true }).noticeChange r .acknowledged rl.notice
  | .ackWait =>
    (s.setRecord r { x with state := .clear, acked := true, due := none }).noticeChange r .acknowledged
      rl.notice

/-! ## The tick (R20, R88, R125, R156) -/

/-- The idle time of a lane that is not PARKED rises by one (R20). -/
def Lane.tick (x : Lane) : Lane :=
  if x.status = .parked then x else { x with idle := satAdd x.idle 1 }

/-- The picture idle time of a FOLLOW program that is not PARKED rises by one; at its timeout the PICTURE
condition becomes due, and below it the condition is absent (R88). -/
def Servo.tick (v : Servo) (e : ProgramEntry) (active : Bool) : Servo :=
  if active && e.delayMode == .follow then
    let idle := satAdd v.pictureIdle 1
    let late := decide (e.pictureTimeout ≤ idle)
    { v with pictureIdle := idle, pictureDue := late && !v.pictureLate, pictureLate := late && v.pictureLate }
  else { v with pictureDue := false, pictureLate := false }

/-- Under AUTO the revert count of a REVERTING program rises by one, and at the revert time the revert
becomes due (R156). -/
def Change.tick (c : Change) (e : ProgramEntry) : Change :=
  if c.state == .reverting && e.revertMode == .auto then
    { c with revert := c.revert + 1, revertDue := decide (e.revertTime ≤ c.revert + 1) }
  else c

/-- The idle, picture and revert counts of a tick. -/
def State.tickCounts (s : State) : State :=
  (s.mapLanes fun _ x => x.tick).mapPrograms fun p x =>
    { x with servo := x.servo.tick (s.entry p) (x.play.state != .parked)
             change := x.change.tick (s.entry p) }

/-- Judge every enabled rule and move its record; in strap fault no rule is judged (R125, R127). -/
def State.judgeRules (s : State) : State :=
  if s.strapFault then s
  else { s with alarm := { s.alarm with
    records := Vector.ofFn fun r =>
      if (s.rule r).enabled then (s.record r).tick (s.rule r) (s.conditionPresent (s.rule r))
      else s.record r } }

/-- The tick period closes: the next collects its events afresh (R125, R6, R151). -/
def State.closePeriod (s : State) : State :=
  let s := s.mapPrograms fun _ x => { x with events := {} }
  { s with
    rx := { s.rx with trunkSeen := s.rx.framing != .locked }
    alarm := { s.alarm with shedSeen := false }
    house := { s.house with leftLocked := false, toTick := 48 } }

/-- The alarm tick (R125): counts, judgement, and the next period. -/
def State.tickAlarm (s : State) : State := s.tickCounts.judgeRules.closePeriod

end Sys2Proof.Machine
end

