-- ==== Sys2Proof/Machine/Operands.lean ====
section
/-! DEFINITION. Every byte layout of Chapter 11: the check, the parcel a slot carries, the orders and
their arguments, the table entries as read from an order, and the bytes with which the part writes
values, entries and parcels. -/

namespace Sys2Proof.Machine

/-! ## Values (11.1) -/

/-- An unsigned field, most significant byte first. -/
def beNat (bytes : List Byte) : Nat := bytes.foldl (fun n b => n * 256 + b.toNat) 0

/-- The unsigned field of `width` bytes at an offset; bytes beyond the end read 0. -/
def field (bytes : List Byte) (offset width : Nat) : Nat :=
  beNat ((List.range width).map fun i => bytes.getD (offset + i) 0)

/-- The two's-complement field of `width` bytes at an offset. -/
def signedField (bytes : List Byte) (offset width : Nat) : Int :=
  let n := field bytes offset width
  if 2 ^ (8 * width - 1) ≤ n then (n : Int) - 2 ^ (8 * width) else n

/-- A flag byte: any value but 0 is yes (R178). -/
def flagField (bytes : List Byte) (offset : Nat) : Bool := bytes.getD offset 0 != 0

/-- A number, signed or not, in `width` bytes, most significant first. -/
def beBytes (width : Nat) (x : Int) : List Byte :=
  (List.range width).map fun i => BitVec.ofInt 8 (x / 2 ^ (8 * (width - 1 - i)))

/-- A flag as the part sends it: 1 for yes (11.1). -/
def flagByte (b : Bool) : List Byte := [if b then 1 else 0]

/-- An optional value: a presence flag, then the value, 0 when absent (11.1). -/
def optBytes (width : Nat) (x : Option Int) : List Byte :=
  match x with
  | some v => 1 :: beBytes width v
  | none => 0 :: beBytes width 0

/-! ## The check (R9, R179) -/

/-- One shift of the check register. -/
def crcShift (r : BitVec 16) : BitVec 16 :=
  if r.msb then (r <<< 1) ^^^ 0x1021 else r <<< 1

/-- One byte into the check register. -/
def crcByte (r : BitVec 16) (b : Byte) : BitVec 16 :=
  Nat.repeat crcShift 8 (r ^^^ (b.setWidth 16 <<< 8))

/-- The remainder over the bytes, from a register of all ones, not inverted. -/
def crc16 (bytes : List Byte) : BitVec 16 := bytes.foldl crcByte 0xFFFF

/-- A slot's 82 bytes of header and payload, filled with 0, followed by their check. -/
def sealSlot (content : List Byte) : List Byte :=
  let body := (List.range 82).map fun i => content.getD i 0
  body ++ beBytes 2 (crc16 body).toNat

/-! ## Enumerations: their positions in the owning tables (11.1) -/

def RateClass.code : RateClass → Int
  | .c32 => 0 | .c44 => 1 | .c48 => 2 | .c88 => 3 | .c96 => 4

def RateClass.ofCode : Nat → Option RateClass
  | 0 => some .c32 | 1 => some .c44 | 2 => some .c48 | 3 => some .c88 | 4 => some .c96
  | _ => none

def ConcealMode.code : ConcealMode → Int
  | .repeatLast => 0 | .zero => 1

def ConcealMode.ofCode : Nat → Option ConcealMode
  | 0 => some .repeatLast | 1 => some .zero
  | _ => none

def LaneStatus.code : LaneStatus → Int
  | .parked => 0 | .armed => 1 | .receiving => 2 | .stalled => 3 | .lost => 4

def DelayMode.code : DelayMode → Int
  | .manual => 0 | .follow => 1

def DelayMode.ofCode : Nat → Option DelayMode
  | 0 => some .manual | 1 => some .follow
  | _ => none

def GlideRate.code : GlideRate → Int
  | .slow => 0 | .medium => 1 | .fast => 2

def GlideRate.ofCode : Nat → Option GlideRate
  | 0 => some .slow | 1 => some .medium | 2 => some .fast
  | _ => none

def AutoManual.code : AutoManual → Int
  | .auto => 0 | .manual => 1

def AutoManual.ofCode : Nat → Option AutoManual
  | 0 => some .auto | 1 => some .manual
  | _ => none

def PlayState.code : PlayState → Int
  | .parked => 0 | .priming => 1 | .warming => 2 | .running => 3 | .holdover => 4
  | .resyncing => 5 | .parking => 6

def FadeTarget.code : FadeTarget → Int
  | .silent => 0 | .opened => 1

def ServoMode.code : ServoMode → Int
  | .track => 0 | .glide => 1 | .jump => 2

/-- The jump phase: FADE_OUT, HOLD, or none (Chapter 5, opening table). -/
def jumpPhaseCode : Option JumpPhase → Int
  | some .fadeOut => 0 | some .hold => 1 | none => 2

def Integration.code : Integration → Int
  | .opened => 0 | .closed => 1

def CueType.code : CueType → Int
  | .segmentStart => 0 | .segmentEnd => 1 | .userMark => 2

def CueType.ofCode : Nat → Option CueType
  | 0 => some .segmentStart | 1 => some .segmentEnd | 2 => some .userMark
  | _ => none

def ChangeoverState.code : ChangeoverState → Int
  | .primary => 0 | .wanted => 1 | .alternate => 2 | .reverting => 3

def Force.code : Force → Int
  | .automatic => 0 | .forceAlternate => 1 | .forcePrimary => 2

def Force.ofCode : Nat → Option Force
  | 0 => some .automatic | 1 => some .forceAlternate | 2 => some .forcePrimary
  | _ => none

def CondKind.code : CondKind → Int
  | .silence => 0 | .loud => 1 | .segment => 2 | .overload => 3 | .loss => 4 | .impaired => 5
  | .picture => 6 | .clamp => 7 | .clock => 8 | .trunk => 9 | .reference => 10 | .shed => 11

def CondKind.ofCode : Nat → Option CondKind
  | 0 => some .silence | 1 => some .loud | 2 => some .segment | 3 => some .overload
  | 4 => some .loss | 5 => some .impaired | 6 => some .picture | 7 => some .clamp
  | 8 => some .clock | 9 => some .trunk | 10 => some .reference | 11 => some .shed
  | _ => none

/-- The three part-scoped kinds (R126). -/
def CondKind.partScoped : CondKind → Bool
  | .trunk | .reference | .shed => true
  | _ => false

def QualifyMode.code : QualifyMode → Int
  | .persist => 0 | .count => 1

def QualifyMode.ofCode : Nat → Option QualifyMode
  | 0 => some .persist | 1 => some .count
  | _ => none

def Severity.code : Severity → Int
  | .minor => 0 | .major => 1

def Severity.ofCode : Nat → Option Severity
  | 0 => some .minor | 1 => some .major
  | _ => none

def Timing.code : Timing → Int
  | .arrival => 0 | .air => 1

def Timing.ofCode : Nat → Option Timing
  | 0 => some .arrival | 1 => some .air
  | _ => none

/-- A scope byte: the program, or 16 for the part (11.4). -/
def scopeCode : Option (Fin 16) → Int
  | some p => p.val | none => 16

def RecordState.code : RecordState → Int
  | .clear => 0 | .qualifying => 1 | .raised => 2 | .releasing => 3 | .ackWait => 4

/-- The last change: 0 for none, then RAISED to PARKED as R142 lists them (11.4). -/
def causeCode : Option Cause → Int
  | none => 0 | some .raised => 1 | some .cleared => 2 | some .ackWait => 3
  | some .acknowledged => 4 | some .rewritten => 5 | some .parked => 6

def Framing.code : Framing → Int
  | .hunt => 0 | .check => 1 | .locked => 2

def RefSelect.code : RefSelect → Int
  | .external => 0 | .internal => 1

def RefSelect.ofCode : Nat → Option RefSelect
  | 0 => some .external | 1 => some .internal
  | _ => none

def RefState.code : RefState → Int
  | .seeking => 0 | .locked => 1 | .holdover => 2

def ResetCause.code : ResetCause → Int
  | .power => 0 | .line => 1 | .order => 2

def Status.code : Status → Int
  | .done => 0 | .clamped => 1 | .refusedState => 2 | .refusedIndex => 3 | .refusedValue => 4
  | .refusedConflict => 5 | .refusedInUse => 6 | .refusedUnknown => 7

/-- The kind of a schedule entry: GAIN, CUE (R113). -/
def Entry.code : Entry → Int
  | .gain _ _ => 0 | .cue _ _ _ => 1

/-! ## Parcels (11.3) -/

/-- What a slot of a taken frame holds, by its check, kind, count and payload (R7 to R10). -/
inductive SlotContent where
  | badCheck
  | free
  | unknownKind
  | badCount
  | audio (node tag seq : Byte) (suspect discontinuity : Bool) (stamp : Stamp) (samples : List Sample)
  | cue (node tag : Byte) (stamp : Stamp) (kind : CueType) (mark : BitVec 16)
  | picture (node tag : Byte) (micros : Nat) (valid : Bool)
  | order (node : Byte) (o : Order)
  | otherControl
deriving DecidableEq, Repr

/-- The bytes of a slot, if none of its characters is damaged (R1). A sync character inside a slot, byte-aligned or
not, counts as a damaged byte (DESIGN CHOICE, log entry 11). -/
def slotBytes : Slot → Option (List Byte)
  | [] => some []
  | .data b :: rest => (slotBytes rest).map (b :: ·)
  | _ :: _ => none

/-- The stamp in a slot's header. -/
def headerStamp (b : List Byte) : Stamp := BitVec.ofNat 32 (field b 6 4)

/-- An order's content from the payload's second byte on (11.4). A reply-to byte above 63 is kept as carried (R168;
DEDUCED, log entry 30). -/
def orderOf (b : List Byte) : Order where
  replyTo := b.getD 11 0
  tag := BitVec.ofNat 16 (field b 12 2)
  kind := b.getD 14 0
  args := (List.range 67).map fun i => b.getD (15 + i) 0

/-- An AUDIO parcel: rejected with a count of 0 or above 24, otherwise its first count samples (R8, R10). -/
def audioContent (b : List Byte) : SlotContent :=
  let count := (b.getD 4 0).toNat
  if count = 0 || 24 < count then .badCount
  else .audio (b.getD 0 0) (b.getD 2 0) (b.getD 3 0) ((b.getD 5 0).getLsbD 0) ((b.getD 5 0).getLsbD 1)
    (headerStamp b) ((List.range count).map fun i => BitVec.ofNat 24 (field b (10 + 3 * i) 3))

/-- A CUE parcel: its mark is taken as 0 with a segment type (11.3). -/
def cueContent (b : List Byte) : SlotContent :=
  match CueType.ofCode (b.getD 10 0).toNat with
  | none => .unknownKind
  | some k =>
    .cue (b.getD 0 0) (b.getD 2 0) (headerStamp b) k
      (if k = .userMark then BitVec.ofNat 16 (field b 11 2) else 0)

/-- A PICTURE report: invalid when its delay exceeds 10,000,000 µs (R8). -/
def pictureContent (b : List Byte) : SlotContent :=
  let micros := field b 10 4
  .picture (b.getD 0 0) (b.getD 2 0) micros (flagField b 14 && decide (micros ≤ 10000000))

/-- A CONTROL parcel by its sub-kind (R8). -/
def controlContent (b : List Byte) : SlotContent :=
  match (b.getD 10 0).toNat with
  | 0 => .order (b.getD 0 0) (orderOf b)
  | 1 | 2 | 3 | 4 => .otherControl
  | _ => .unknownKind

/-- What a slot that passes its check carries, by its kind (R7, R8, R10). -/
def parcelContent (b : List Byte) : SlotContent :=
  match (b.getD 1 0).toNat with
  | 0 => .free
  | 1 => audioContent b
  | 2 => cueContent b
  | 3 => pictureContent b
  | 4 => controlContent b
  | _ => .unknownKind

/-- A slot passes its check when the remainder over its 82 bytes equals its check field and no byte is
damaged (R9). -/
def checkedBytes (slot : Slot) : Option (List Byte) :=
  match slotBytes slot with
  | some b => if (crc16 (b.take 82)).toNat = field b 82 2 then some b else none
  | none => none

/-- What a slot holds. -/
def slotContent (slot : Slot) : SlotContent :=
  match checkedBytes slot with
  | some b => parcelContent b
  | none => .badCheck

/-! ## Sync positions (R3, R4) -/

/-- The frame number of a sync position whose two number bytes are undamaged (R3, R4). A sync character there counts as
a damaged byte (DESIGN CHOICE, log entry 11). -/
def frameNumber (h : FrameHead) : Option (BitVec 16) :=
  match h.c2, h.c3 with
  | .data a, .data b => some (a ++ b)
  | _, _ => none

/-- The sync character and the second sync byte, 0xC5, stand at the position (11.2). -/
def syncPattern (h : FrameHead) : Bool := h.c0 == .sync && h.c1 == .data 0xC5

/-- The sync pattern and frame number with which a frame opens (11.2, R150). -/
def frameHead (number : BitVec 16) : FrameHead :=
  ⟨.sync, .data 0xC5, .data (number.extractLsb' 8 8), .data (number.extractLsb' 0 8)⟩

/-- A sync is good when pattern and number are sound and the number is the expected one (R4). -/
def syncGood (h : FrameHead) (expected : BitVec 16) : Bool :=
  syncPattern h && frameNumber h == some expected

/-! ## Orders (11.4, R167) -/

/-- A WRITE by its table selector. -/
def writeRow : Nat → Instr
  | 0 => .writeLane | 1 => .writeProgram | 2 => .writeProfile | 3 => .writeWeighting
  | 4 => .writeCoefficients | 5 => .writeBandSet | 6 => .writeRule | 7 => .writeEgressMap
  | 8 => .writeSettings
  | _ => .unknownOrder

/-- A READ by its table selector. -/
def readRow : Nat → Instr
  | 0 => .readLane | 1 => .readProgram | 2 => .readProfile | 3 => .readWeighting
  | 4 => .readCoefficients | 5 => .readBandSet | 6 => .readRule | 7 => .readEgressMap
  | 8 => .readSettings
  | _ => .unknownOrder

/-- A STATUS of a program by its view. -/
def viewRow : Nat → Instr
  | 0 => .statusProgramPlay | 1 => .statusProgramServo | 2 => .statusProgramMeter
  | 3 => .statusProgramGain | 4 => .statusProgramChangeover | 5 => .statusProgramCounters
  | _ => .unknownOrder

/-- The step that carries an order out: by its kind and, before any other check, its table selector,
target type or view; UNKNOWN_ORDER when one of these names nothing the part holds (R167). -/
def Order.row (o : Order) : Instr :=
  match o.kind.toNat with
  | 0 => writeRow (field o.args 0 1)
  | 1 => readRow (field o.args 0 1)
  | 2 => match field o.args 0 1 with
    | 0 => .statusPart
    | 1 => .statusLane
    | 2 => viewRow (field o.args 2 1)
    | 3 => .statusRule
    | _ => .unknownOrder
  | 3 => .start
  | 4 => .park
  | 5 => .delay
  | 6 => .changeover
  | 7 => .acknowledge
  | 8 => .cue
  | 9 => .reset
  | _ => .unknownOrder

/-- The index a WRITE, READ or STATUS carries after its selector or target type (11.4). -/
def Order.index (o : Order) : Nat := field o.args 1 1

/-- The clear option flag of a STATUS. -/
def Order.clear (o : Order) : Bool := flagField o.args 3

/-- A number below `n`, as an index. -/
def toFin? (n x : Nat) : Option (Fin n) := if h : x < n then some ⟨x, h⟩ else none

/-! ## Table entries as an order carries them (11.4)

The entry of a WRITE starts at argument byte 2 (byte 5 for a coefficient bank). Structural fields are
held as carried, for the owning rule to check. -/

/-- A lane entry as carried. -/
structure LaneWrite where
  defined : Bool
  origin : Byte
  tag : Byte
  rateClass : Nat
  startPage : Nat
  sizePages : Nat
  conceal : Nat
  lostTime : Nat
deriving DecidableEq, Repr

def laneWrite (a : List Byte) : LaneWrite where
  defined := flagField a 2
  origin := a.getD 3 0
  tag := a.getD 4 0
  rateClass := field a 5 1
  startPage := field a 6 2
  sizePages := field a 8 2
  conceal := field a 10 1
  lostTime := field a 11 2

/-- A program entry as carried; of the eight member bytes, those beyond the count are not read. -/
structure ProgramWrite where
  defined : Bool
  count : Nat
  members : List Nat
  weights : Vector Nat 8
  profile : Nat
  bank : Nat
  houseLocked : Bool
  delayMode : Nat
  manualDelay : Nat
  picture : Option (Byte × Byte)
  pictureOffset : Int
  deadband : Nat
  pictureTimeout : Nat
  cushion : Nat
  bandSet : Nat
  glideRate : Nat
  jumpThreshold : Nat
  warmUp : Nat
  alternate : Option Nat
  revertMode : Nat
  revertTime : Nat
  meterInterval : Nat
  autoStart : Bool
deriving DecidableEq, Repr

def programWrite (a : List Byte) : ProgramWrite where
  defined := flagField a 2
  count := field a 3 1
  members := (List.range (min (field a 3 1) 8)).map fun i => field a (4 + i) 1
  weights := Vector.ofFn fun i => field a (12 + 2 * i.val) 2
  profile := field a 28 1
  bank := field a 29 1
  houseLocked := flagField a 30
  delayMode := field a 31 1
  manualDelay := field a 32 3
  picture := if flagField a 35 then some (a.getD 36 0, a.getD 37 0) else none
  pictureOffset := signedField a 38 3
  deadband := field a 41 2
  pictureTimeout := field a 43 2
  cushion := field a 45 2
  bandSet := field a 47 1
  glideRate := field a 48 1
  jumpThreshold := field a 49 3
  warmUp := field a 52 2
  alternate := if flagField a 54 then some (field a 55 1) else none
  revertMode := field a 56 1
  revertTime := field a 57 2
  meterInterval := field a 59 1
  autoStart := flagField a 60

def profileWrite (a : List Byte) : Profile where
  target := signedField a 2 2
  maxBoost := signedField a 4 2
  maxCut := signedField a 6 2
  attack := signedField a 8 2
  release := signedField a 10 2
  holdGate := signedField a 12 2
  absGate := signedField a 14 2
  relGate := signedField a 16 2

def biquadField (a : List Byte) (offset : Nat) : Biquad where
  b0 := BitVec.ofNat 32 (field a offset 4)
  b1 := BitVec.ofNat 32 (field a (offset + 4) 4)
  b2 := BitVec.ofNat 32 (field a (offset + 8) 4)
  a1 := BitVec.ofNat 32 (field a (offset + 12) 4)
  a2 := BitVec.ofNat 32 (field a (offset + 16) 4)

def weightingWrite (a : List Byte) : Weighting := ⟨biquadField a 2, biquadField a 22⟩

/-- The four bytes of a coefficient bank's index: bank, phase, first tap, tap count (11.4). -/
structure TapRange where
  bank : Nat
  phase : Nat
  first : Nat
  count : Nat
deriving DecidableEq, Repr

def tapRange (a : List Byte) : TapRange := ⟨field a 1 1, field a 2 1, field a 3 1, field a 4 1⟩

/-- The coefficient values of a bank WRITE, from the first tap upward. -/
def tapValue (a : List Byte) (i : Nat) : Sample := BitVec.ofNat 24 (field a (5 + 3 * i) 3)

/-- A rule entry as carried; a scope byte of 16 is the part. -/
structure RuleWrite where
  enabled : Bool
  kind : Nat
  scope : Nat
  level : Int
  qualify : Nat
  n : Nat
  w : Nat
  releaseTime : Nat
  stretch : Nat
  ackMode : Nat
  severity : Nat
  actions : Actions
  notice : Bool
  timing : Nat
deriving DecidableEq, Repr

def ruleWrite (a : List Byte) : RuleWrite where
  enabled := flagField a 2
  kind := field a 3 1
  scope := field a 4 1
  level := signedField a 5 2
  qualify := field a 7 1
  n := field a 8 2
  w := field a 10 2
  releaseTime := field a 12 2
  stretch := field a 14 2
  ackMode := field a 16 1
  severity := field a 17 1
  actions :=
    let b := a.getD 18 0
    { mute := b.getLsbD 0, freeze := b.getLsbD 1, holdDelay := b.getLsbD 2, changeover := b.getLsbD 3 }
  notice := flagField a 19
  timing := field a 20 1

/-- An egress map entry as carried. -/
structure MapWrite where
  enabled : Bool
  tag : Byte
  slot : Nat
  program : Nat
  member : Nat
deriving DecidableEq, Repr

def mapWrite (a : List Byte) : MapWrite :=
  ⟨flagField a 2, a.getD 3 0, field a 4 1, field a 5 1, field a 6 1⟩

/-! ## Table entries as a READ reply carries them (11.4) -/

def LaneEntry.bytes (e : LaneEntry) : List Byte :=
  flagByte e.defined ++ [e.origin, e.tag] ++ beBytes 1 e.rateClass.code ++ beBytes 2 e.startPage ++
    beBytes 2 e.sizePages ++ beBytes 1 e.conceal.code ++ beBytes 2 e.lostTime

def ProgramEntry.bytes (e : ProgramEntry) : List Byte :=
  flagByte e.defined ++ beBytes 1 e.members.length ++
    ((List.range 8).map fun i => BitVec.ofNat 8 ((e.members.map Fin.val).getD i 0)) ++
    (e.weights.toList.map fun w => beBytes 2 w).flatten ++
    beBytes 1 e.profile.val ++ beBytes 1 e.bank.val ++ flagByte e.houseLocked ++
    beBytes 1 e.delayMode.code ++ beBytes 3 e.manualDelay ++
    (match e.picture with
      | some (n, t) => [1, n, t]
      | none => [0, 0, 0]) ++
    beBytes 3 e.pictureOffset ++ beBytes 2 e.deadband ++ beBytes 2 e.pictureTimeout ++
    beBytes 2 e.cushion ++ beBytes 1 e.bandSet.val ++ beBytes 1 e.glideRate.code ++
    beBytes 3 e.jumpThreshold ++ beBytes 2 e.warmUp ++
    optBytes 1 (e.alternate.map fun p => (p.val : Int)) ++ beBytes 1 e.revertMode.code ++
    beBytes 2 e.revertTime ++ beBytes 1 e.meterInterval ++ flagByte e.autoStart

def Profile.bytes (e : Profile) : List Byte :=
  beBytes 2 e.target ++ beBytes 2 e.maxBoost ++ beBytes 2 e.maxCut ++ beBytes 2 e.attack ++
    beBytes 2 e.release ++ beBytes 2 e.holdGate ++ beBytes 2 e.absGate ++ beBytes 2 e.relGate

def Biquad.bytes (e : Biquad) : List Byte :=
  beBytes 4 e.b0.toNat ++ beBytes 4 e.b1.toNat ++ beBytes 4 e.b2.toNat ++ beBytes 4 e.a1.toNat ++
    beBytes 4 e.a2.toNat

def Weighting.bytes (e : Weighting) : List Byte := e.first.bytes ++ e.second.bytes

def BandSet.bytes (e : BandSet) : List Byte := beBytes 2 e.b1 ++ beBytes 2 e.b2

/-- The actions byte: bit 0 MUTE, bit 1 FREEZE, bit 2 HOLD_DELAY, bit 3 CHANGEOVER (11.4). -/
def Actions.code (a : Actions) : Int :=
  (if a.mute then 1 else 0) + (if a.freeze then 2 else 0) + (if a.holdDelay then 4 else 0) +
    (if a.changeover then 8 else 0)

def Rule.bytes (e : Rule) : List Byte :=
  flagByte e.enabled ++ beBytes 1 e.kind.code ++ beBytes 1 (scopeCode e.scope) ++ beBytes 2 e.level ++
    beBytes 1 e.qualify.code ++ beBytes 2 e.n ++ beBytes 2 e.w ++ beBytes 2 e.releaseTime ++
    beBytes 2 e.stretch ++ beBytes 1 e.ackMode.code ++ beBytes 1 e.severity.code ++
    beBytes 1 e.actions.code ++ flagByte e.notice ++ beBytes 1 e.timing.code

def MapEntry.bytes (e : MapEntry) : List Byte :=
  flagByte e.enabled ++ [e.tag] ++ beBytes 1 e.slot.val ++ beBytes 1 e.program.val ++
    beBytes 1 e.member.val

def Settings.bytes (e : Settings) : List Byte :=
  beBytes 1 e.node.toNat ++ beBytes 1 e.select.code

/-! ## Parcels as the part makes them (R159, R118, R168, 11.4) -/

/-- A parcel's header and payload, sealed with its check: the lane tag, sequence, count and flags as
given, unused bytes 0 (R178). -/
def parcelBytes (node kind tag seq count flags : Byte) (stamp : Stamp) (payload : List Byte) : List Byte :=
  sealSlot ([node, kind, tag, seq, count, flags] ++ beBytes 4 stamp.toNat ++ payload)

/-- An AUDIO parcel (R159). -/
def audioParcelBytes (node tag seq : Byte) (suspect discontinuity : Bool) (stamp : Stamp)
    (samples : List Int) : List Byte :=
  parcelBytes node 1 tag seq (BitVec.ofNat 8 samples.length)
    ((if suspect then 1 else 0) ||| (if discontinuity then 2 else 0)) stamp
    (samples.map fun x => beBytes 3 x).flatten

/-- A forwarded CUE parcel (R118). -/
def CueOut.bytes (c : CueOut) (node : Byte) : List Byte :=
  parcelBytes node 2 c.tag 0 0 0 c.stamp (beBytes 1 c.kind.code ++ beBytes 2 c.mark.toNat)

/-- A CONTROL parcel: the header stamp is the first house sample of the frame period it leaves in, and
the other header fields are 0 (R178). -/
def controlBytes (node : Byte) (subKind : Byte) (stamp : Stamp) (content : List Byte) : List Byte :=
  parcelBytes node 4 0 0 0 0 stamp (subKind :: content)

/-- A REPLY parcel, with the intake-overflow flag as it stands when the reply leaves (R168). Its header node is the
reply-to byte as the order carried it, above 63 too (DEDUCED, log entry 30). -/
def Reply.bytes (r : Reply) (own : Byte) (overflow : Bool) (stamp : Stamp) : List Byte :=
  controlBytes r.node 1 stamp
    ([own] ++ beBytes 2 r.tag.toNat ++ [r.kind] ++ beBytes 1 r.status.code ++ flagByte overflow ++
      r.results)

/-- A METER parcel (R106, 11.4). -/
def MeterReport.bytes (m : MeterReport) (own : Byte) (stamp : Stamp) : List Byte :=
  controlBytes (m.node.setWidth 8) 3 stamp
    ([own] ++ beBytes 1 m.program.val ++ beBytes 1 m.play.code ++ beBytes 1 m.integration.code ++
      beBytes 4 m.segments.toNat ++ beBytes 2 m.momentary ++ beBytes 2 m.shortTerm ++
      beBytes 2 m.integrated ++ beBytes 2 m.scheduled ++ beBytes 2 m.applied ++ beBytes 3 m.delay ++
      beBytes 1 m.mode.code ++ beBytes 1 m.peaks.length ++
      (m.peaks.map fun x => beBytes 3 x).flatten)

/-- A NOTICE parcel of a rule (R142), its kind, scope and severity read from the rule table as it leaves;
or a STARTED parcel (R177). -/
def Notice.bytes (n : Notice) (rules : Vector Rule 64) (destination own : Byte) (stamp : Stamp) :
    List Byte :=
  match n with
  | .rule r state acked last at_ changes =>
    controlBytes destination 2 stamp
      ([own] ++ beBytes 1 r.val ++ beBytes 1 rules[r].kind.code ++ beBytes 1 (scopeCode rules[r].scope) ++
        beBytes 1 rules[r].severity.code ++ beBytes 1 state.code ++ flagByte acked ++
        beBytes 1 (causeCode last) ++ beBytes 4 at_.toNat ++ beBytes 1 changes)
  | .started cause programs failed =>
    controlBytes destination 4 stamp
      ([own] ++ beBytes 1 cause.code ++ beBytes 1 programs.length ++
        (programs.map fun p => BitVec.ofNat 8 p.val) ++ beBytes 1 failed)

/-- An EMPTY slot as the part sends it: every byte zero and the check (R163). -/
def emptySlot : List Byte := sealSlot []

end Sys2Proof.Machine
end

