-- ==== Sys2Proof/Machine/Egress.lean ====
section
/-! DEFINITION. The egress frame (9.2, 9.5): its three rounds (R159 to R163), the application of map
entries (R152), the beginning of a frame period with the servo updates (R57, R78, R150), and the
passthrough queue (R162). -/

namespace Sys2Proof.Machine

/-- The own node as a byte. -/
def State.nodeByte (s : State) : Byte := s.node.setWidth 8

/-- The house stamp of the first house sample of the frame period just ended (R159, R178). -/
def State.periodStamp (s : State) : Stamp := s.house.stamp - 12

/-! ## The first round (R159) -/

/-- The AUDIO parcel of an egress lane. -/
def State.audioParcel (s : State) (e : Fin 32) : List Byte :=
  let lane := s.egressLane e
  audioParcelBytes s.nodeByte (s.mapEntry e).tag lane.seq (lane.samples.any (·.2)) lane.owed
    s.periodStamp (lane.samples.map (·.1))

/-- One AUDIO parcel per enabled egress lane at its slot; none in strap fault (R159). -/
def State.audioRound (s : State) : List (Nat × List Byte) :=
  if s.strapFault then []
  else ((List.finRange 32).filter fun e => (s.mapEntry e).enabled).map fun e =>
    ((s.mapEntry e).slot.val, s.audioParcel e)

/-- After the first round each enabled lane's sequence has risen and nothing is owed; every lane gathers
a fresh period (R159). -/
def State.afterAudio (s : State) : State :=
  s.mapEgressLanes fun e x =>
    if (s.mapEntry e).enabled && !s.strapFault then { x with seq := x.seq + 1, owed := false, samples := [] }
    else { x with samples := [] }

/-! ## The second round (R161) -/

/-- Take replies while places last; the overflow flag is written into the first and cleared (R168). -/
def State.takeReplies (s : State) : Nat → List (List Byte) × State
  | 0 => ([], s)
  | n + 1 =>
    match s.orders.replies with
    | [] => ([], s)
    | r :: rest =>
      let b := r.bytes s.nodeByte s.orders.overflow s.periodStamp
      let s := { s with orders := { s.orders with replies := rest, overflow := false } }
      let (more, s) := s.takeReplies n
      (b :: more, s)

/-- Take forwarded cues while places last (R118). -/
def State.takeCues (s : State) : Nat → List (List Byte) × State
  | 0 => ([], s)
  | n + 1 =>
    match s.egress.outbox with
    | [] => ([], s)
    | c :: rest =>
      let b := c.bytes s.nodeByte
      let s := { s with egress := { s.egress with outbox := rest } }
      let (more, s) := s.takeCues n
      (b :: more, s)

/-- Take notices while places last, each to the management node as it now stands (R144, R145). -/
def State.takeNotices (s : State) : Nat → List (List Byte) × State
  | 0 => ([], s)
  | n + 1 =>
    match s.takeNotice with
    | none => ([], s)
    | some (x, s') =>
      let b := x.bytes s.tables.rules (s.tables.settings.node.setWidth 8) s.nodeByte s.periodStamp
      let (more, s) := s'.takeNotices n
      (b :: more, s)

/-- The programs in the order the search for a meter report takes them: from the one after the rotation
(R161). -/
def State.reportOrder (s : State) : List (Fin 16) :=
  let from_ := match s.egress.rotation with
    | some p => p.val + 1
    | none => 0
  (List.range 16).map fun i => Fin.ofNat 16 (from_ + i)

/-- Take pending meter reports in rotation while places last (R161). -/
def State.takeReports (s : State) : Nat → List (List Byte) × State
  | 0 => ([], s)
  | n + 1 =>
    match s.reportOrder.find? fun p => (s.program p).meter.report.isSome with
    | none => ([], s)
    | some p =>
      let x := s.program p
      let b := (x.meter.report.map fun r => r.bytes s.nodeByte s.periodStamp).getD []
      let s := s.setProgram p { x with meter := { x.meter with report := none } }
      let s := { s with egress := { s.egress with rotation := some p } }
      let (more, s) := s.takeReports n
      (b :: more, s)

/-- At most four control-class parcels, in class order; none in strap fault (R161). -/
def State.controlRound (s : State) : List (List Byte) × State :=
  if s.strapFault then ([], s)
  else
    let (a, s) := s.takeReplies 4
    let (b, s) := s.takeCues (4 - a.length)
    let (c, s) := s.takeNotices (4 - a.length - b.length)
    let (d, s) := s.takeReports (4 - a.length - b.length - c.length)
    (a ++ b ++ c ++ d, s)

/-! ## The third round and the frame (R163) -/

/-- The 128 slots: AUDIO parcels at their own slots, then the queued parcels in the lowest free slots, then
EMPTY slots (R159, R161, R163). -/
def fillSlots (audio : List (Nat × List Byte)) (queued : List (List Byte)) : List (List Byte) :=
  let free := (List.range 128).filter fun k => !audio.any fun a => a.1 == k
  let placed := audio ++ free.zip queued
  (List.range 128).map fun k => ((placed.find? fun a => a.1 == k).map (·.2)).getD emptySlot

/-- Build and send the frame of the period just ended (R159 to R163). -/
def State.buildFrame (s : State) : State :=
  let audio := s.audioRound
  let (control, s) := s.afterAudio.controlRound
  let room := 128 - audio.length - control.length
  let slots := fillSlots audio (control ++ s.egress.passthrough.take room)
  { s with egress := { s.egress with
    passthrough := s.egress.passthrough.drop room
    sent := some ⟨frameHead s.egress.number, slots⟩
    number := s.egress.number + 1 } }

/-! ## The frame period begins (R57, R78, R150, R152) -/

/-- Stored map entries come to govern: x at once at the end its program's changeover state calls for; the
sequence 0 and nothing owed when a write enabled or retagged the lane (R152). -/
def State.applyMap (s : State) : State :=
  let lanes : Vector EgressLane 32 := Vector.ofFn fun e =>
    match s.egress.pending[e] with
    | none => s.egressLane e
    | some fresh =>
      let m := s.tables.map[e]
      let lane := { s.egressLane e with
        x := if (s.program m.program).change.state.crossed then 960 else 0 }
      if fresh then { lane with seq := 0, owed := false } else lane
  { s with egress := { s.egress with
    lanes := lanes
    map := Vector.ofFn fun e => if s.egress.pending[e].isSome then s.tables.map[e] else s.mapEntry e
    pending := Vector.replicate 32 none } }.followThrough

/-- The T and G of the house sample that begins here are fixed before the servo writes them (R57). -/
def State.fixRatios (s : State) : State :=
  s.mapPrograms fun _ x =>
    if x.play.state = .running then
      { x with conv := { x.conv with fixed := some (x.conv.trim, x.conv.glide) } }
    else x

/-- A frame period begins: map entries apply, ratios are fixed, and the servo updates run (R150). That the map comes
before the servo, with the latches and changeover states that each moves, is a DESIGN CHOICE (R154, log entry 31). What
takes effect from here to the next house sample belongs to no house sample (R118, log entry 28). -/
def State.beginPeriod (s : State) : State :=
  let s := s.applyMap.fixRatios
  let s := (List.finRange 16).foldl (fun s p => s.servoUpdate p) s
  { s with
    house := { s.house with toFrame := 12 }
    egress := { s.egress with sampleFrom := none } }

/-! ## The passthrough queue (R162) -/

/-- The passthrough queue holds up to 96 parcels (R162). -/
def passthroughSize : Nat := 96

/-- A parcel joins the passthrough queue with every byte kept, or is shed (R162). -/
def State.passThrough (s : State) (parcel : List Byte) : State :=
  if s.egress.passthrough.length < passthroughSize then
    { s with egress := { s.egress with passthrough := s.egress.passthrough ++ [parcel] } }
  else
    { s with
      egress := { s.egress with shed := satAdd s.egress.shed 1 }
      alarm := { s.alarm with shedSeen := true } }

end Sys2Proof.Machine
end

