-- ==== Sys2Proof/Machine/Lanes.lean ====
section
/-! DEFINITION. The Lane Store's handling of AUDIO and CUE parcels (2.4 to 2.7, R23 to R35), the return
test (R46), and the entry of cues (R101, R115). -/

namespace Sys2Proof.Machine

/-- An AUDIO parcel as handed to the Lane Store (R8). -/
structure AudioIn where
  seq : Byte
  suspect : Bool
  discontinuity : Bool
  stamp : Stamp
  samples : List Sample
deriving DecidableEq, Repr

/-- The stamp one past the parcel's last sample. -/
def AudioIn.last (a : AudioIn) : Stamp := a.stamp + BitVec.ofNat 32 a.samples.length

/-- An impairment event for the program in this tick period (R35). -/
def State.impair (s : State) (p : Fin 16) : State :=
  s.setProgram p { s.program p with events := { (s.program p).events with arrival := true } }

/-- The horizon and last sequence after a write (R24, R25, R29). -/
def State.setHorizon (s : State) (l : Fin 32) (a : AudioIn) : State :=
  s.setLane l { s.lane l with horizon := some a.last, lastSeq := some a.seq }

/-- All the parcel's stamps lie in the lane's acceptance window; a program without a read position has no
window (R30). -/
def State.accepts (s : State) (p : Fin 16) (l : Fin 32) (a : AudioIn) : Bool :=
  match s.edge p with
  | some e => allInWindow e (s.laneEntry l).ringSize a.stamp a.samples.length
  | none => false

/-- One more dropped parcel of the lane (R24, R31). -/
def State.dropParcel (s : State) (l : Fin 32) : State :=
  s.setLane l { s.lane l with dropped := satAdd (s.lane l).dropped 1 }

/-- Write the parcel from its first stamp, move W past it, report a SUSPECT-flagged write, and let the
meter follow a leader's write (R25, R35, R91). -/
def State.writeParcel (s : State) (p : Fin 16) (l : Fin 32) (isLeader : Bool) (a : AudioIn) : State :=
  let s := (s.writeRun l a.stamp a.suspect a.samples).setHorizon l a
  let s := if a.suspect then s.impair p else s
  if isLeader then s.meterFollows p a.last else s

/-- The first parcel of the leader of a program without a read position: written whatever its stamp, and
P and M set to its first stamp (R24, R42, R91). -/
def State.firstOfProgram (s : State) (p : Fin 16) (l : Fin 32) (a : AudioIn) : State :=
  let s := (s.writeRun l a.stamp a.suspect a.samples).setHorizon l a
  let s := if a.suspect then s.impair p else s
  let x := s.program p
  let s := s.setProgram p { x with
    meter := x.meter.begin a.stamp (s.classOf p) (s.entry p).members.length }
  s.setPos p a.stamp

/-- A parcel for a lane without a write horizon (R24). -/
def State.firstParcel (s : State) (p : Fin 16) (l : Fin 32) (isLeader : Bool) (a : AudioIn) : State :=
  match (s.program p).conv.pos with
  | none => if isLeader then s.firstOfProgram p l a else s
  | some _ => if s.accepts p l a then s.writeParcel p l isLeader a else s.dropParcel l

/-- The sample a gap word of stamp `t` takes: the word `gap` stamps before it under REPEAT with a gap of
up to 48, and 0 otherwise (R26). -/
def State.concealedSample (s : State) (p : Fin 16) (l : Fin 32) (gap : Nat) (t : Stamp) : Sample :=
  if (s.laneEntry l).conceal == .repeatLast && decide (gap ≤ 48) then
    BitVec.ofInt 24 (s.readWord (s.edge p) l (t - BitVec.ofNat 32 gap)).1
  else 0

/-- Write the gap words whose stamps lie in the window, SUSPECT; the answer counts them (R26). -/
def State.concealRun (s : State) (p : Fin 16) (l : Fin 32) (gap : Nat) : Nat → Stamp → Nat × State
  | 0, _ => (0, s)
  | n + 1, t =>
    let inside := match s.edge p with
      | some e => inWindow e (s.laneEntry l).ringSize t
      | none => false
    if inside then
      let (k, s) := (s.writeWord l t (s.concealedSample p l gap t) true).concealRun p l gap n (t + 1)
      (k + 1, s)
    else s.concealRun p l gap n (t + 1)

/-- A parcel ahead of W with a skipped sequence: the gap is concealed and the parcel written (R26). -/
def State.concealAndWrite (s : State) (p : Fin 16) (l : Fin 32) (isLeader : Bool) (W : Stamp)
    (a : AudioIn) : State :=
  let gap := (stampDiff a.stamp W).toNat
  let (n, s) := s.concealRun p l gap gap W
  let s := s.setLane l { s.lane l with concealed := satAdd (s.lane l).concealed n }
  (s.impair p).writeParcel p l isLeader a

/-- A late sample replaces its word when the word is SUSPECT, its stamp is ahead of floor(P) + 16 and the
parcel is not flagged SUSPECT (R29). -/
def State.repairs (s : State) (p : Fin 16) (l : Fin 32) (suspect : Bool) (t : Stamp) : Bool :=
  match (s.program p).conv.pos with
  | some P =>
    ahead t (P.stamp + 16) && (s.readWord (s.edge p) l t).2 == .suspect && !suspect
  | none => false

/-- Offer the samples behind W for repair, counting the words replaced (R29). -/
def State.repairRun (s : State) (p : Fin 16) (l : Fin 32) (suspect : Bool) (W : Stamp) :
    List Sample → Stamp → Nat × State
  | [], _ => (0, s)
  | x :: rest, t =>
    if behind t W && s.repairs p l suspect t then
      let (k, s) := (s.writeWord l t x false).repairRun p l suspect W rest (t + 1)
      (k + 1, s)
    else s.repairRun p l suspect W rest (t + 1)

/-- A parcel that starts behind W: repair, in-order extension, or a late parcel counted (R29). -/
def State.lateParcel (s : State) (p : Fin 16) (l : Fin 32) (isLeader : Bool) (W : Stamp)
    (a : AudioIn) : State :=
  let (replaced, s) := s.repairRun p l a.suspect W a.samples a.stamp
  let extension := a.samples.drop (W - a.stamp).toNat
  if extension.isEmpty then
    if replaced = 0 then
      (s.setLane l { s.lane l with late := satAdd (s.lane l).late 1 }).impair p
    else s
  else
    let s := (s.writeRun l W a.suspect extension).setHorizon l a
    let s := if a.suspect then s.impair p else s
    if isLeader then s.meterFollows p a.last else s

/-- The parcel's sequence is the last sequence plus one, modulo 256 (R23). -/
def Lane.consecutive (x : Lane) (seq : Byte) : Bool :=
  match x.lastSeq with
  | some q => seq == q + 1
  | none => false

/-- The first arrival case that applies (R23). The leader of a program in PARKING is handled as a follower
where R28 and R31 say so. -/
def State.arrival (s : State) (p : Fin 16) (l : Fin 32) (a : AudioIn) : State :=
  let isLeader := s.leader p == some l
  let asLeader := isLeader && s.playState p != .parking
  if s.playState p = .resyncing then s
  else
    match (s.lane l).horizon with
    | none => s.firstParcel p l isLeader a
    | some W =>
      if a.discontinuity || (ahead a.stamp W && (s.lane l).consecutive a.seq) then
        if asLeader then s.requestResync p else (s.flushLane l).firstParcel p l isLeader a
      else if !s.accepts p l a then
        if asLeader then s.requestResync p else s.dropParcel l
      else if a.stamp = W then s.writeParcel p l isLeader a
      else if ahead a.stamp W then s.concealAndWrite p l isLeader W a
      else s.lateParcel p l isLeader W a

/-- The return test: floor(P) + 16 behind W, and W − P at most S − 64 (R46). -/
def State.returnTest (s : State) (p : Fin 16) : State :=
  match (s.program p).conv.pos, s.leaderHorizon p with
  | some P, some W =>
    if behind (P.stamp + 16) W && !fillExceeds W P (s.smallestRing p) then s.enterRunning p
    else s.requestResync p
  | _, _ => s.requestResync p

/-- An AUDIO parcel for a lane that is not PARKED: the lane becomes RECEIVING with its idle time at 0, the
parcel is handled by its case, and a leader's parcel in HOLDOVER is followed by the return test
(R21, R23, R46). -/
def State.audioArrives (s : State) (l : Fin 32) (a : AudioIn) : State :=
  let s := s.setLane l { s.lane l with status := .receiving, idle := 0 }
  match s.programOf l with
  | none => s
  | some p =>
    let returning := s.playState p == .holdover && s.leader p == some l
    let s := s.arrival p l a
    if returning && s.playState p == .holdover then s.returnTest p else s

/-- Offer a cue to the schedule, then to the meter's list; the two are independent (R115). -/
def State.enterCue (s : State) (p : Fin 16) (t : Stamp) (kind : CueType) (mark : BitVec 16) : State :=
  let s := (s.offer p (.cue t kind mark)).2
  s.setProgram p { s.program p with meter := (s.program p).meter.listCue t kind }

/-- A CUE parcel for a lane that is not PARKED: entered from the leader's lane unless the program is
RESYNCING, and consumed with no effect otherwise (R115). -/
def State.cueArrives (s : State) (l : Fin 32) (t : Stamp) (kind : CueType) (mark : BitVec 16) : State :=
  match s.programOf l with
  | none => s
  | some p =>
    if s.leader p == some l && s.playState p != .resyncing then s.enterCue p t kind mark else s

end Sys2Proof.Machine
end

