-- ==== Sys2Proof/Machine/Trunk.lean ====
section
/-! DEFINITION. The Trunk Receiver (Chapter 1): framing, the row of the table a slot brings, and the
delivery of each accepted parcel (R13). -/

namespace Sys2Proof.Machine

/-! ## Framing (R1 to R5) -/

/-- A frame is 10,756 bytes (1.2). -/
def frameBytes : Nat := 10756

/-- A frame has 128 slots (1.2). -/
def frameSlots : Nat := 128

/-- Enter HUNT: no boundary is known and the frame in progress is discarded (R1, R4, R5). -/
def Receiver.hunt (x : Receiver) : Receiver :=
  { x with
    framing := .hunt, goodSyncs := 0, expectedPos := 0, expectedNum := 0, misses := 0, slotsLeft := 0
    damaged := 0, trunkSeen := true }

/-- One more lock loss (R5). -/
def Receiver.loseLock (x : Receiver) : Receiver := { x.hunt with lockLosses := satAdd x.lockLosses 1 }

/-- The next sync is expected a frame later with the number plus one (R3 to R5). -/
def Receiver.expectNext (x : Receiver) : Receiver :=
  { x with expectedPos := x.expectedPos + frameBytes, expectedNum := x.expectedNum + 1 }

/-- So many damaged bytes in a row are a line fault (R1). -/
def faultRun : Nat := 32

/-- The run of damaged bytes that a stretch of bytes ends in, after a run of `n` before it; none when the run
reaches 32, a line fault (R1). -/
def damagedRun (n : Nat) : List Bool → Option Nat
  | [] => some n
  | true :: rest => if n + 1 < faultRun then damagedRun (n + 1) rest else none
  | false :: rest => damagedRun 0 rest

/-- Which bytes of a slot are damaged (R1). R1 calls characters that are not valid, or that fall on a boundary the
alignment does not expect, damaged; that a sync character counts as damaged here also where it stands byte-aligned is a
DESIGN CHOICE (log entry 11). -/
def damagedBytes (slot : Slot) : List Bool :=
  slot.map fun c => match c with
    | .data _ => false
    | .sync | .damaged => true

/-- Which bytes at a sync position are damaged (R1). A sync character stands well at the first of them; that it counts
as damaged at the other three is a DESIGN CHOICE (log entry 11). -/
def headDamaged (h : FrameHead) : List Bool :=
  (h.c0 == .damaged) :: damagedBytes [h.c1, h.c2, h.c3]

/-- The run of damaged bytes that a sync position in LOCKED goes on from: that of the taken frame's last slot,
when every slot was given (R1, log entry 21). -/
def Receiver.runAtSync (x : Receiver) : Nat := if x.slotsLeft = 0 then x.damaged else 0

/-- A line fault: HUNT from any framing state, a lock loss if LOCKED (R1). -/
def Receiver.fault (x : Receiver) : Receiver := if x.framing = .locked then x.loseLock else x.hunt

/-- A sync pattern found in HUNT at a byte position: with an undamaged number it opens CHECK; otherwise
the search goes on (R3). A sync character among the number bytes counts as damaged (DESIGN CHOICE, log entry 11). -/
def Receiver.found (x : Receiver) (position : Nat) (h : FrameHead) : Receiver :=
  if x.framing = .hunt && syncPattern h then
    match frameNumber h with
    | some n =>
      { x with framing := .check, goodSyncs := 1, expectedPos := position + frameBytes, expectedNum := n + 1 }
    | none => x
  else x

/-- The expected sync position examined in CHECK (R4). -/
def Receiver.check (x : Receiver) (h : FrameHead) : Receiver :=
  if x.framing = .check then
    if syncGood h x.expectedNum then { x.expectNext with goodSyncs := x.goodSyncs + 1 } else x.hunt
  else x

/-- Three good syncs stand: LOCKED waits (R4). -/
def Receiver.lockDue (x : Receiver) : Bool := x.framing == .check && decide (3 ≤ x.goodSyncs)

/-- LOCKED with a miss count of 0; the frame the third sync opened is taken (R2, R4). -/
def Receiver.lock (x : Receiver) : Receiver :=
  { x with framing := .locked, goodSyncs := 0, misses := 0, slotsLeft := frameSlots, damaged := 0 }

/-- The expected sync position examined in LOCKED (R5). A run of damaged bytes that the four complete to 32 is a
line fault (R1). After a bad sync the frame's bytes are not seen, and the run begins anew. -/
def Receiver.examine (x : Receiver) (h : FrameHead) : Receiver :=
  if x.framing = .locked then
    if syncGood h x.expectedNum then { x.expectNext with misses := 0, slotsLeft := frameSlots, damaged := 0 }
    else if (damagedRun x.runAtSync (headDamaged h)).isNone then x.fault
    else if x.misses = 0 then { x.expectNext with misses := 1, slotsLeft := 0, damaged := 0 }
    else x.loseLock
  else x

/-! ## The row a slot brings (R10, R12, R13) -/

/-- The row of the table that a slot brings, or that it is free. -/
inductive SlotRow where
  | free | rejected | audio | cue | picture | order | passthrough
deriving DecidableEq, Repr

/-- The defined lane that is not PARKED whose key is the origin node and lane tag (R13). -/
def State.laneFor (s : State) (node tag : Byte) : Option (Fin 32) :=
  (List.finRange 32).find? fun l =>
    (s.laneEntry l).defined && (s.laneEntry l).origin == node && (s.laneEntry l).tag == tag &&
      (s.lane l).status != .parked

/-- The program is not PARKED and this is its picture source (R13). -/
def State.watches (s : State) (node tag : Byte) (p : Fin 16) : Bool :=
  (s.entry p).picture == some (node, tag) && s.active p

/-- Some program that is not PARKED has this picture source (R13). -/
def State.watched (s : State) (node tag : Byte) : Bool :=
  (List.finRange 16).any fun p => s.watches node tag p

/-- The row of what a slot holds: rejected (R10), in strap fault passthrough (R12), otherwise by R13. -/
def State.contentRow (s : State) (c : SlotContent) : SlotRow :=
  match c with
  | .badCheck | .unknownKind | .badCount => .rejected
  | .free => .free
  | .audio node tag _ _ _ _ _ =>
    if !s.strapFault && (s.laneFor node tag).isSome then .audio else .passthrough
  | .cue node tag _ _ _ =>
    if !s.strapFault && (s.laneFor node tag).isSome then .cue else .passthrough
  | .picture node tag _ _ => if !s.strapFault && s.watched node tag then .picture else .passthrough
  | .order node _ => if !s.strapFault && node == s.nodeByte then .order else .passthrough
  | .otherControl => .passthrough

/-- The row a slot brings at this moment (R14). -/
def State.slotRow (s : State) (slot : Slot) : SlotRow := s.contentRow (slotContent slot)

/-- A slot of a taken frame is next: LOCKED, with slots of the frame not yet taken (R2). -/
def State.takesSlot (s : State) : Bool := s.rx.framing == .locked && decide (0 < s.rx.slotsLeft)

/-- One slot of the frame is taken, and its bytes end in a run of damaged ones (R1, R2). -/
def State.slotTaken (s : State) (run : Nat) : State :=
  { s with rx := { s.rx with slotsLeft := s.rx.slotsLeft - 1, damaged := run } }

/-! ## Delivery (R10, R13, R162, R165) -/

/-- A rejected slot raises the counter of its reason (R10). -/
def Receiver.reject (x : Receiver) (c : SlotContent) : Receiver :=
  match c with
  | .badCheck => { x with checkFails := satAdd x.checkFails 1 }
  | .unknownKind => { x with unknownKinds := satAdd x.unknownKinds 1 }
  | .badCount => { x with countErrors := satAdd x.countErrors 1 }
  | _ => x

/-- Count a rejected slot. -/
def State.rejectSlot (s : State) (c : SlotContent) : State := { s with rx := s.rx.reject c }

/-- An AUDIO parcel to the Lane Store (R13, R23). -/
def State.deliverAudio (s : State) (c : SlotContent) : State :=
  match c with
  | .audio node tag seq suspect discontinuity stamp samples =>
    match s.laneFor node tag with
    | some l => s.audioArrives l ⟨seq, suspect, discontinuity, stamp, samples⟩
    | none => s
  | _ => s

/-- A CUE parcel to the Lane Store (R13, R115). -/
def State.deliverCue (s : State) (c : SlotContent) : State :=
  match c with
  | .cue node tag stamp kind mark =>
    match s.laneFor node tag with
    | some l => s.cueArrives l stamp kind mark
    | none => s
  | _ => s

/-- A PICTURE report to every program whose source it names (R13, R87). -/
def State.deliverPicture (s : State) (c : SlotContent) : State :=
  match c with
  | .picture node tag micros valid =>
    (List.finRange 16).foldl
      (fun s p => if s.watches node tag p then s.pictureTaken p micros valid else s) s
  | _ => s

/-- The intake holds up to 4 orders (R165). -/
def intakeSize : Nat := 4

/-- An ORDER joins the intake, or is dropped with the overflow flag set (R165). -/
def Orders.offer (x : Orders) (o : Order) : Orders :=
  if x.intake.length < intakeSize then { x with intake := x.intake ++ [o] }
  else { x with overflow := true, drops := satAdd x.drops 1 }

/-- An ORDER for the own node (R13, R165). -/
def State.deliverOrder (s : State) (c : SlotContent) : State :=
  match c with
  | .order _ o => { s with orders := s.orders.offer o }
  | _ => s

/-- A parcel to the passthrough queue, every byte kept (R13, R162). -/
def State.deliverPassthrough (s : State) (slot : Slot) : State := s.passThrough ((slotBytes slot).getD [])

/-- The next slot of the taken frame. When its bytes complete 32 damaged ones in a row, that is a line fault and
the slot is not taken (R1). A free slot goes nowhere (R9). A slot of the row named is taken and delivered; a
slot of another row is not this command's, and nothing comes of it (log entry 2). -/
def State.takeSlot (s : State) (row : SlotRow) (slot : Slot) (deliver : State → State) : State :=
  if s.running && s.takesSlot then
    match damagedRun s.rx.damaged (damagedBytes slot) with
    | none => { s with rx := s.rx.fault }
    | some run =>
      if s.slotRow slot = .free then s.slotTaken run
      else if s.slotRow slot = row then deliver (s.slotTaken run)
      else s
  else s

end Sys2Proof.Machine
end

