-- ==== Sys2Proof/Machine/Reset.lean ====
section
/-! DEFINITION. House Timing's reference (R149), the three resets and what each leaves (R11, R37, R53,
R148, R164, R175, R176, R180), auto-start (R52, R146, R177) and the end of a RESET order (R176). -/

namespace Sys2Proof.Machine

/-! ## The reference (R149) -/

/-- The reference select in force (R171). -/
def State.select (s : State) : RefSelect := s.tables.settings.select

/-- A lock needs 48 good cycles in a row (R149). -/
def lockCycles : Nat := 48

/-- One reference cycle, good or bad, under EXTERNAL reference (R149). -/
def House.cycle (h : House) (good : Bool) : House :=
  match h.reference, good with
  | .locked, true => h
  | .locked, false => { h with reference := .holdover, goodCycles := 0, leftLocked := true }
  | _, true => { h with goodCycles := min (h.goodCycles + 1) lockCycles }
  | _, false => { h with goodCycles := 0 }

/-- The good-cycle count stands at 48 outside LOCKED (R149). -/
def State.referenceDue (s : State) : Bool :=
  s.select == .external && s.house.reference != .locked && decide (lockCycles ≤ s.house.goodCycles)

/-- LOCKED: the house rate follows the reference, and the oscillator is trimmed to it (R149). -/
def House.lock (h : House) : House := { h with reference := .locked, trimmed := true }

/-- A settings write that changes the reference select (R149, R151). On the way to INTERNAL the good-cycle count
stays as it stood (DESIGN CHOICE, log entry 12). -/
def House.reselect (h : House) (select : RefSelect) : House :=
  match select with
  | .internal => { h with reference := .locked }
  | .external =>
    { h with
      reference := .seeking, goodCycles := 0
      leftLocked := h.leftLocked || h.reference == .locked }

/-! ## Resets -/

/-- The reference state after a reset that keeps the settings (R149). -/
def startReference (select : RefSelect) : RefState :=
  match select with
  | .external => .seeking
  | .internal => .locked

/-- The warm-up after power-on: 3,072 house samples (R150). -/
def longWarmUp : Nat := 3072

/-- The warm-up after the reset line and the RESET order: 192 house samples (R150). -/
def shortWarmUp : Nat := 192

/-- The part as a reset by the line leaves it: every block's dynamic state at its reset values, the
tables, the settings and the oscillator's trim kept, the own node read from the straps, the cause LINE
and the short warm-up begun (R11, R37, R53, R148, R149, R164, R176). -/
def State.afterLine (s : State) (straps : BitVec 6) : State :=
  State.driveLines
    { pending := s.pending
      straps := straps
      node := straps
      tables := s.tables
      house := { reference := startReference s.select, trimmed := s.house.trimmed, warmUpLeft := shortWarmUp }
      egress := { map := s.tables.map }
      orders := { cause := .line } }

/-- The part as the reset of a RESET order leaves it: as after the line, but with the cause ORDER, the
pending order kept, and the frame last sent still on the trunk (R175). -/
def State.afterOrder (s : State) (straps : BitVec 6) : State :=
  let t := s.afterLine straps
  { t with
    egress := { t.egress with sent := s.egress.sent }
    orders := { cause := .order, unit := .resetPending, owing := s.orders.owing, resetDone := true } }

/-- The part as the power-on reset leaves it: every block and every table at its power-on values; RESET_N
stays as it is (R180). -/
def State.afterPower (s : State) (straps : BitVec 6) : State :=
  State.driveLines
    { pending := s.pending, resetLow := s.resetLow, straps := straps, node := straps }

/-- A reset is in progress: the lines are released, no frame is sent and no slot is taken (R141, R180). -/
def State.silence (s : State) : State :=
  { s with
    rx := s.rx.hunt
    alarm := { s.alarm with majorLine := false, minorLine := false }
    egress := { s.egress with sent := none } }

/-- VDD_CORE rises through its threshold (R180). -/
def State.powerRises (s : State) : State := { s.silence with powerReset := true }

/-- RESET_N is taken low (R180). -/
def State.lineFalls (s : State) : State := { s.silence with resetLow := true }

/-- RESET_N returns high: the line reset ends, unless the power-on reset still holds the part (R180). -/
def State.lineRises (s : State) (straps : BitVec 6) : State :=
  if s.powerReset then { s with resetLow := false, straps := straps } else s.afterLine straps

/-! ## Auto-start (R52, R146, R177) -/

/-- What auto-start has done so far: the programs started and the count of those that failed a check. -/
structure Started where
  programs : List (Fin 16)
  failed : Nat
deriving DecidableEq, Repr

/-- Auto-start of one program (R52). -/
def State.autoStartOne (x : Started × State) (p : Fin 16) : Started × State :=
  let (done, s) := x
  let e := s.entry p
  if e.defined && e.autoStart then
    match s.startRefusal p with
    | none => ({ done with programs := done.programs ++ [p] }, s.startProgram p)
    | some _ => ({ done with failed := done.failed + 1 }, s)
  else x

/-- Auto-start of every program, in ascending index (R52). -/
def State.autoStartAll (s : State) : Started × State :=
  (List.finRange 16).foldl State.autoStartOne (⟨[], 0⟩, s)

/-- Auto-start waits for the end of the warm-up (R52). -/
def State.autoStartDue (s : State) : Bool := s.house.warmedUp && !s.orders.autoStarted

/-- Auto-start is applied, and outside strap fault a reset by the line or the RESET order places its
STARTED notice if there is a management node (R12, R52, R146, R177). -/
def State.applyAutoStart (s : State) : State :=
  let s := { s with orders := { s.orders with autoStarted := true } }
  if s.strapFault then s
  else
    let (done, t) := s.autoStartAll
    if s.orders.cause != .power && s.tables.settings.node != 0 then
      t.placeStarted done.programs done.failed
    else t

/-! ## The RESET order's course (R175, R176) -/

/-- A RESET is pending and its reset may begin: the reply queue is empty (R175). -/
def State.resetDue (s : State) : Bool :=
  s.orders.unit == .resetPending && !s.orders.resetDone && s.orders.replies.isEmpty

/-- The reset of a RESET has been made, and its warm-up and auto-start are done (R176). -/
def State.resetReplyDue (s : State) : Bool :=
  s.orders.unit == .resetPending && s.orders.resetDone && s.orders.autoStarted

/-- The owed reply, if any, and an IDLE unit (R166, R176). -/
def Orders.settleOwing (x : Orders) : Orders :=
  { x with
    unit := .idle, owing := none
    replies := match x.owing with
      | some o => x.replies ++ [⟨o.replyTo, o.tag, o.kind, .done, []⟩]
      | none => x.replies }

/-- The RESET is answered DONE and the unit becomes IDLE; in strap fault the pending order is discarded
without a reply (R12, R176). -/
def State.answerReset (s : State) : State :=
  let x := if s.strapFault then { s.orders with owing := none } else s.orders
  { s with orders := { x.settleOwing with resetDone := false } }

/-! ## The end of PARKING (R49, R138, R157) -/

/-- PARKING waits for k = 0 (R49, R50). -/
def State.parkingDue (s : State) (p : Fin 16) : Bool :=
  s.playState p == .parking && (s.program p).play.fade == 0

/-- The program's own state as PARKING ends: PARKED, no position, trim, glide or hold; servo, meter and
gain at their reset values, their counters kept (R49, R71, R90, R108, R122). Among the servo's fields R90 returns D, F*,
the clamped flag and the follower state; the last error of 0 is a DESIGN CHOICE (log entry 12). -/
def Program.park (x : Program) : Program :=
  { x with
    play := { x.play with state := .parked }
    conv := { x.conv with pos := none, trim := 0, glide := 0, hold := false, fixed := none }
    servo := {}
    meter := x.meter.park
    gain := x.gain.park }

/-- A program whose latched alternate has parked leaves ALTERNATE or REVERTING at once (R157). The revert count is then
0 (DESIGN CHOICE, log entry 12). -/
def State.dropAlternate (s : State) (p : Fin 16) : State :=
  s.mapPrograms fun q x =>
    let c := x.change
    if c.latch == some p && c.state.crossed then
      { x with change :=
        { c with state := if s.wanted q then .wanted else .primary, revert := 0, revertDue := false } }
    else x

/-- PARKING ends in one step: members flushed and PARKED, the program's state cleared, its records CLEAR,
its use as an alternate ended, and the owed PARK answered (R49, R166). -/
def State.endParking (s : State) (p : Fin 16) : State :=
  let members := (s.entry p).members
  let s := (s.flushMembers p).mapLanes fun l (x : Lane) =>
    if members.contains l then { x with status := .parked } else x
  let s := s.setProgram p (s.program p).park
  let s := ((s.parkRecords p).dropAlternate p).followThrough
  if s.orders.unit = .parkPending then { s with orders := s.orders.settleOwing } else s

end Sys2Proof.Machine
end

