-- ==== Sys2Proof/Machine/Tables.lean ====
section
/-! DEFINITION. WRITE and READ of every table (R15, R16, R38, R39, R68, R69, R77, R94, R111, R129, R130,
R152, R170, R171). A write answers its status and the part after it; a read its status and results. -/

namespace Sys2Proof.Machine

/-- DONE, or CLAMPED when a field was brought into range (R167). -/
def doneOr (clamped : Bool) : Status := if clamped then .clamped else .done

/-! ## The lane table (R15, R16) -/

/-- The eight region sizes (R15). -/
def regionSizes : List Nat := [8, 16, 32, 64, 128, 256, 512, 1024]

/-- A node field of a table: 1 to 63 (R15, R38). -/
def nodeInRange (node : Byte) : Bool := decide (1 ≤ node.toNat) && decide (node.toNat ≤ 63)

/-- The region and, when defined, the origin node are in range (R16). -/
def LaneWrite.inRange (w : LaneWrite) : Bool :=
  decide (w.startPage ≤ 4095) && regionSizes.contains w.sizePages &&
    decide (w.startPage + w.sizePages ≤ 4096) && (!w.defined || nodeInRange w.origin)

/-- Another defined entry holds the written entry's key (R16). -/
def State.keyTaken (s : State) (l : Fin 32) (w : LaneWrite) : Bool :=
  w.defined && (List.finRange 32).any fun k =>
    k != l && (s.laneEntry k).defined && (s.laneEntry k).origin == w.origin && (s.laneEntry k).tag == w.tag

/-- The written entry with its lost time brought into 5 to 2,000 ms (R16). -/
def LaneWrite.entry (w : LaneWrite) (cls : RateClass) (conceal : ConcealMode) : LaneEntry where
  defined := w.defined
  origin := w.origin
  tag := w.tag
  rateClass := cls
  startPage := w.startPage
  sizePages := w.sizePages
  conceal := conceal
  lostTime := clampNat 5 2000 w.lostTime

def State.setLaneEntry (s : State) (l : Fin 32) (e : LaneEntry) : State :=
  { s with tables := { s.tables with lanes := s.tables.lanes.set l.val e l.isLt } }

/-- WRITE of a lane entry: index, PARKED, structure, key, then stored (R16). -/
def State.writeLane (s : State) (o : Order) : Status × State :=
  match toFin? 32 o.index with
  | none => (.refusedIndex, s)
  | some l =>
    let w := laneWrite o.args
    if (s.lane l).status ≠ .parked then (.refusedState, s)
    else
      match RateClass.ofCode w.rateClass, ConcealMode.ofCode w.conceal with
      | some cls, some conceal =>
        if !w.inRange then (.refusedValue, s)
        else if s.keyTaken l w then (.refusedConflict, s)
        else
          let e := w.entry cls conceal
          (doneOr (e.lostTime != w.lostTime), s.setLaneEntry l e)
      | _, _ => (.refusedValue, s)

/-! ## The program table (R38, R39) -/

/-- Every field that is not live, as carried, equals the stored one (R38, R39). -/
def ProgramWrite.keepsFixed (w : ProgramWrite) (e : ProgramEntry) : Bool :=
  w.defined == e.defined && w.count == e.members.length && w.members == e.members.map Fin.val &&
    w.weights == e.weights && w.bank == e.bank.val && w.houseLocked == e.houseLocked &&
    w.picture == e.picture && w.cushion == e.cushion && w.warmUp == e.warmUp &&
    w.autoStart == e.autoStart

/-- The structural fields that are numbers: all of them in range (R39). -/
def ProgramWrite.inRange (w : ProgramWrite) (own : Fin 16) : Bool :=
  decide (w.count ≤ 8) && (!w.defined || decide (1 ≤ w.count)) && w.members.all (fun m => decide (m < 32)) &&
    decide w.members.Nodup &&
    (match w.picture with
      | some (node, _) => nodeInRange node
      | none => true) &&
    (match w.alternate with
      | some a => decide (a < 16) && a != own.val
      | none => true)

/-- The jump threshold in range: 0, or 256 to 480,000 (R39). -/
def clampJump (j : Nat) : Nat := if j = 0 then 0 else clampNat 256 480000 j

/-- The structural fields that are positions in lists or tables, read (R39). -/
structure ProgramNames where
  profile : Fin 8
  bank : Fin 4
  delayMode : DelayMode
  bandSet : Fin 4
  glideRate : GlideRate
  revertMode : AutoManual
deriving DecidableEq, Repr

/-- Read the positions, unless one is out of range. -/
def ProgramWrite.names (w : ProgramWrite) : Option ProgramNames := do
  let profile ← toFin? 8 w.profile
  let bank ← toFin? 4 w.bank
  let delayMode ← DelayMode.ofCode w.delayMode
  let bandSet ← toFin? 4 w.bandSet
  let glideRate ← GlideRate.ofCode w.glideRate
  let revertMode ← AutoManual.ofCode w.revertMode
  some ⟨profile, bank, delayMode, bandSet, glideRate, revertMode⟩

/-- The written entry, every tuning field clamped into its range (R39). An entry that is not defined has
no members (R38). -/
def ProgramWrite.entry (w : ProgramWrite) (n : ProgramNames) : ProgramEntry where
  defined := w.defined
  members := if w.defined then w.members.filterMap (toFin? 32) else []
  weights := w.weights.map fun x => min x 2000
  profile := n.profile
  bank := n.bank
  houseLocked := w.houseLocked
  delayMode := n.delayMode
  manualDelay := min w.manualDelay 480000
  picture := w.picture
  pictureOffset := clampInt (-48000) 48000 w.pictureOffset
  deadband := min w.deadband 4800
  pictureTimeout := clampNat 100 10000 w.pictureTimeout
  cushion := clampNat 24 480 w.cushion
  bandSet := n.bandSet
  glideRate := n.glideRate
  jumpThreshold := clampJump w.jumpThreshold
  warmUp := min w.warmUp 2000
  alternate := w.alternate.bind (toFin? 16)
  revertMode := n.revertMode
  revertTime := clampNat 100 60000 w.revertTime
  meterInterval := min w.meterInterval 100
  autoStart := w.autoStart

/-- Some field was changed by clamping (R39). -/
def ProgramWrite.clamped (w : ProgramWrite) (e : ProgramEntry) : Bool :=
  w.weights != e.weights || w.manualDelay != e.manualDelay || w.pictureOffset != e.pictureOffset ||
    w.deadband != e.deadband || w.pictureTimeout != e.pictureTimeout || w.cushion != e.cushion ||
    w.jumpThreshold != e.jumpThreshold || w.warmUp != e.warmUp || w.revertTime != e.revertTime ||
    w.meterInterval != e.meterInterval

/-- A member lane of the written entry is a member of another defined program (R39). -/
def State.membersTaken (s : State) (p : Fin 16) (members : List (Fin 32)) : Bool :=
  (List.finRange 16).any fun q =>
    q != p && (s.entry q).defined && members.any fun l => (s.entry q).members.contains l

def State.setEntry (s : State) (p : Fin 16) (e : ProgramEntry) : State :=
  { s with tables := { s.tables with programs := s.tables.programs.set p.val e p.isLt } }

/-- What storing new delay fields does to a program that is not PARKED (R75). -/
def State.delayStored (s : State) (p : Fin 16) (old new : ProgramEntry) : State :=
  if !s.active p then s
  else
    match old.delayMode, new.delayMode with
    | _, .manual => s.putInForce p new.manualDelay
    | .manual, .follow =>
      let x := s.program p
      s.setProgram p { x with servo :=
        { x.servo with pictureIdle := 0, pictureLast := none, pictureDue := false, pictureLate := false } }
    | .follow, .follow => s

/-- A stored program entry acts: changed delay fields as a DELAY order, a changed alternate through the
changeover (R39, R75, R154). -/
def State.storeEntry (s : State) (p : Fin 16) (e : ProgramEntry) : State :=
  let old := s.entry p
  let t := s.setEntry p e
  let t :=
    if old.delayMode != e.delayMode || old.manualDelay != e.manualDelay then t.delayStored p old e else t
  t.followThrough

/-- WRITE of a program entry: index, live fields alone unless PARKED, structure, members, then stored
(R39). -/
def State.writeProgram (s : State) (o : Order) : Status × State :=
  match toFin? 16 o.index with
  | none => (.refusedIndex, s)
  | some p =>
    let w := programWrite o.args
    if s.active p && !w.keepsFixed (s.entry p) then (.refusedState, s)
    else if !w.inRange p then (.refusedValue, s)
    else
      match w.names with
      | none => (.refusedValue, s)
      | some n =>
        let e := w.entry n
        if e.defined && s.membersTaken p e.members then (.refusedConflict, s)
        else (doneOr (w.clamped e), s.storeEntry p e)

/-! ## Profiles (R110, R111) -/

/-- Each field of a profile clamped into its range (R110). -/
def Profile.clamp (f : Profile) : Profile where
  target := clampInt (-3600) (-1000) f.target
  maxBoost := clampInt 0 2000 f.maxBoost
  maxCut := clampInt 0 3000 f.maxCut
  attack := clampInt 1 500 f.attack
  release := clampInt 1 500 f.release
  holdGate := clampInt (-7000) 0 f.holdGate
  absGate := clampInt (-7000) (-2000) f.absGate
  relGate := clampInt (-2000) (-500) f.relGate

/-- WRITE of a profile (R111). -/
def State.writeProfile (s : State) (o : Order) : Status × State :=
  match toFin? 8 o.index with
  | none => (.refusedIndex, s)
  | some i =>
    let f := profileWrite o.args
    (doneOr (f.clamp != f),
      { s with tables := { s.tables with profiles := s.tables.profiles.set i.val f.clamp i.isLt } })

/-! ## Weighting (R94) -/

/-- A program that is not PARKED uses the class (R94). -/
def State.classInUse (s : State) (cls : RateClass) : Bool :=
  (List.finRange 16).any fun p => s.active p && s.classOf p == cls

/-- WRITE of a weighting entry: class, in use, then stored (R94). -/
def State.writeWeighting (s : State) (o : Order) : Status × State :=
  match RateClass.ofCode o.index with
  | none => (.refusedIndex, s)
  | some cls =>
    if s.classInUse cls then (.refusedInUse, s)
    else
      (.done, { s with tables :=
        { s.tables with
          weightings := s.tables.weightings.set cls.index.val (weightingWrite o.args) cls.index.isLt } })

/-! ## Coefficient banks (R68, R69) -/

/-- First tap and tap count name taps of a phase, at most 16 (R68). -/
def TapRange.inRange (r : TapRange) : Bool :=
  decide (r.first ≤ 31) && decide (1 ≤ r.count) && decide (r.count ≤ 16) && decide (r.first + r.count ≤ 32)

/-- A program that is not PARKED names the bank (R68). -/
def State.bankInUse (s : State) (bank : Fin 4) : Bool :=
  (List.finRange 16).any fun p => s.active p && (s.entry p).bank == bank

/-- A phase with the taps named rewritten from the first upward (R68). -/
def Phase.write (x : Phase) (r : TapRange) (value : Nat → Sample) : Phase :=
  Vector.ofFn fun k =>
    if r.first ≤ k.val ∧ k.val < r.first + r.count then value (k.val - r.first) else x[k]

/-- WRITE of coefficient taps: bank and phase, in use, taps, then stored (R68). -/
def State.writeCoefficients (s : State) (o : Order) : Status × State :=
  let r := tapRange o.args
  match toFin? 4 r.bank, toFin? 65 r.phase with
  | some b, some f =>
    if s.bankInUse b then (.refusedInUse, s)
    else if !r.inRange then (.refusedValue, s)
    else
      let bank : Bank := s.tables.banks[b]
      let phase : Phase := bank[f]
      let bank' : Bank := bank.set f.val (phase.write r (tapValue o.args)) f.isLt
      (.done, { s with tables := { s.tables with banks := s.tables.banks.set b.val bank' b.isLt } })
  | _, _ => (.refusedIndex, s)

/-! ## Band sets (R77) -/

/-- WRITE of band set 3; the other sets are refused (R77). -/
def State.writeBandSet (s : State) (o : Order) : Status × State :=
  if o.index = 3 then
    let b1 := field o.args 2 2
    let b2 := field o.args 4 2
    let c1 := clampNat 1 255 b1
    let c2 := clampNat (c1 + 1) 4095 b2
    (doneOr (c1 != b1 || c2 != b2), { s with tables := { s.tables with band3 := ⟨c1, c2⟩ } })
  else (.refusedIndex, s)

/-! ## Rules (R128 to R130) -/

/-- The positions and the scope of a written rule (R129). -/
structure RuleNames where
  kind : CondKind
  scope : Option (Fin 16)
  qualify : QualifyMode
  ackMode : AutoManual
  severity : Severity
  timing : Timing
deriving DecidableEq, Repr

/-- Read the positions, unless one is out of range; a scope of 16 is the part (R129, 11.4). -/
def RuleWrite.names (w : RuleWrite) : Option RuleNames := do
  let kind ← CondKind.ofCode w.kind
  let qualify ← QualifyMode.ofCode w.qualify
  let ackMode ← AutoManual.ofCode w.ackMode
  let severity ← Severity.ofCode w.severity
  let timing ← Timing.ofCode w.timing
  if w.scope ≤ 16 then some ⟨kind, toFin? 16 w.scope, qualify, ackMode, severity, timing⟩ else none

/-- Kind and scope agree, and a rule scoped to the part names no action (R129). -/
def RuleNames.agrees (n : RuleNames) (a : Actions) : Bool :=
  (n.kind.partScoped == n.scope.isNone) && (n.scope.isSome || a == {})

/-- The qualify count in range and, under COUNT, at most the window (R129). -/
def clampQualify (mode : QualifyMode) (n w : Nat) : Nat :=
  match mode with
  | .count => min (clampNat 1 60000 n) (clampNat 1 60000 w)
  | .persist => clampNat 1 60000 n

/-- The written rule with its level, counts and times clamped (R129). -/
def RuleWrite.rule (w : RuleWrite) (n : RuleNames) : Rule where
  enabled := w.enabled
  kind := n.kind
  scope := n.scope
  level := clampInt (-7000) 7000 w.level
  qualify := n.qualify
  n := clampQualify n.qualify w.n w.w
  w := clampNat 1 60000 w.w
  releaseTime := min w.releaseTime 60000
  stretch := min w.stretch 60000
  ackMode := n.ackMode
  severity := n.severity
  actions := w.actions
  notice := w.notice
  timing := n.timing

/-- Some field was changed by clamping (R129). -/
def RuleWrite.clamped (w : RuleWrite) (e : Rule) : Bool :=
  w.level != e.level || w.n != e.n || w.w != e.w || w.releaseTime != e.releaseTime || w.stretch != e.stretch

/-- A rule is rewritten: its record returns to CLEAR, held actions of the old entry are released, a record
that was not CLEAR makes a REWRITTEN change, and a queued notice takes the CLEAR state (R130). -/
def State.rewriteRule (s : State) (r : Fin 64) (e : Rule) : State :=
  let old := s.rule r
  let x := s.record r
  let t := if x.state.holding then s.releaseActions old else s
  let t := { t with tables := { t.tables with rules := t.tables.rules.set r.val e r.isLt } }
  let t := t.setRecord r x.cleared
  let t := if x.state = .clear then t else t.noticeChange r .rewritten (old.notice || e.notice)
  (if x.queued then t.refreshNotice r else t).followThrough

/-- WRITE of a rule: index, structure, then stored and its record returned to CLEAR (R129, R130). -/
def State.writeRule (s : State) (o : Order) : Status × State :=
  match toFin? 64 o.index with
  | none => (.refusedIndex, s)
  | some r =>
    let w := ruleWrite o.args
    match w.names with
    | none => (.refusedValue, s)
    | some n =>
      if n.agrees w.actions then
        (doneOr (w.clamped (w.rule n)), s.rewriteRule r (w.rule n))
      else (.refusedValue, s)

/-! ## The egress map (R152) -/

/-- Another enabled entry holds the written entry's slot (R152). -/
def State.slotTakenBy (s : State) (e : Fin 32) (w : MapWrite) : Bool :=
  w.enabled && (List.finRange 32).any fun k =>
    k != e && s.tables.map[k].enabled && s.tables.map[k].slot.val == w.slot

/-- Store a map entry, to govern from the next frame start (R152). -/
def State.storeMap (s : State) (e : Fin 32) (m : MapEntry) : State :=
  let old := s.tables.map[e]
  let fresh := (m.enabled && !old.enabled) || m.tag != old.tag || s.egress.pending[e] == some true
  { s with
    tables := { s.tables with map := s.tables.map.set e.val m e.isLt }
    egress := { s.egress with pending := s.egress.pending.set e.val (some fresh) e.isLt } }

/-- WRITE of an egress map entry: index, values, slot conflict, then stored (R152). -/
def State.writeEgressMap (s : State) (o : Order) : Status × State :=
  match toFin? 32 o.index with
  | none => (.refusedIndex, s)
  | some e =>
    let w := mapWrite o.args
    match toFin? 128 w.slot, toFin? 16 w.program, toFin? 8 w.member with
    | some slot, some program, some member =>
      if s.slotTakenBy e w then (.refusedConflict, s)
      else (.done, s.storeMap e ⟨w.enabled, w.tag, slot, program, member⟩)
    | _, _, _ => (.refusedValue, s)

/-! ## The settings (R171) -/

/-- Store the settings; a changed management node acts on the notice queue (R145) and a changed reference
select on the reference state (R149). -/
def State.storeSettings (s : State) (x : Settings) : State :=
  let old := s.tables.settings
  let t := { s with tables := { s.tables with settings := x } }
  let t := if x.node = 0 ∧ old.node ≠ 0 then t.dropNotices else t
  if x.select = old.select then t else { t with house := t.house.reselect x.select }

/-- WRITE of the settings (R171); the only index is 0 (11.4). The index is examined first: the manual sets no
order between REFUSED_INDEX and REFUSED_VALUE here (DESIGN CHOICE, log entry 26). -/
def State.writeSettings (s : State) (o : Order) : Status × State :=
  if o.index ≠ 0 then (.refusedIndex, s)
  else
    let node := field o.args 2 1
    match RefSelect.ofCode (field o.args 3 1) with
    | some select =>
      if node ≤ 63 then (.done, s.storeSettings ⟨BitVec.ofNat 6 node, select⟩) else (.refusedValue, s)
    | none => (.refusedValue, s)

/-! ## READ (R170) -/

/-- The results of a READ: the selector and index as carried, then the entry (11.4). -/
def Order.echo (o : Order) (entry : List Byte) : List Byte := o.args.take 2 ++ entry

/-- A READ of a table by one index: the entry as it stands, or REFUSED_INDEX (R170). -/
def Order.readEntry (o : Order) (n : Nat) (bytes : Fin n → List Byte) : Status × List Byte :=
  match toFin? n o.index with
  | some i => (.done, o.echo (bytes i))
  | none => (.refusedIndex, [])

/-- READ of a lane entry (R15). -/
def State.readLane (s : State) (o : Order) : Status × List Byte :=
  o.readEntry 32 fun l => (s.laneEntry l).bytes

/-- READ of a program entry (R38). -/
def State.readProgram (s : State) (o : Order) : Status × List Byte :=
  o.readEntry 16 fun p => (s.entry p).bytes

/-- READ of a profile (R111). -/
def State.readProfile (s : State) (o : Order) : Status × List Byte :=
  o.readEntry 8 fun i => s.tables.profiles[i].bytes

/-- READ of a weighting entry (R94). -/
def State.readWeighting (s : State) (o : Order) : Status × List Byte :=
  o.readEntry 5 fun i => s.tables.weightings[i].bytes

/-- READ of coefficient taps: bank and phase, then taps (R69). -/
def State.readCoefficients (s : State) (o : Order) : Status × List Byte :=
  let r := tapRange o.args
  match toFin? 4 r.bank, toFin? 65 r.phase with
  | some b, some f =>
    if !r.inRange then (.refusedValue, [])
    else
      let bank : Bank := s.tables.banks[b]
      let phase : Phase := bank[f]
      (.done, o.args.take 5 ++
        ((phase.toList.drop r.first).take r.count).flatMap fun c => beBytes 3 c.toInt)
  | _, _ => (.refusedIndex, [])

/-- READ of a band set (R77). -/
def State.readBandSet (s : State) (o : Order) : Status × List Byte :=
  o.readEntry 4 fun i => (s.bandSet i).bytes

/-- READ of a rule (R129). -/
def State.readRule (s : State) (o : Order) : Status × List Byte :=
  o.readEntry 64 fun r => (s.rule r).bytes

/-- READ of an egress map entry (R152). -/
def State.readEgressMap (s : State) (o : Order) : Status × List Byte :=
  o.readEntry 32 fun e => s.tables.map[e].bytes

/-- READ of the settings (R171). -/
def State.readSettings (s : State) (o : Order) : Status × List Byte :=
  o.readEntry 1 fun _ => s.tables.settings.bytes

end Sys2Proof.Machine
end

