-- ==== Sys2Proof/Machine/Views.lean ====
section
/-! DEFINITION. STATUS (R172 to R174): the bytes of each view, in the order its table lists them and at
the widths of 11.4, and what the clear option clears (R173). -/

namespace Sys2Proof.Machine

/-- An optional stamp. -/
def optStamp (t : Option Stamp) : List Byte := optBytes 4 (t.map fun x => (x.toNat : Int))

/-! ## The program views (R172) -/

/-- P and its fraction, or absence: 7 bytes (11.4). -/
def ReadPos.optBytes (P : Option ReadPos) : List Byte :=
  Machine.optBytes 7 (P.map fun x => ((x.stamp.toNat * 16777216 + x.frac.toNat : Nat) : Int))

/-- The PLAY view. -/
def State.playView (s : State) (p : Fin 16) : List Byte :=
  let x := s.program p
  beBytes 1 x.play.state.code ++ beBytes 2 x.play.fade ++ beBytes 1 x.play.target.code ++
    beBytes 3 x.play.warmUpLeft ++ flagByte x.play.elapsed ++
    beBytes 1 x.holds.mute ++ beBytes 1 x.holds.freeze ++ beBytes 1 x.holds.holdDelay ++
    beBytes 1 x.holds.changeover ++
    ReadPos.optBytes x.conv.pos ++ optStamp (s.leaderHorizon p) ++
    beBytes 2 x.conv.trim ++ beBytes 3 x.conv.glide ++ beBytes 4 (s.ratio p) ++ flagByte x.conv.hold

/-- The SERVO view. -/
def State.servoView (s : State) (p : Fin 16) : List Byte :=
  let v := (s.program p).servo
  beBytes 3 v.delay ++ beBytes 3 v.fill ++ beBytes 3 v.limit ++ flagByte v.clamped ++
    beBytes 1 v.mode.code ++ beBytes 1 (jumpPhaseCode v.phase) ++ beBytes 3 v.error ++
    beBytes 2 v.pictureIdle ++ optBytes 4 (v.pictureLast.map fun x => (x : Int))

/-- The segment record, or its absence, behind one presence flag (R172; DEDUCED, log entry 13). -/
def SegmentRecord.optBytes (r : Option SegmentRecord) : List Byte :=
  match r with
  | some x => 1 :: (beBytes 2 x.value ++ beBytes 4 x.stamp.toNat ++ beBytes 4 x.blocks.toNat ++
      beBytes 4 x.segments.toNat)
  | none => 0 :: beBytes 14 0

/-- The METER view. -/
def State.meterView (s : State) (p : Fin 16) : List Byte :=
  let m := (s.program p).meter
  optStamp m.pos ++ optStamp m.origin ++ beBytes 4 m.segments.toNat ++ beBytes 1 m.integration.code ++
    beBytes 2 m.momentary ++ beBytes 2 m.shortTerm ++ beBytes 2 m.integrated ++
    beBytes 4 (blockTotal m.blocks).toNat ++ SegmentRecord.optBytes m.record ++
    beBytes 1 m.cues.length ++ flagByte m.report.isSome

/-- The head of a schedule: its stamp and kind, or that it is empty, behind one presence flag (R172; DEDUCED, log entry
13). -/
def headBytes (schedule : List Entry) : List Byte :=
  match schedule with
  | e :: _ => 1 :: (beBytes 4 e.stamp.toNat ++ beBytes 1 e.code)
  | [] => 0 :: beBytes 5 0

/-- The GAIN view. -/
def State.gainView (s : State) (p : Fin 16) : List Byte :=
  let g := (s.program p).gain
  beBytes 2 g.scheduled ++ beBytes 2 g.applied ++ beBytes 3 g.linear ++ beBytes 3 g.rampEnd ++
    beBytes 2 g.rampStep ++ flagByte g.reissue ++ beBytes 1 g.schedule.length ++ headBytes g.schedule

/-- The enabled egress lanes whose source program this is, from a first map index upward. -/
def State.lanesFrom (s : State) (p : Fin 16) (first : Nat) : List (Fin 32) :=
  (List.finRange 32).filter fun e =>
    decide (first ≤ e.val) && (s.mapEntry e).enabled && (s.mapEntry e).program == p

/-- The CHANGEOVER view: up to 12 lanes, then whether further ones follow. -/
def State.changeoverView (s : State) (p : Fin 16) (first : Nat) : List Byte :=
  let c := (s.program p).change
  let lanes := s.lanesFrom p first
  beBytes 1 c.state.code ++ beBytes 1 c.force.code ++ optBytes 1 (c.latch.map fun q => (q.val : Int)) ++
    beBytes 2 c.revert ++
    (lanes.take 12).flatMap (fun e =>
      beBytes 1 e.val ++ beBytes 2 (s.egressLane e).x ++ [(s.egressLane e).seq]) ++
    flagByte (decide (12 < lanes.length))

/-- The COUNTERS view: the nine counters. -/
def State.countersView (s : State) (p : Fin 16) : List Byte :=
  let x := s.program p
  beBytes 2 x.play.resyncs ++ beBytes 2 x.conv.starved ++ beBytes 2 x.conv.clips ++
    beBytes 2 x.gain.coalesces ++ beBytes 2 x.gain.gainDrops ++ beBytes 2 x.gain.cueDrops ++
    beBytes 2 x.gain.forwardDrops ++ beBytes 2 x.gain.clips ++ beBytes 2 x.meter.cueOverflows

/-! ## The lane, rule and part views (R36, R147, R174) -/

/-- The lane view (R36). -/
def State.laneView (s : State) (l : Fin 32) : List Byte :=
  let x := s.lane l
  beBytes 1 x.status.code ++ optStamp x.horizon ++ optBytes 1 (x.lastSeq.map fun q => (q.toNat : Int)) ++
    beBytes 2 x.idle ++ beBytes 3 x.taint ++ beBytes 2 x.concealed ++ beBytes 2 x.late ++
    beBytes 2 x.dropped

/-- The rule view (R147). -/
def State.ruleView (s : State) (r : Fin 64) : List Byte :=
  let x := s.record r
  beBytes 1 x.state.code ++ beBytes 2 x.qual ++ beBytes 2 x.window ++ beBytes 2 x.stretch ++
    beBytes 2 x.release ++ flagByte x.acked ++ beBytes 1 (causeCode x.last) ++
    beBytes 4 x.lastStamp.toNat ++ beBytes 1 x.changes ++ flagByte x.queued ++ flagByte x.owed ++
    beBytes 2 x.raises

/-- The number of rules owed. -/
def State.owedCount (s : State) : Nat := ((List.finRange 64).filter fun r => (s.record r).owed).length

/-- The part view (R174). The number of rules owed is sent in 1 byte, like the number of notices queued beside
it (DESIGN CHOICE, log entry 14). -/
def State.partView (s : State) : List Byte :=
  [s.nodeByte] ++ beBytes 1 s.orders.cause.code ++
    beBytes 1 s.rx.framing.code ++ beBytes 2 s.rx.checkFails ++ beBytes 2 s.rx.unknownKinds ++
    beBytes 2 s.rx.countErrors ++ beBytes 2 s.rx.lockLosses ++
    beBytes 1 s.select.code ++ beBytes 1 s.house.reference.code ++ beBytes 1 s.house.goodCycles ++
    beBytes 4 s.house.stamp.toNat ++ beBytes 2 s.egress.number.toNat ++
    beBytes 1 s.egress.passthrough.length ++ beBytes 2 s.egress.shed ++ beBytes 1 s.egress.outbox.length ++
    flagByte s.alarm.majorLine ++ flagByte s.alarm.minorLine ++ beBytes 1 s.alarm.notices.length ++
    beBytes 1 s.owedCount ++
    beBytes 1 s.tables.settings.node.toNat ++ beBytes 1 s.orders.intake.length ++
    beBytes 1 s.orders.replies.length ++ beBytes 2 s.orders.drops

/-! ## The clear option (R173) -/

/-- A lane's three counters at 0 (R36, R173). -/
def Lane.clearCounters (x : Lane) : Lane := { x with concealed := 0, late := 0, dropped := 0 }

/-- A program's nine counters at 0 (R173). -/
def Program.clearCounters (x : Program) : Program :=
  { x with
    play := { x.play with resyncs := 0 }
    conv := { x.conv with starved := 0, clips := 0 }
    gain := { x.gain with coalesces := 0, gainDrops := 0, cueDrops := 0, forwardDrops := 0, clips := 0 }
    meter := { x.meter with cueOverflows := 0 } }

/-- A rule's raise count at 0 (R147, R173). -/
def Record.clearRaises (x : Record) : Record := { x with raises := 0 }

/-- The part's own counters, and those of every lane, program and rule, at 0 (R173). -/
def State.clearPart (s : State) : State :=
  let s := { s with
    rx := { s.rx with checkFails := 0, unknownKinds := 0, countErrors := 0, lockLosses := 0 }
    egress := { s.egress with shed := 0 }
    orders := { s.orders with drops := 0 } }
  let s := (s.mapLanes fun _ x => x.clearCounters).mapPrograms fun _ x => x.clearCounters
  { s with alarm := { s.alarm with records := Vector.ofFn fun r => (s.record r).clearRaises } }

/-! ## The STATUS orders (R172, R173) -/

/-- A STATUS for the part (R174). -/
def State.statusPart (s : State) (o : Order) : Status × List Byte × State :=
  (.done, s.partView, if o.clear then s.clearPart else s)

/-- A STATUS for a lane (R36). -/
def State.statusLane (s : State) (o : Order) : Status × List Byte × State :=
  match toFin? 32 o.index with
  | some l => (.done, s.laneView l, if o.clear then s.setLane l (s.lane l).clearCounters else s)
  | none => (.refusedIndex, [], s)

/-- A STATUS for a rule (R147). -/
def State.statusRule (s : State) (o : Order) : Status × List Byte × State :=
  match toFin? 64 o.index with
  | some r => (.done, s.ruleView r, if o.clear then s.setRecord r (s.record r).clearRaises else s)
  | none => (.refusedIndex, [], s)

/-- A STATUS of a program with a view that clears nothing: the clear option is refused (R172, R173).
The index is examined first (DESIGN CHOICE, log entry 26). -/
def State.statusView (s : State) (o : Order) (view : Fin 16 → List Byte) : Status × List Byte × State :=
  match toFin? 16 o.index with
  | some p => if o.clear then (.refusedValue, [], s) else (.done, view p, s)
  | none => (.refusedIndex, [], s)

/-- A STATUS CHANGEOVER view; a first map index above 31 is refused (R172).
The index is examined first (DESIGN CHOICE, log entry 26). -/
def State.statusChangeover (s : State) (o : Order) : Status × List Byte × State :=
  let first := field o.args 4 1
  match toFin? 16 o.index with
  | some p =>
    if o.clear || decide (31 < first) then (.refusedValue, [], s)
    else (.done, s.changeoverView p first, s)
  | none => (.refusedIndex, [], s)

/-- A STATUS COUNTERS view, with which the clear option clears the nine counters (R173). -/
def State.statusCounters (s : State) (o : Order) : Status × List Byte × State :=
  match toFin? 16 o.index with
  | some p =>
    (.done, s.countersView p, if o.clear then s.setProgram p (s.program p).clearCounters else s)
  | none => (.refusedIndex, [], s)

end Sys2Proof.Machine
end

