-- ==== Sys2Proof/Machine/Orders.lean ====
section
/-! DEFINITION. The Order Unit (Chapter 10): when it takes the head of the intake (R166), what each kind
of order does (R40, R41, R49, R75, R115, R137, R169, R175), and the reply (R168). -/

namespace Sys2Proof.Machine

/-! ## Taking an order (R166) -/

/-- The reply queue holds up to 8 replies (R168). -/
def replySize : Nat := 8

/-- The Order Unit may take an order: out of reset and of strap fault, IDLE, room for a reply, warm-up and
auto-start done (R12, R166). -/
def State.unitReady (s : State) : Bool :=
  s.running && !s.strapFault && s.orders.unit == .idle && decide (s.orders.replies.length < replySize) &&
    s.orders.autoStarted

/-- The order the unit takes next, if it takes one now (R166). -/
def State.nextOrder (s : State) : Option Order := if s.unitReady then s.orders.intake.head? else none

/-- The head order has left the intake (R166). -/
def State.dropHead (s : State) : State := { s with orders := { s.orders with intake := s.orders.intake.tail } }

/-- The unit takes the head order: owed rules first take the places that departures have left (R144, log entry 10),
and the order leaves the intake (R166). -/
def State.takeHead (s : State) : State := s.promoteAll.dropHead

/-- Place an order's reply at the tail of the reply queue (R168). -/
def State.answer (s : State) (o : Order) (status : Status) (results : List Byte) : State :=
  { s with orders := { s.orders with
    replies := s.orders.replies ++ [⟨o.replyTo, o.tag, o.kind, status, results⟩] } }

/-- An order that finishes with a status alone. -/
def State.finish (o : Order) (x : Status × State) : State := x.2.answer o x.1 []

/-- A READ finishes with its status and results; the part is unchanged. -/
def State.finishRead (s : State) (o : Order) (x : Status × List Byte) : State := s.answer o x.1 x.2

/-- A STATUS finishes with its status and results, then what it cleared stands (R173). -/
def State.finishStatus (o : Order) (x : Status × List Byte × State) : State := x.2.2.answer o x.1 x.2.1

/-- An unfinished PARK or RESET is recorded (R166). -/
def State.recordOwing (s : State) (o : Order) (unit : UnitState) : State :=
  { s with orders := { s.orders with unit := unit, owing := some ⟨o.replyTo, o.tag, o.kind⟩ } }

/-! ## The orders on programs (R40, R41, R49, R75, R115, R169) -/

/-- The program an order names in its first argument byte. -/
def Order.program (o : Order) : Option (Fin 16) := toFin? 16 (field o.args 0 1)

/-- START (R40, R41). -/
def State.orderStart (s : State) (o : Order) : Status × State :=
  match o.program with
  | none => (.refusedIndex, s)
  | some p =>
    match s.startRefusal p with
    | some refusal => (refusal, s)
    | none => (.done, s.startProgram p)

/-- A program enters PARKING (R49). -/
def State.enterParking (s : State) (p : Fin 16) : State :=
  (s.setProgram p ((s.program p).suspend .parking)).followThrough

/-- PARK: answered at once when refused or already PARKED, otherwise owed (R49). -/
def State.orderPark (s : State) (o : Order) : State :=
  match o.program with
  | none => s.answer o .refusedIndex []
  | some p =>
    if s.active p then (s.enterParking p).recordOwing o .parkPending else s.answer o .done []

/-- DELAY (R75). -/
def State.orderDelay (s : State) (o : Order) : Status × State :=
  match o.program with
  | none => (.refusedIndex, s)
  | some p =>
    let old := s.entry p
    if !old.defined then (.refusedState, s)
    else
      match DelayMode.ofCode (field o.args 1 1) with
      | none => (.refusedValue, s)
      | some mode =>
        let asked := field o.args 2 3
        let e := { old with delayMode := mode, manualDelay := min asked 480000 }
        let t := (s.setEntry p e).delayStored p old e
        let limited := s.active p && mode == .manual && (t.program p).servo.clamped
        (doneOr (e.manualDelay != asked || limited), t)

/-- A program's changeover state returns to PRIMARY from ALTERNATE or REVERTING by an order (R156, R169). The revert
count is then 0 (DESIGN CHOICE, log entry 12). -/
def Change.backHome (c : Change) : Change :=
  if c.state.crossed then { c with state := .primary, revert := 0, revertDue := false } else c

/-- Act on a stored force setting (R156, R169). -/
def State.applyForce (s : State) (p : Fin 16) (f : Force) : State :=
  let x := s.program p
  let s := s.setProgram p { x with change := { x.change with force := f } }
  let home (s : State) : State :=
    (s.setProgram p { s.program p with change := (s.program p).change.backHome }).followThrough
  match f with
  | .forcePrimary => home s
  | .forceAlternate => s.followThrough
  | .automatic =>
    let s := s.followThrough
    if (s.program p).change.state = .reverting then home s else s

/-- CHANGEOVER (R169). -/
def State.orderChangeover (s : State) (o : Order) : Status × State :=
  match o.program with
  | none => (.refusedIndex, s)
  | some p =>
    match Force.ofCode (field o.args 1 1) with
    | none => (.refusedValue, s)
    | some f => (.done, s.applyForce p f)

/-- CUE: the cue enters at the stamp M holds (R101, R115). -/
def State.orderCue (s : State) (o : Order) : Status × State :=
  let mark := BitVec.ofNat 16 (field o.args 2 2)
  match o.program with
  | none => (.refusedIndex, s)
  | some p =>
    match CueType.ofCode (field o.args 1 1) with
    | none => (.refusedValue, s)
    | some kind =>
      if kind ≠ .userMark ∧ mark ≠ 0 then (.refusedValue, s)
      else
        match (s.program p).meter.pos with
        | none => (.refusedState, s)
        | some M =>
          if s.playState p = .parked ∨ s.playState p = .resyncing then (.refusedState, s)
          else (.done, s.enterCue p M kind mark)

/-! ## ACKNOWLEDGE and RESET (R137, R175) -/

/-- ACKNOWLEDGE of one rule, or of all in ascending index (R137). -/
def State.orderAcknowledge (s : State) (o : Order) : Status × State :=
  let i := field o.args 0 1
  if i = 255 then (.done, ((List.finRange 64).foldl (fun s r => s.acknowledge r) s).followThrough)
  else
    match toFin? 64 i with
    | some r => (.done, (s.acknowledge r).followThrough)
    | none => (.refusedIndex, s)

/-! ## One order carried out (R166, R167) -/

/-- Carry out an order that has left the intake, by its row of the table. -/
def State.carryOut (s : State) (o : Order) : State :=
  match o.row with
  | .writeLane => State.finish o (s.writeLane o)
  | .writeProgram => State.finish o (s.writeProgram o)
  | .writeProfile => State.finish o (s.writeProfile o)
  | .writeWeighting => State.finish o (s.writeWeighting o)
  | .writeCoefficients => State.finish o (s.writeCoefficients o)
  | .writeBandSet => State.finish o (s.writeBandSet o)
  | .writeRule => State.finish o (s.writeRule o)
  | .writeEgressMap => State.finish o (s.writeEgressMap o)
  | .writeSettings => State.finish o (s.writeSettings o)
  | .readLane => s.finishRead o (s.readLane o)
  | .readProgram => s.finishRead o (s.readProgram o)
  | .readProfile => s.finishRead o (s.readProfile o)
  | .readWeighting => s.finishRead o (s.readWeighting o)
  | .readCoefficients => s.finishRead o (s.readCoefficients o)
  | .readBandSet => s.finishRead o (s.readBandSet o)
  | .readRule => s.finishRead o (s.readRule o)
  | .readEgressMap => s.finishRead o (s.readEgressMap o)
  | .readSettings => s.finishRead o (s.readSettings o)
  | .statusPart => State.finishStatus o (s.statusPart o)
  | .statusLane => State.finishStatus o (s.statusLane o)
  | .statusRule => State.finishStatus o (s.statusRule o)
  | .statusProgramPlay => State.finishStatus o (s.statusView o s.playView)
  | .statusProgramServo => State.finishStatus o (s.statusView o s.servoView)
  | .statusProgramMeter => State.finishStatus o (s.statusView o s.meterView)
  | .statusProgramGain => State.finishStatus o (s.statusView o s.gainView)
  | .statusProgramChangeover => State.finishStatus o (s.statusChangeover o)
  | .statusProgramCounters => State.finishStatus o (s.statusCounters o)
  | .start => State.finish o (s.orderStart o)
  | .park => s.orderPark o
  | .delay => State.finish o (s.orderDelay o)
  | .changeover => State.finish o (s.orderChangeover o)
  | .acknowledge => State.finish o (s.orderAcknowledge o)
  | .cue => State.finish o (s.orderCue o)
  | .reset => s.recordOwing o .resetPending
  | _ => s.answer o .refusedUnknown []

end Sys2Proof.Machine
end

