-- ==== Sys2Proof/Machine/Urgent.lean ====
section
/-! DEFINITION. What comes about at once. A step that the part takes by itself, or an order that the
Order Unit can take, waits for nothing: it is taken before anything further happens outside
(`State.settle`), in the order the sender's commands name, or in the order of `State.urgent` where they
name none (log entries 2 to 4). -/

namespace Sys2Proof.Machine

/-! ## The part's own steps: when each is due, and its effect -/

/-- LANE_STALLED is due: a RECEIVING lane idle for 2 ms (R20). -/
def State.stallDue (s : State) (l : Fin 32) : Bool :=
  (s.lane l).status == .receiving && decide (2 ≤ (s.lane l).idle)

/-- The lane becomes STALLED (R20). -/
def State.stallLane (s : State) (l : Fin 32) : State := s.setLane l { s.lane l with status := .stalled }

/-- LANE_LOST is due: an ARMED, RECEIVING or STALLED lane idle for its lost time (R20). -/
def State.lostDue (s : State) (l : Fin 32) : Bool :=
  let x := s.lane l
  (x.status == .armed || x.status == .receiving || x.status == .stalled) &&
    decide ((s.laneEntry l).lostTime ≤ x.idle)

/-- A program whose leader became LOST: RUNNING enters HOLDOVER, WARMING enters RESYNCING (R22, R43 to R45). -/
def State.tellLeaderLost (s : State) (p : Fin 16) : State :=
  match s.playState p with
  | .running => s.enterHoldover p
  | .warming => s.requestResync p
  | .parked | .priming | .holdover | .resyncing | .parking => s

/-- The lane becomes LOST, and the program it leads is told at once (R20, R22). -/
def State.loseLane (s : State) (l : Fin 32) : State :=
  let s := s.setLane l { s.lane l with status := .lost }
  match s.programOf l with
  | some p => if s.leader p == some l then s.tellLeaderLost p else s
  | none => s

/-- PICTURE_TIMEOUT is due (R88). -/
def State.pictureDue (s : State) (p : Fin 16) : Bool := (s.program p).servo.pictureDue

/-- The PICTURE condition becomes present (R88). -/
def State.picturePresent (s : State) (p : Fin 16) : State :=
  let x := s.program p
  s.setProgram p { x with servo := { x.servo with pictureDue := false, pictureLate := true } }

/-- AUTO_REVERT is due (R156). -/
def State.revertDue (s : State) (p : Fin 16) : Bool :=
  (s.program p).change.state == .reverting && (s.program p).change.revertDue

/-- The program reverts to PRIMARY (R156). The revert count stays as it stood (DESIGN CHOICE, log entry 12). -/
def State.revertNow (s : State) (p : Fin 16) : State :=
  let x := s.program p
  (s.setProgram p { x with change := { x.change with state := .primary, revertDue := false } }).followThrough

/-- The receiver enters LOCKED (R4). -/
def State.lockReceiver (s : State) : State := { s with rx := s.rx.lock }

/-- The reference state becomes LOCKED (R149). -/
def State.lockReference (s : State) : State := { s with house := s.house.lock }

/-! ## The steps due at once -/

/-- The first index of a finite range that passes the test, as a command. -/
def firstDue {n : Nat} (due : Fin n → Bool) (command : Fin n → Instr) : Option Instr :=
  ((List.finRange n).find? due).map command

/-- A step due at once of the receiver, of House Timing or of a lane. -/
def State.urgentInput (s : State) : Option Instr :=
  if s.rx.lockDue then some .receiverLocked
  else if s.referenceDue then some .referenceLock
  else
    (firstDue s.stallDue .laneStalled).or
      ((firstDue s.lostDue .laneLost).or (firstDue s.pictureDue .pictureTimeout))

/-- A step due at once of the Alarm Unit or of the changeover. -/
def State.urgentAlarm (s : State) : Option Instr :=
  (firstDue (fun r => s.moveDue r .raise) .recordRaised).or
    ((firstDue (fun r => s.moveDue r .windowEnd) .countWindowEnd).or
      ((firstDue (fun r => s.moveDue r .release) .releaseEnd).or
        (firstDue s.revertDue .autoRevert)))

/-- A step due at once of a program. -/
def State.urgentProgram (s : State) : Option Instr :=
  (firstDue s.fillReachedDue .fillReached).or
    ((firstDue s.warmUpEndDue .warmUpEnd).or
      ((firstDue s.flushDue .resyncFlush).or
        ((firstDue s.parkingDue .parkingEnd).or
          ((firstDue s.fadeOutDue .jumpFadeOutEnd).or
            (firstDue s.releaseDue .jumpRelease)))))

/-- A step due at once that a reset brings. -/
def State.urgentReset (s : State) : Option Instr :=
  if s.autoStartDue then some .autoStart
  else if s.resetDue then some (.resetBegin s.straps)
  else if s.resetReplyDue then some .resetOrderDone
  else none

/-- The first of the part's own steps that is due at once; none while a reset is in progress. -/
def State.urgentStep (s : State) : Option Instr :=
  if s.running then
    s.urgentInput.or (s.urgentAlarm.or (s.urgentProgram.or s.urgentReset))
  else none

/-- The effect of a step of the part's own. -/
def State.ownStep (s : State) (i : Instr) : State :=
  match i with
  | .receiverLocked => s.lockReceiver
  | .referenceLock => s.lockReference
  | .laneStalled l => s.stallLane l
  | .laneLost l => s.loseLane l
  | .pictureTimeout p => s.picturePresent p
  | .recordRaised r => s.raiseRecord r
  | .countWindowEnd r => s.endWindow r
  | .releaseEnd r => s.releaseRecord r
  | .autoRevert p => s.revertNow p
  | .fillReached p => s.enterWarming p
  | .warmUpEnd p => s.endWarmUp p
  | .resyncFlush p => s.resyncFlush p
  | .parkingEnd p => s.endParking p
  | .jumpFadeOutEnd p => s.fadeOutEnd p
  | .jumpRelease p => s.jumpRelease p
  | .autoStart => s.applyAutoStart
  | .resetBegin straps => s.afterOrder straps
  | .resetOrderDone => s.answerReset
  | _ => s

/-! ## Settling -/

/-- More steps than can ever be due at once before the next thing happens outside. -/
def settleFuel : Nat := 1000

/-- Take the part's own steps that are due at once, up to a number of them. -/
def State.takeOwnSteps (s : State) : Nat → State
  | 0 => s
  | n + 1 =>
    match s.urgentStep with
    | some i => (s.ownStep i).takeOwnSteps n
    | none => s

/-- Take every step of the part's own that is due at once. -/
def State.settleOwn (s : State) : State := s.takeOwnSteps settleFuel

/-- What is due at once: a step of the part's own, or else the order the Order Unit takes (R166). -/
def State.urgent (s : State) : Option Instr :=
  s.urgentStep.or (s.nextOrder.map Order.row)

/-- Take the head order of the intake (R166). -/
def State.serveOrder (s : State) : State :=
  match s.nextOrder with
  | some o => s.takeHead.carryOut o
  | none => s

/-- Take what is due at once, up to a number of steps. -/
def State.takeUrgent (s : State) : Nat → State
  | 0 => s
  | n + 1 =>
    match s.urgentStep with
    | some i => (s.ownStep i).takeUrgent n
    | none =>
      match s.nextOrder with
      | some o => (s.takeHead.carryOut o).takeUrgent n
      | none => s

/-- Take everything that is due at once, orders included. -/
def State.settle (s : State) : State := s.takeUrgent settleFuel

/-- Nothing is due at once. -/
def State.quiet (s : State) : Bool := s.urgent.isNone

/-- None of the part's own steps is due at once, and no owed rule has a place to take. -/
def State.calm (s : State) : Bool := s.urgentStep.isNone && !s.promotionDue

/-! ## The steps on the house clock (R125, R150) -/

/-- EGRESS_WARM_UP_END is due (R150). -/
def State.warmUpDue (s : State) : Bool := !s.house.warmedUp && s.house.warmUpLeft == 0

/-- EGRESS_FRAME_START is due: 12 house samples have passed since the last frame period began (R150). -/
def State.frameDue (s : State) : Bool := s.house.warmedUp && s.house.toFrame == 0

/-- The warm-up ends and the first frame period begins (R150). -/
def State.endEgressWarmUp (s : State) : State :=
  State.beginPeriod { s with house := { s.house with warmedUp := true } }

/-- The frame of the period just ended is built and sent, and the next period begins (R150). -/
def State.startFrame (s : State) : State := s.buildFrame.beginPeriod

/-- Take what is due on the house clock before a house sample begins: the tick, the end of the warm-up and
the frame start, each followed by what it brings about at once; then owed rules take the places that a frame
start ahead of its tick has left (R144, log entry 10). -/
def State.settleClock (s : State) : State :=
  let s := if s.tickDue then s.tickAlarm.settle else s
  let s := if s.warmUpDue then s.endEgressWarmUp.settle else s
  let s := if s.frameDue then s.startFrame.settle else s
  s.promoteAll

/-- Nothing is due on the house clock, and no owed rule has a place to take. -/
def State.clockQuiet (s : State) : Bool :=
  !s.tickDue && !s.warmUpDue && !s.frameDue && !s.promotionDue

/-! ## The forms a command takes -/

/-- A step of the part's own, named by the sender: taken if it is due, out of reset (log entry 2). -/
def State.ownCommand (s : State) (due : Bool) (effect : State → State) : State :=
  if s.running && due then effect s else s

/-- An order's step: the part's own steps come first, then the head order is taken if the unit takes it now
and it is an order of this row (R166, log entries 2 to 4). -/
def State.orderCommand (s : State) (row : Instr) (effect : State → Order → State) : State :=
  let t := s.settleOwn
  match t.nextOrder with
  | some o => if o.row = row then effect t.takeHead o else t
  | none => t

/-- Something from outside, out of reset: what is due at once comes first. -/
def State.outside (s : State) (effect : State → State) : State :=
  if s.running then effect s.settle else s

/-- A step on the house clock, out of reset: what is due at once comes first, then the step if it is due
(log entries 2 and 4). -/
def State.clockCommand (s : State) (due : State → Bool) (effect : State → State) : State :=
  s.outside fun t => if due t then effect t else t

/-- A slot of the trunk: a fault unless it has its 84 characters (R2); otherwise something from outside. -/
def State.slotCommand (s : State) (slot : Slot) (row : SlotRow) (deliver : State → State) :
    Host.Outcome State Fault Refusal :=
  if slot.length = 84 then .next (s.outside fun t => t.takeSlot row slot deliver)
  else .fault .malformedSlot

end Sys2Proof.Machine
end

