-- ==== Sys2Proof/Machine/AlarmCommands.lean ====
section
/-! DEFINITION. The commands by which a rule's record moves (Chapter 8). -/

namespace Sys2Proof.Machine

/-- RECORD_RAISED: the record enters RAISED, its actions held and a notice-making change made (R134). -/
def execRecordRaised (r : Fin 64) (s : State) : Host.Outcome State Fault Refusal :=
  .next (s.ownCommand (s.moveDue r .raise) fun t => t.raiseRecord r)

/-- COUNT_WINDOW_END: a COUNT window ends short; a new window, or CLEAR (R133). -/
def execCountWindowEnd (r : Fin 64) (s : State) : Host.Outcome State Fault Refusal :=
  .next (s.ownCommand (s.moveDue r .windowEnd) fun t => t.endWindow r)

/-- RELEASE_END: the record leaves RELEASING for CLEAR or ACK_WAIT, its actions released (R135). -/
def execReleaseEnd (r : Fin 64) (s : State) : Host.Outcome State Fault Refusal :=
  .next (s.ownCommand (s.moveDue r .release) fun t => t.releaseRecord r)

end Sys2Proof.Machine
end

