-- ==== Sys2Proof/Machine/Converter.lean ====
section
/-! DEFINITION. One house sample (R59): the converter's outputs (R62 to R66), gain and fade (R119, R120,
R51), the advance with its starvation hold (R60, R61), and the egress lanes' samples (R153, R158). -/

namespace Sys2Proof.Machine

/-! ## The interpolation (R62 to R64, R66) -/

/-- The interpolated coefficient of a tap for phase index `i` and weight `u`, rounded toward −∞ (R63). -/
def Bank.coefficient (b : Bank) (i : Fin 64) (u : Nat) (tap : Fin 32) : Int :=
  let c0 := (b[i.val]'(by omega))[tap].toInt
  let c1 := (b[i.val + 1]'(by omega))[tap].toInt
  c0 + ((c1 - c0) * u) / 262144

/-- What the converter makes of one member at one house sample (R63, R64, R65). -/
structure MemberOut where
  value : Int
  suspect : Bool
  starved : Bool
  clipped : Bool
  air : Bool
deriving DecidableEq, Repr

/-- The exact sum of products over the 32 taps; tap k meets the word of stamp n − 15 + k (R62, R63). -/
def State.tapSum (s : State) (p : Fin 16) (edge : Option Stamp) (l : Fin 32) (P : ReadPos) : Int :=
  let f := P.frac.toNat
  let b := s.tables.banks[(s.entry p).bank]
  ((List.finRange 32).map fun k =>
    b.coefficient (Fin.ofNat 64 (f / 262144)) (f % 262144) k *
      (s.readWord edge l (P.stamp - 15 + BitVec.ofNat 32 k.val)).1).sum

/-- Some word of the span reads EMPTY: the 32 words, or for a house-locked program the one at floor(P)
(R64, R66). -/
def State.spanEmpty (s : State) (p : Fin 16) (edge : Option Stamp) (l : Fin 32) (P : ReadPos) : Bool :=
  if (s.entry p).houseLocked then (s.readWord edge l P.stamp).2 == .empty
  else (List.range 32).any fun k =>
    (s.readWord edge l (P.stamp - 15 + BitVec.ofNat 32 k)).2 == .empty

/-- The output of one member at P, with its mark and events (R63 to R66). -/
def State.convert (s : State) (p : Fin 16) (edge : Option Stamp) (P : ReadPos) (l : Fin 32) : MemberOut :=
  let word := s.readWord edge l P.stamp
  let locked := (s.entry p).houseLocked
  let y := if locked then word.1 else roundShift (s.tapSum p edge l P) 22
  let clipped := y != satSample y
  let starved := s.spanEmpty p edge l P || (s.program p).conv.hold
  { value := satSample y
    suspect := starved || word.2 == .suspect || clipped
    starved := starved
    clipped := clipped
    air := word.2 != .good }

/-! ## Gain, fade and events (R51, R65, R70, R120) -/

/-- A gained output: its sample, its mark, and whether the gain saturated it (R120). -/
def MemberOut.gained (o : MemberOut) (g : Int) : Int × Bool × Bool :=
  let x := gainedSample o.value g
  (satSample x, o.suspect || x != satSample x, x != satSample x)

/-- One step of the fade toward its target (R50). -/
def Play.stepFade (x : Play) : Play :=
  match x.target with
  | .opened => if x.fade < 480 then { x with fade := x.fade + 1 } else x
  | .silent => { x with fade := x.fade - 1 }

/-- The members' faded outputs of a program at this house sample, with their marks, and the program after
its ramp step, fade step, events and counters. The fade position moves before it is applied (DEDUCED,
log entry 8). -/
def State.soundProgram (s : State) (p : Fin 16) : List (Int × Bool) × Program :=
  let x := s.program p
  let play := x.play.stepFade
  match x.conv.pos with
  | some P =>
    if x.play.state.sounding then
      let outs := (s.entry p).members.map fun l => s.convert p (s.edge p) P l
      let gain := x.gain.stepRamp
      let gained := outs.map fun o => o.gained gain.linear
      let gainClip := gained.any fun o => o.2.2
      let clip := outs.any (·.clipped)
      (gained.map fun o => (fadedSample o.1 play.fade, o.2.1),
       { x with
          play := play
          conv := { x.conv with
            starved := satAdd x.conv.starved (outs.any (·.starved)).toNat
            clips := satAdd x.conv.clips clip.toNat }
          gain := { gain with clips := satAdd gain.clips gainClip.toNat }
          events := { x.events with
            overload := x.events.overload || clip || gainClip
            air := x.events.air || outs.any (·.air) } })
    else ([], { x with play := play })
  | none => ([], { x with play := play })

/-! ## The advance (R59 to R61) -/

/-- The advance of WARMING and RUNNING: made if floor(P + R) + 16 lies behind W, withheld with the hold
flag set otherwise (R60). -/
def State.heldAdvance (s : State) (p : Fin 16) (P : ReadPos) : State :=
  let x := s.program p
  let next := P.advance (s.heldRatio p)
  let clear := match s.leaderHorizon p with
    | some W => behind (next.stamp + 16) W
    | none => false
  let s := s.setProgram p { x with conv := { x.conv with hold := !clear } }
  if clear then s.movePos p next else s

/-- The advance by play state; none while a jump is in HOLD (R59). -/
def State.advance (s : State) (p : Fin 16) : State :=
  let x := s.program p
  match x.conv.pos with
  | none => s
  | some P =>
    match x.play.state with
    | .warming => s.heldAdvance p P
    | .running => if x.servo.phase = some .hold then s else s.heldAdvance p P
    | .holdover | .resyncing | .parking => s.movePos p (P.advance (s.freeRatio p))
    | .parked | .priming => s

/-- After the advance: the T and G fixed at a frame start are spent, and in WARMING the warm-up remaining
falls by one (R43, R57). -/
def Program.endSample (x : Program) : Program :=
  { x with
    conv := { x.conv with fixed := none }
    play := if x.play.state = .warming then { x.play with warmUpLeft := x.play.warmUpLeft - 1 }
      else x.play }

/-- One program's house sample: its outputs at P, then its advance (R59). A jump whose fade reaches 0 here compares and
moves behind this advance (R58, R82; DESIGN CHOICE, log entry 28). -/
def State.sampleProgram (s : State) (p : Fin 16) : List (Int × Bool) × State :=
  let (outs, x) := s.soundProgram p
  let s := (s.setProgram p x).advance p
  (outs, s.setProgram p (s.program p).endSample)

/-- Every program's house sample, in ascending index, with the outputs handed on. -/
def State.samplePrograms (s : State) : List (Fin 16) → List (Fin 16 × List (Int × Bool)) × State
  | [] => ([], s)
  | p :: rest =>
    let (outs, s) := s.sampleProgram p
    let (more, s) := s.samplePrograms rest
    ((p, outs) :: more, s)

/-! ## The egress lanes (R153, R158) -/

/-- A member's output: 0 and SOUND for a member the program does not have (R51, R153). -/
def memberOutput (outs : List (Fin 16 × List (Int × Bool))) (p : Fin 16) (member : Nat) : Int × Bool :=
  match outs.find? fun o => o.1 == p with
  | some o => o.2.getD member (0, false)
  | none => (0, false)

/-- The crossfade position one step toward its target (R158). -/
def stepCrossfade (x : Nat) (crossed : Bool) : Nat :=
  if crossed then (if x < 960 then x + 1 else x) else x - 1

/-- The lane's mix of primary and alternate, and its mark (R153). -/
def mixSample (a b : Int × Bool) (x : Nat) : Int × Bool :=
  ((a.1 * (960 - x) + b.1 * x).tdiv 960, (a.2 && decide (x < 960)) || (b.2 && decide (0 < x)))

/-- One egress lane's house sample (R153, R158). -/
def State.laneSample (s : State) (outs : List (Fin 16 × List (Int × Bool))) (e : Fin 32)
    (lane : EgressLane) : EgressLane :=
  let m := s.mapEntry e
  if !m.enabled then lane
  else
    let c := (s.program m.program).change
    let x := stepCrossfade lane.x c.state.crossed
    if s.house.warmedUp && !s.strapFault then
      let a := memberOutput outs m.program m.member
      let b := match c.latch with
        | some q => memberOutput outs q m.member
        | none => (0, false)
      { lane with x := x, samples := lane.samples ++ [mixSample a b x] }
    else { lane with x := x }

/-! ## The house sample (R59, R150) -/

/-- The house stamp and the countdowns to the tick, the frame start and the end of the warm-up (R150). -/
def House.step (h : House) : House :=
  { h with
    stamp := h.stamp + 1
    toTick := h.toTick - 1
    toFrame := if h.warmedUp then h.toFrame - 1 else h.toFrame
    warmUpLeft := h.warmUpLeft - 1 }

/-- One house sample: every program's outputs and advance, then the egress lanes, then what a lane that
reached x = 0 lets clear (R59, R153, R157). -/
def State.sampleHouse (s : State) : State :=
  let s := { s with
    house := s.house.step
    egress := { s.egress with sampleFrom := some s.egress.outbox.length } }
  let (outs, s) := s.samplePrograms (List.finRange 16)
  (s.mapEgressLanes fun e x => s.laneSample outs e x).followThrough

end Sys2Proof.Machine
end

