-- ==== Sys2Proof/Machine/HouseCommands.lean ====
section
/-! DEFINITION. The commands of the resets, of House Timing and of the house clock (Chapters 9 and 10, 11.5). -/

namespace Sys2Proof.Machine

/-- POWER_ON: the power-on reset begins; no frames, lines released (R180). What was due at once is lost with the
reset and not taken first (DESIGN CHOICE, log entry 24). -/
def execPowerOn (s : State) : Host.Outcome State Fault Refusal :=
  .next s.powerRises

/-- POWER_ON_RESET_END: every block takes its power-on values and the straps are read (R11, R180). -/
def execPowerOnResetEnd (straps : BitVec 6) (s : State) : Host.Outcome State Fault Refusal :=
  .next (if s.powerReset then s.afterPower straps else s)

/-- RESET_LINE_LOW: a reset by the reset line begins; no slot is taken, no frame sent, lines released (R180).
What was due at once is not taken first (DESIGN CHOICE, log entry 24). -/
def execResetLineLow (s : State) : Host.Outcome State Fault Refusal :=
  .next (if s.resetLow then s else s.lineFalls)

/-- RESET_LINE_HIGH: the line reset ends; dynamic state at its reset values, the straps read, the cause LINE
(R11, R176, R180). -/
def execResetLineHigh (straps : BitVec 6) (s : State) : Host.Outcome State Fault Refusal :=
  .next (if s.resetLow then s.lineRises straps else s)

/-- REFERENCE_CYCLE: a good or bad cycle of the house reference, under EXTERNAL reference (R149). -/
def execReferenceCycle (good : Bool) (s : State) : Host.Outcome State Fault Refusal :=
  .next (s.outside fun t =>
    if t.select = .external then { t with house := t.house.cycle good } else t)

/-- REFERENCE_LOCK: the good-cycle count stands at 48; LOCKED (R149). -/
def execReferenceLock (s : State) : Host.Outcome State Fault Refusal :=
  .next (s.ownCommand s.referenceDue State.lockReference)

/-- HOUSE_SAMPLE: every program's outputs and advance, and every egress lane's sample (R59, R153). What is due
on the house clock is taken first (log entry 4). -/
def execHouseSample (s : State) : Host.Outcome State Fault Refusal :=
  .next (s.outside fun t => t.settleClock.sampleHouse)

/-- ALARM_TICK: idle counts, the judging of every enabled rule, and the moves of the records (R125). -/
def execAlarmTick (s : State) : Host.Outcome State Fault Refusal :=
  .next (s.clockCommand State.tickDue State.tickAlarm)

/-- EGRESS_WARM_UP_END: the first egress frame period begins (R150). -/
def execEgressWarmUpEnd (s : State) : Host.Outcome State Fault Refusal :=
  .next (s.clockCommand State.warmUpDue State.endEgressWarmUp)

/-- EGRESS_FRAME_START: the frame of the period just ended is built and sent, map entries apply, and the
servo updates run (R150). -/
def execEgressFrameStart (s : State) : Host.Outcome State Fault Refusal :=
  .next (s.clockCommand State.frameDue State.startFrame)

/-- AUTO_START: the defined auto-start programs that pass the START checks start (R52). -/
def execAutoStart (s : State) : Host.Outcome State Fault Refusal :=
  .next (s.ownCommand s.autoStartDue State.applyAutoStart)

/-- RESET_BEGIN: with a RESET pending and the reply queue empty, the reset begins and ends (R175). -/
def execResetBegin (straps : BitVec 6) (s : State) : Host.Outcome State Fault Refusal :=
  .next (s.ownCommand s.resetDue fun t => t.afterOrder straps)

/-- RESET_ORDER_DONE: the RESET is answered and the unit is IDLE (R176). -/
def execResetOrderDone (s : State) : Host.Outcome State Fault Refusal :=
  .next (s.ownCommand s.resetReplyDue State.answerReset)

end Sys2Proof.Machine
end

