-- ==== Sys2Proof/Machine/OrderCommands.lean ====
section
/-! DEFINITION. The commands of the Order Unit (Chapter 10): each takes the head order of the intake. -/

namespace Sys2Proof.Machine

/-- UNKNOWN_ORDER: an order of unknown kind, table, target type or view is refused (R167). -/
def execUnknownOrder (s : State) : Host.Outcome State Fault Refusal :=
  .next (s.orderCommand .unknownOrder fun t o => t.answer o .refusedUnknown [])

/-- WRITE_LANE (R16). -/
def execWriteLane (s : State) : Host.Outcome State Fault Refusal :=
  .next (s.orderCommand .writeLane fun t o => State.finish o (t.writeLane o))

/-- WRITE_PROGRAM (R39, R75). -/
def execWriteProgram (s : State) : Host.Outcome State Fault Refusal :=
  .next (s.orderCommand .writeProgram fun t o => State.finish o (t.writeProgram o))

/-- WRITE_PROFILE (R111). -/
def execWriteProfile (s : State) : Host.Outcome State Fault Refusal :=
  .next (s.orderCommand .writeProfile fun t o => State.finish o (t.writeProfile o))

/-- WRITE_WEIGHTING (R94). -/
def execWriteWeighting (s : State) : Host.Outcome State Fault Refusal :=
  .next (s.orderCommand .writeWeighting fun t o => State.finish o (t.writeWeighting o))

/-- WRITE_COEFFICIENTS (R68). -/
def execWriteCoefficients (s : State) : Host.Outcome State Fault Refusal :=
  .next (s.orderCommand .writeCoefficients fun t o => State.finish o (t.writeCoefficients o))

/-- WRITE_BAND_SET (R77). -/
def execWriteBandSet (s : State) : Host.Outcome State Fault Refusal :=
  .next (s.orderCommand .writeBandSet fun t o => State.finish o (t.writeBandSet o))

/-- WRITE_RULE (R129, R130). -/
def execWriteRule (s : State) : Host.Outcome State Fault Refusal :=
  .next (s.orderCommand .writeRule fun t o => State.finish o (t.writeRule o))

/-- WRITE_EGRESS_MAP (R152). -/
def execWriteEgressMap (s : State) : Host.Outcome State Fault Refusal :=
  .next (s.orderCommand .writeEgressMap fun t o => State.finish o (t.writeEgressMap o))

/-- WRITE_SETTINGS (R171, R145, R149). -/
def execWriteSettings (s : State) : Host.Outcome State Fault Refusal :=
  .next (s.orderCommand .writeSettings fun t o => State.finish o (t.writeSettings o))

/-- READ_LANE (R15). -/
def execReadLane (s : State) : Host.Outcome State Fault Refusal :=
  .next (s.orderCommand .readLane fun t o => t.finishRead o (t.readLane o))

/-- READ_PROGRAM (R38). -/
def execReadProgram (s : State) : Host.Outcome State Fault Refusal :=
  .next (s.orderCommand .readProgram fun t o => t.finishRead o (t.readProgram o))

/-- READ_PROFILE (R111). -/
def execReadProfile (s : State) : Host.Outcome State Fault Refusal :=
  .next (s.orderCommand .readProfile fun t o => t.finishRead o (t.readProfile o))

/-- READ_WEIGHTING (R94). -/
def execReadWeighting (s : State) : Host.Outcome State Fault Refusal :=
  .next (s.orderCommand .readWeighting fun t o => t.finishRead o (t.readWeighting o))

/-- READ_COEFFICIENTS (R69). -/
def execReadCoefficients (s : State) : Host.Outcome State Fault Refusal :=
  .next (s.orderCommand .readCoefficients fun t o => t.finishRead o (t.readCoefficients o))

/-- READ_BAND_SET (R77). -/
def execReadBandSet (s : State) : Host.Outcome State Fault Refusal :=
  .next (s.orderCommand .readBandSet fun t o => t.finishRead o (t.readBandSet o))

/-- READ_RULE (R129). -/
def execReadRule (s : State) : Host.Outcome State Fault Refusal :=
  .next (s.orderCommand .readRule fun t o => t.finishRead o (t.readRule o))

/-- READ_EGRESS_MAP (R152). -/
def execReadEgressMap (s : State) : Host.Outcome State Fault Refusal :=
  .next (s.orderCommand .readEgressMap fun t o => t.finishRead o (t.readEgressMap o))

/-- READ_SETTINGS (R171). -/
def execReadSettings (s : State) : Host.Outcome State Fault Refusal :=
  .next (s.orderCommand .readSettings fun t o => t.finishRead o (t.readSettings o))

/-- STATUS_PART (R174). -/
def execStatusPart (s : State) : Host.Outcome State Fault Refusal :=
  .next (s.orderCommand .statusPart fun t o => State.finishStatus o (t.statusPart o))

/-- STATUS_LANE (R36). -/
def execStatusLane (s : State) : Host.Outcome State Fault Refusal :=
  .next (s.orderCommand .statusLane fun t o => State.finishStatus o (t.statusLane o))

/-- STATUS_RULE (R147). -/
def execStatusRule (s : State) : Host.Outcome State Fault Refusal :=
  .next (s.orderCommand .statusRule fun t o => State.finishStatus o (t.statusRule o))

/-- STATUS_PROGRAM_PLAY (R172). -/
def execStatusProgramPlay (s : State) : Host.Outcome State Fault Refusal :=
  .next (s.orderCommand .statusProgramPlay fun t o => State.finishStatus o (t.statusView o t.playView))

/-- STATUS_PROGRAM_SERVO (R90). -/
def execStatusProgramServo (s : State) : Host.Outcome State Fault Refusal :=
  .next (s.orderCommand .statusProgramServo fun t o => State.finishStatus o (t.statusView o t.servoView))

/-- STATUS_PROGRAM_METER (R109). -/
def execStatusProgramMeter (s : State) : Host.Outcome State Fault Refusal :=
  .next (s.orderCommand .statusProgramMeter fun t o => State.finishStatus o (t.statusView o t.meterView))

/-- STATUS_PROGRAM_GAIN (R123). -/
def execStatusProgramGain (s : State) : Host.Outcome State Fault Refusal :=
  .next (s.orderCommand .statusProgramGain fun t o => State.finishStatus o (t.statusView o t.gainView))

/-- STATUS_PROGRAM_CHANGEOVER (R164). -/
def execStatusProgramChangeover (s : State) : Host.Outcome State Fault Refusal :=
  .next (s.orderCommand .statusProgramChangeover fun t o => State.finishStatus o (t.statusChangeover o))

/-- STATUS_PROGRAM_COUNTERS (R173). -/
def execStatusProgramCounters (s : State) : Host.Outcome State Fault Refusal :=
  .next (s.orderCommand .statusProgramCounters fun t o => State.finishStatus o (t.statusCounters o))

/-- START (R40, R41). -/
def execStart (s : State) : Host.Outcome State Fault Refusal :=
  .next (s.orderCommand .start fun t o => State.finish o (t.orderStart o))

/-- PARK (R49). -/
def execPark (s : State) : Host.Outcome State Fault Refusal :=
  .next (s.orderCommand .park fun t o => t.orderPark o)

/-- DELAY (R75). -/
def execDelay (s : State) : Host.Outcome State Fault Refusal :=
  .next (s.orderCommand .delay fun t o => State.finish o (t.orderDelay o))

/-- CHANGEOVER (R169, R156). -/
def execChangeover (s : State) : Host.Outcome State Fault Refusal :=
  .next (s.orderCommand .changeover fun t o => State.finish o (t.orderChangeover o))

/-- ACKNOWLEDGE (R137). -/
def execAcknowledge (s : State) : Host.Outcome State Fault Refusal :=
  .next (s.orderCommand .acknowledge fun t o => State.finish o (t.orderAcknowledge o))

/-- CUE (R115). -/
def execCue (s : State) : Host.Outcome State Fault Refusal :=
  .next (s.orderCommand .cue fun t o => State.finish o (t.orderCue o))

/-- RESET: recorded as pending; the unit enters RESET_PENDING (R175). -/
def execReset (s : State) : Host.Outcome State Fault Refusal :=
  .next (s.orderCommand .reset fun t o => t.recordOwing o .resetPending)

end Sys2Proof.Machine
end

