-- ==== Sys2Proof/Machine/ProgramCommands.lean ====
section
/-! DEFINITION. The commands by which lanes and programs move of themselves (Chapters 2, 3, 5 and 9). -/

namespace Sys2Proof.Machine

/-- LANE_STALLED: a RECEIVING lane's idle time reaches 2 (R20). -/
def execLaneStalled (l : Fin 32) (s : State) : Host.Outcome State Fault Refusal :=
  .next (s.ownCommand (s.stallDue l) fun t => t.stallLane l)

/-- LANE_LOST: a lane's idle time reaches its lost time, and a leader's program is told (R20, R22). -/
def execLaneLost (l : Fin 32) (s : State) : Host.Outcome State Fault Refusal :=
  .next (s.ownCommand (s.lostDue l) fun t => t.loseLane l)

/-- PICTURE_TIMEOUT: the picture idle time reaches the timeout (R88). -/
def execPictureTimeout (p : Fin 16) (s : State) : Host.Outcome State Fault Refusal :=
  .next (s.ownCommand (s.pictureDue p) fun t => t.picturePresent p)

/-- FILL_REACHED: in PRIMING W − P reaches F*, P is set and WARMING entered (R42, R43). -/
def execFillReached (p : Fin 16) (s : State) : Host.Outcome State Fault Refusal :=
  .next (s.ownCommand (s.fillReachedDue p) fun t => t.enterWarming p)

/-- WARM_UP_END: the warm-up has counted down; RUNNING (R43). -/
def execWarmUpEnd (p : Fin 16) (s : State) : Host.Outcome State Fault Refusal :=
  .next (s.ownCommand (s.warmUpEndDue p) fun t => t.endWarmUp p)

/-- RESYNC_FLUSH: k is 0 in RESYNCING; the six parts of the flush (R48). -/
def execResyncFlush (p : Fin 16) (s : State) : Host.Outcome State Fault Refusal :=
  .next (s.ownCommand (s.flushDue p) fun t => t.resyncFlush p)

/-- PARKING_END: k is 0 in PARKING; the program is PARKED and the PARK answered (R49). -/
def execParkingEnd (p : Fin 16) (s : State) : Host.Outcome State Fault Refusal :=
  .next (s.ownCommand (s.parkingDue p) fun t => t.endParking p)

/-- JUMP_FADE_OUT_END: k is 0 in a jump's FADE_OUT; P moves, or the jump holds (R82, R83). -/
def execJumpFadeOutEnd (p : Fin 16) (s : State) : Host.Outcome State Fault Refusal :=
  .next (s.ownCommand (s.fadeOutDue p) fun t => t.fadeOutEnd p)

/-- JUMP_RELEASE: in HOLD W − P reaches F*; P is set and the jump ends (R84). -/
def execJumpRelease (p : Fin 16) (s : State) : Host.Outcome State Fault Refusal :=
  .next (s.ownCommand (s.releaseDue p) fun t => t.jumpRelease p)

/-- AUTO_REVERT: the revert count reaches the revert time; PRIMARY (R156). -/
def execAutoRevert (p : Fin 16) (s : State) : Host.Outcome State Fault Refusal :=
  .next (s.ownCommand (s.revertDue p) fun t => t.revertNow p)

end Sys2Proof.Machine
end

