-- ==== Sys2Proof/Machine/TrunkCommands.lean ====
section
/-! DEFINITION. The commands of the trunk (Chapter 1): line fault, sync positions, and the slots of a taken frame. -/

namespace Sys2Proof.Machine

/-- LINE_FAULT: loss of signal or 32 damaged bytes in a row; HUNT, one lock loss if LOCKED, the rest of the
frame discarded (R1). -/
def execLineFault (s : State) : Host.Outcome State Fault Refusal :=
  .next (s.outside fun t => { t with rx := t.rx.fault })

/-- SYNC_FOUND: a sync pattern found in HUNT at a byte position of the stream; with an undamaged number the
receiver enters CHECK (R3). -/
def execSyncFound (position : Nat) (head : FrameHead) (s : State) : Host.Outcome State Fault Refusal :=
  .next (s.outside fun t => { t with rx := t.rx.found position head })

/-- CHECK_SYNC: the expected sync position examined in CHECK (R4). -/
def execCheckSync (head : FrameHead) (s : State) : Host.Outcome State Fault Refusal :=
  .next (s.outside fun t => { t with rx := t.rx.check head })

/-- RECEIVER_LOCKED: the third good sync; LOCKED with a miss count of 0, the frame taken (R4). -/
def execReceiverLocked (s : State) : Host.Outcome State Fault Refusal :=
  .next (s.ownCommand s.rx.lockDue State.lockReceiver)

/-- LOCKED_SYNC: the expected sync position examined in LOCKED (R5). -/
def execLockedSync (head : FrameHead) (s : State) : Host.Outcome State Fault Refusal :=
  .next (s.outside fun t => { t with rx := t.rx.examine head })

/-- REJECTED_SLOT: a slot that fails its check, has an unknown kind or a bad count raises its counter (R10). -/
def execRejectedSlot (slot : Slot) (s : State) : Host.Outcome State Fault Refusal :=
  s.slotCommand slot .rejected fun t => t.rejectSlot (slotContent slot)

/-- AUDIO_PARCEL: an AUDIO parcel for a lane that is not PARKED, by the first arrival case that applies (R23). -/
def execAudioParcel (slot : Slot) (s : State) : Host.Outcome State Fault Refusal :=
  s.slotCommand slot .audio fun t => t.deliverAudio (slotContent slot)

/-- CUE_PARCEL: a CUE parcel for a lane that is not PARKED, offered and listed from the leader's lane, consumed
from a follower's (R115). -/
def execCueParcel (slot : Slot) (s : State) : Host.Outcome State Fault Refusal :=
  s.slotCommand slot .cue fun t => t.deliverCue (slotContent slot)

/-- PICTURE_REPORT: a report to every program that is not PARKED and names its source (R87). -/
def execPictureReport (slot : Slot) (s : State) : Host.Outcome State Fault Refusal :=
  s.slotCommand slot .picture fun t => t.deliverPicture (slotContent slot)

/-- ORDER_PARCEL: an ORDER for the own node joins the intake or is dropped (R165). -/
def execOrderParcel (slot : Slot) (s : State) : Host.Outcome State Fault Refusal :=
  s.slotCommand slot .order fun t => t.deliverOrder (slotContent slot)

/-- PASSTHROUGH_PARCEL: any other accepted parcel joins the passthrough queue or is shed (R162). -/
def execPassthroughParcel (slot : Slot) (s : State) : Host.Outcome State Fault Refusal :=
  s.slotCommand slot .passthrough fun t => t.deliverPassthrough slot

end Sys2Proof.Machine
end

