-- ==== Sys2Proof/Machine/Dispatch.lean ====
section
/-! DEFINITION. The one dispatch from a command to its meaning. -/

namespace Sys2Proof.Machine

/-- The effect of a command on everything but the queue of commands. -/
def exec (i : Instr) (s : State) : Host.Outcome State Fault Refusal :=
  match i with
  | .powerOn => Sys2Proof.Machine.execPowerOn s
  | .powerOnResetEnd straps => Sys2Proof.Machine.execPowerOnResetEnd straps s
  | .resetLineLow => Sys2Proof.Machine.execResetLineLow s
  | .resetLineHigh straps => Sys2Proof.Machine.execResetLineHigh straps s
  | .lineFault => Sys2Proof.Machine.execLineFault s
  | .syncFound position head => Sys2Proof.Machine.execSyncFound position head s
  | .checkSync head => Sys2Proof.Machine.execCheckSync head s
  | .receiverLocked => Sys2Proof.Machine.execReceiverLocked s
  | .lockedSync head => Sys2Proof.Machine.execLockedSync head s
  | .rejectedSlot slot => Sys2Proof.Machine.execRejectedSlot slot s
  | .audioParcel slot => Sys2Proof.Machine.execAudioParcel slot s
  | .cueParcel slot => Sys2Proof.Machine.execCueParcel slot s
  | .pictureReport slot => Sys2Proof.Machine.execPictureReport slot s
  | .orderParcel slot => Sys2Proof.Machine.execOrderParcel slot s
  | .passthroughParcel slot => Sys2Proof.Machine.execPassthroughParcel slot s
  | .referenceCycle good => Sys2Proof.Machine.execReferenceCycle good s
  | .referenceLock => Sys2Proof.Machine.execReferenceLock s
  | .houseSample => Sys2Proof.Machine.execHouseSample s
  | .fillReached p => Sys2Proof.Machine.execFillReached p s
  | .warmUpEnd p => Sys2Proof.Machine.execWarmUpEnd p s
  | .resyncFlush p => Sys2Proof.Machine.execResyncFlush p s
  | .parkingEnd p => Sys2Proof.Machine.execParkingEnd p s
  | .jumpFadeOutEnd p => Sys2Proof.Machine.execJumpFadeOutEnd p s
  | .jumpRelease p => Sys2Proof.Machine.execJumpRelease p s
  | .egressWarmUpEnd => Sys2Proof.Machine.execEgressWarmUpEnd s
  | .autoStart => Sys2Proof.Machine.execAutoStart s
  | .resetOrderDone => Sys2Proof.Machine.execResetOrderDone s
  | .alarmTick => Sys2Proof.Machine.execAlarmTick s
  | .laneStalled l => Sys2Proof.Machine.execLaneStalled l s
  | .laneLost l => Sys2Proof.Machine.execLaneLost l s
  | .pictureTimeout p => Sys2Proof.Machine.execPictureTimeout p s
  | .recordRaised r => Sys2Proof.Machine.execRecordRaised r s
  | .countWindowEnd r => Sys2Proof.Machine.execCountWindowEnd r s
  | .releaseEnd r => Sys2Proof.Machine.execReleaseEnd r s
  | .autoRevert p => Sys2Proof.Machine.execAutoRevert p s
  | .egressFrameStart => Sys2Proof.Machine.execEgressFrameStart s
  | .resetBegin straps => Sys2Proof.Machine.execResetBegin straps s
  | .unknownOrder => Sys2Proof.Machine.execUnknownOrder s
  | .writeLane => Sys2Proof.Machine.execWriteLane s
  | .writeProgram => Sys2Proof.Machine.execWriteProgram s
  | .writeProfile => Sys2Proof.Machine.execWriteProfile s
  | .writeWeighting => Sys2Proof.Machine.execWriteWeighting s
  | .writeCoefficients => Sys2Proof.Machine.execWriteCoefficients s
  | .writeBandSet => Sys2Proof.Machine.execWriteBandSet s
  | .writeRule => Sys2Proof.Machine.execWriteRule s
  | .writeEgressMap => Sys2Proof.Machine.execWriteEgressMap s
  | .writeSettings => Sys2Proof.Machine.execWriteSettings s
  | .readLane => Sys2Proof.Machine.execReadLane s
  | .readProgram => Sys2Proof.Machine.execReadProgram s
  | .readProfile => Sys2Proof.Machine.execReadProfile s
  | .readWeighting => Sys2Proof.Machine.execReadWeighting s
  | .readCoefficients => Sys2Proof.Machine.execReadCoefficients s
  | .readBandSet => Sys2Proof.Machine.execReadBandSet s
  | .readRule => Sys2Proof.Machine.execReadRule s
  | .readEgressMap => Sys2Proof.Machine.execReadEgressMap s
  | .readSettings => Sys2Proof.Machine.execReadSettings s
  | .statusPart => Sys2Proof.Machine.execStatusPart s
  | .statusLane => Sys2Proof.Machine.execStatusLane s
  | .statusRule => Sys2Proof.Machine.execStatusRule s
  | .statusProgramPlay => Sys2Proof.Machine.execStatusProgramPlay s
  | .statusProgramServo => Sys2Proof.Machine.execStatusProgramServo s
  | .statusProgramMeter => Sys2Proof.Machine.execStatusProgramMeter s
  | .statusProgramGain => Sys2Proof.Machine.execStatusProgramGain s
  | .statusProgramChangeover => Sys2Proof.Machine.execStatusProgramChangeover s
  | .statusProgramCounters => Sys2Proof.Machine.execStatusProgramCounters s
  | .start => Sys2Proof.Machine.execStart s
  | .park => Sys2Proof.Machine.execPark s
  | .delay => Sys2Proof.Machine.execDelay s
  | .changeover => Sys2Proof.Machine.execChangeover s
  | .acknowledge => Sys2Proof.Machine.execAcknowledge s
  | .cue => Sys2Proof.Machine.execCue s
  | .reset => Sys2Proof.Machine.execReset s

end Sys2Proof.Machine
end

