-- ==== Sys2Proof/WellFormed.lean ====
section
/-! DEFINITION. Which commands can stand on the line at all: a slot has 84 characters (R2, R7). Every
other operand's type already holds exactly the values the hardware can present. -/

namespace Sys2Proof

/-- A slot is 84 characters: header 10, payload 72, check 2 (R2, R7). -/
def Slot.wf (slot : Slot) : Bool := slot.length == 84

/-- The command is one the hardware can be given. -/
def Instr.wf : Instr → Bool
  | .rejectedSlot slot => Slot.wf slot
  | .audioParcel slot => Slot.wf slot
  | .cueParcel slot => Slot.wf slot
  | .pictureReport slot => Slot.wf slot
  | .orderParcel slot => Slot.wf slot
  | .passthroughParcel slot => Slot.wf slot
  | _ => true

end Sys2Proof
end

