-- ==== Sys2Proof/Safety.lean ====
section
/-! DEFINITION. What the statements speak of: when a command acts on the state as it stands, the invariants
that every step keeps, and a safe run. -/

namespace Sys2Proof.Machine

/-! ## When a command acts -/

/-- Out of reset with nothing due at once: what comes from outside acts on the part as it stands. -/
def State.atRest (s : State) : Prop := s.running = true ∧ s.quiet = true

/-- A slot of a taken frame is next, with nothing due at once before it (R2). -/
def State.slotNext (s : State) : Prop := s.atRest ∧ s.takesSlot = true

/-- The Order Unit takes this order now, with no step of the part's own due before it and no place that a departed
notice has left to an owed rule (R144, R166). -/
def State.takesNow (s : State) (o : Order) : Prop := s.calm = true ∧ s.nextOrder = some o

/-- The power-on reset ends, leaving this state (R180). -/
def EndsPower (s t : State) : Prop :=
  s.powerReset = true ∧ ∃ straps, exec (.powerOnResetEnd straps) s = .next t

/-- A reset by the reset line ends, leaving this state (R180). -/
def EndsLine (s t : State) : Prop :=
  s.resetLow = true ∧ s.powerReset = false ∧ ∃ straps, exec (.resetLineHigh straps) s = .next t

/-- The reset of a RESET order begins and ends, leaving this state (R175). -/
def EndsOrder (s t : State) : Prop :=
  s.running = true ∧ s.resetDue = true ∧ ∃ straps, exec (.resetBegin straps) s = .next t

/-! ## What a slot can bring (R13) -/

/-- The parcel is accepted: it passes its check and is not rejected, and the slot is not free (R9, R10). -/
def SlotContent.accepted : SlotContent → Bool
  | .badCheck | .free | .unknownKind | .badCount => false
  | _ => true

/-- The origin node and lane tag are the key of this lane, which is defined and not PARKED (R13). -/
def State.hears (s : State) (node tag : Byte) (l : Fin 32) : Prop :=
  (s.laneEntry l).defined = true ∧ (s.laneEntry l).origin = node ∧ (s.laneEntry l).tag = tag ∧
    (s.lane l).status ≠ .parked

/-- The origin node and lane tag are the key of a defined lane that is not PARKED (R13). -/
def State.keyHeard (s : State) (node tag : Byte) : Prop := ∃ l, s.hears node tag l

/-- The origin node and lane tag are the picture source of a program that is not PARKED (R13). -/
def State.sourceHeard (s : State) (node tag : Byte) : Prop :=
  ∃ p, s.active p = true ∧ (s.entry p).picture = some (node, tag)

/-- The part does not consume what the slot holds: in strap fault any accepted parcel, otherwise by the
table of R13 (R12, R13). -/
def State.passes (s : State) (c : SlotContent) : Prop :=
  c.accepted = true ∧
    (s.strapFault = true ∨
      match c with
      | .audio node tag _ _ _ _ _ => ¬ s.keyHeard node tag
      | .cue node tag _ _ _ => ¬ s.keyHeard node tag
      | .picture node tag _ _ => ¬ s.sourceHeard node tag
      | .order node _ => node ≠ s.nodeByte
      | .otherControl => True
      | _ => False)

/-! ## Invariants -/

/-- The delay memory is in its canonical form (R17, R18). -/
def State.memOk (s : State) : Prop := s.mem.wf = true

/-- Every queue and list holds at most its number of entries (R101, R113, R118, R143, R162, R165, R168). -/
def State.queuesOk (s : State) : Prop :=
  s.orders.intake.length ≤ 4 ∧ s.alarm.notices.length ≤ 16 ∧ s.egress.outbox.length ≤ 8 ∧
    s.egress.passthrough.length ≤ 96 ∧
    ∀ p, (s.program p).gain.schedule.length ≤ 128 ∧ (s.program p).meter.cues.length ≤ 16 ∧
      (s.program p).meter.history.length ≤ 30

/-- A rule is marked queued exactly when it has a notice in the queue, never more than one, and is then not owed
(R143); and an owed rule finds the queue full, but from a frame start taken ahead of the tick it falls together with
until the places its notices left are taken, before the next house sample (R144; the model's reading, log entry 10). -/
def State.noticesOk (s : State) : Prop :=
  (∀ r, (s.alarm.notices.filter fun n => n.isOf r).length = (s.record r).queued.toNat ∧
      ((s.record r).queued = true → (s.record r).owed = false)) ∧
    ∀ r, (s.record r).owed = true → 16 ≤ s.alarm.notices.length ∨
      (s.house.warmedUp = true ∧ s.house.toFrame = 12)

/-- The reply queue keeps its 8 places, one of them free for a pending PARK, and is empty after the reset
of a pending RESET, which alone has had its reset made (10.1, R166, R175). -/
def State.repliesOk (s : State) : Prop :=
  s.orders.replies.length ≤ 8 ∧ (s.orders.unit = .parkPending → s.orders.replies.length ≤ 7) ∧
    (s.orders.resetDone = true → s.orders.unit = .resetPending ∧ s.orders.replies = [])

/-- Every parcel of the passthrough queue has its 84 bytes (R2, R162). -/
def State.parcelsOk (s : State) : Prop := ∀ b ∈ s.egress.passthrough, b.length = 84

/-- Fade, crossfade and ramp positions lie in their ranges (Chapter 3, 9.3, R119). -/
def State.positionsOk (s : State) : Prop :=
  (∀ p, (s.program p).play.fade ≤ 480 ∧ (s.program p).gain.rampStep ≤ 480) ∧
    ∀ e, (s.egressLane e).x ≤ 960

/-- The trim of every program lies within ±8,389 (R56). -/
def State.trimsOk (s : State) : Prop := ∀ p, (s.program p).conv.trim.natAbs ≤ 8389

/-- Every counter is at most 65,535 (R5, R10, R20, R36, R47, R70, R88, R101, R123, R134, R162, R165). -/
def State.countersOk (s : State) : Prop :=
  s.rx.checkFails ≤ 65535 ∧ s.rx.unknownKinds ≤ 65535 ∧ s.rx.countErrors ≤ 65535 ∧
    s.rx.lockLosses ≤ 65535 ∧ s.egress.shed ≤ 65535 ∧ s.orders.drops ≤ 65535 ∧
    (∀ l, (s.lane l).idle ≤ 65535 ∧ (s.lane l).concealed ≤ 65535 ∧ (s.lane l).late ≤ 65535 ∧
      (s.lane l).dropped ≤ 65535) ∧
    (∀ p, (s.program p).play.resyncs ≤ 65535 ∧ (s.program p).conv.starved ≤ 65535 ∧
      (s.program p).conv.clips ≤ 65535 ∧ (s.program p).servo.pictureIdle ≤ 65535 ∧
      (s.program p).meter.cueOverflows ≤ 65535 ∧ (s.program p).gain.coalesces ≤ 65535 ∧
      (s.program p).gain.gainDrops ≤ 65535 ∧ (s.program p).gain.cueDrops ≤ 65535 ∧
      (s.program p).gain.forwardDrops ≤ 65535 ∧ (s.program p).gain.clips ≤ 65535) ∧
    ∀ r, (s.record r).raises ≤ 65535

/-- Every lane entry's region lies within the memory and is one of the eight sizes, every defined entry has
an origin node from 1 to 63, and no two defined entries share a key (R13, R15, R16). -/
def State.lanesOk (s : State) : Prop :=
  (∀ l, (s.laneEntry l).sizePages ∈ regionSizes ∧
      (s.laneEntry l).startPage + (s.laneEntry l).sizePages ≤ 4096) ∧
    (∀ l, (s.laneEntry l).defined = true →
      1 ≤ (s.laneEntry l).origin.toNat ∧ (s.laneEntry l).origin.toNat ≤ 63) ∧
    ∀ l k, l ≠ k → (s.laneEntry l).defined = true → (s.laneEntry k).defined = true →
      (s.laneEntry l).origin = (s.laneEntry k).origin → (s.laneEntry l).tag ≠ (s.laneEntry k).tag

/-- No two enabled egress lanes share a slot, in the stored map and in the one that governs, and an entry
that is not waiting to govern governs as stored (R152). -/
def State.slotsOk (s : State) : Prop :=
  (∀ e k : Fin 32, e ≠ k → s.tables.map[e].enabled = true → s.tables.map[k].enabled = true →
      s.tables.map[e].slot ≠ s.tables.map[k].slot) ∧
    (∀ e k : Fin 32, e ≠ k → (s.mapEntry e).enabled = true → (s.mapEntry k).enabled = true →
      (s.mapEntry e).slot ≠ (s.mapEntry k).slot) ∧
    ∀ e : Fin 32, s.egress.pending[e] = none → s.mapEntry e = s.tables.map[e]

/-- A lane is a member of at most one defined program, a program that is not PARKED is defined, and a lane
is not PARKED exactly when it is a member of a defined program that is not PARKED (R19, R39, R40). -/
def State.startedOk (s : State) : Prop :=
  (∀ p q l, p ≠ q → (s.entry p).defined = true → (s.entry q).defined = true →
      l ∈ (s.entry p).members → l ∉ (s.entry q).members) ∧
    (∀ p, s.active p = true → (s.entry p).defined = true) ∧
    ∀ l, (s.lane l).status ≠ .parked ↔
      ∃ p, (s.entry p).defined = true ∧ l ∈ (s.entry p).members ∧ s.active p = true

/-- The regions of two lanes that are not PARKED share no page (R40). -/
def State.ringsApart (s : State) : Prop :=
  ∀ l k, l ≠ k → (s.lane l).status ≠ .parked → (s.lane k).status ≠ .parked →
    (s.laneEntry l).startPage + (s.laneEntry l).sizePages ≤ (s.laneEntry k).startPage ∨
    (s.laneEntry k).startPage + (s.laneEntry k).sizePages ≤ (s.laneEntry l).startPage

/-! ## Parcels for a lane (R13, R21) -/

/-- The slot next taken brings an AUDIO parcel for this lane (R13). -/
def State.audioNext (s : State) (slot : Slot) (l : Fin 32) (a : AudioIn) : Prop :=
  s.slotNext ∧ s.lanesOk ∧ s.strapFault = false ∧ slot.length = 84 ∧
    ∃ node tag, s.hears node tag l ∧
      slotContent slot = .audio node tag a.seq a.suspect a.discontinuity a.stamp a.samples

/-- The words of a parcel: each sample at its stamp, with the parcel's mark (R25). -/
def AudioIn.words (a : AudioIn) : List (Stamp × RingWord) :=
  a.samples.mapIdx fun i x => (a.stamp + BitVec.ofNat 32 i, ⟨x, a.suspect⟩)

/-- Every stamp of the parcel lies in the lane's acceptance window (R30). -/
def State.inside (s : State) (edge : Stamp) (l : Fin 32) (a : AudioIn) : Prop :=
  ∀ i < a.samples.length, inWindow edge (s.laneEntry l).ringSize (a.stamp + BitVec.ofNat 32 i) = true

/-- The parcel is a discontinuity for a lane whose horizon is `W` (R28). -/
def Lane.breaks (x : Lane) (W : Stamp) (a : AudioIn) : Prop :=
  a.discontinuity = true ∨ (ahead a.stamp W = true ∧ x.lastSeq = some (a.seq - 1))

/-- The memory holds these words of the lane at their stamps, and every other word as it stood (R17, R25). -/
def State.Wrote (s : State) (mem : DelayMem) (l : Fin 32) (words : List (Stamp × RingWord)) : Prop :=
  (∀ w ∈ words, mem.find ((s.laneEntry l).wordIndex w.1) = some w.2) ∧
    ∀ j, (∀ w ∈ words, j ≠ (s.laneEntry l).wordIndex w.1) → mem.find j = s.mem.find j

/-- The taint count of a lane once these words are written: one more for each word that becomes SUSPECT, one less
for each that ceases to be (R18). -/
def State.taintAfter (s : State) (l : Fin 32) (words : List (Stamp × RingWord)) : Nat :=
  words.foldl (fun n w =>
    let was := (s.mem.find ((s.laneEntry l).wordIndex w.1)).any (·.suspect)
    if w.2.suspect && !was then n + 1 else if was && !w.2.suspect then n - 1 else n) (s.lane l).taint

/-- The words that conceal a gap from `W` up to the parcel: those in the window, SUSPECT, under REPEAT with a gap of up
to 48 each with the sample one gap before it, and otherwise with 0 (R26). -/
def State.gapWords (s : State) (edge : Stamp) (l : Fin 32) (W : Stamp) (a : AudioIn) : List (Stamp × RingWord) :=
  let e := s.laneEntry l
  let gap := (stampDiff a.stamp W).toNat
  let filled := (List.range gap).filter fun i => inWindow edge e.ringSize (W + BitVec.ofNat 32 i)
  filled.map fun i => (W + BitVec.ofNat 32 i,
    ⟨if e.conceal = .repeatLast ∧ gap ≤ 48 then
        BitVec.ofInt 24 (s.readWord (some edge) l (W + BitVec.ofNat 32 i - BitVec.ofNat 32 gap)).1
      else 0, true⟩)

/-- Which samples of a late parcel replace a SUSPECT word: those behind `W` and ahead of floor(P) + 16, of a parcel
that is not flagged SUSPECT (R29). -/
def State.lateRepairs (s : State) (edge : Stamp) (l : Fin 32) (P : ReadPos) (W : Stamp) (a : AudioIn) : List Nat :=
  (List.range (min a.samples.length (W - a.stamp).toNat)).filter fun i => !a.suspect &&
    ahead (a.stamp + BitVec.ofNat 32 i) (P.stamp + 16) &&
    (s.readWord (some edge) l (a.stamp + BitVec.ofNat 32 i)).2 == .suspect

/-- The words a late parcel writes: those it repairs, and those from `W` on (R29). -/
def AudioIn.lateWords (a : AudioIn) (repairs : List Nat) (W : Stamp) : List (Stamp × RingWord) :=
  (a.words.zipIdx.filter fun w => w.2 ∈ repairs ∨ (W - a.stamp).toNat ≤ w.2).map (·.1)

/-- The part with a slot taken and with this memory, lane and impairment event (R2, R35). -/
def State.tookAudio (s : State) (l : Fin 32) (p : Fin 16) (mem : DelayMem) (lane : Lane) (arrival : Bool) :
    State :=
  { s with
    mem := mem
    rx := { s.rx with slotsLeft := s.rx.slotsLeft - 1, damaged := 0 }
    lanes := s.lanes.set l.val lane l.isLt
    programs := s.programs.set p.val
      { s.program p with events := { (s.program p).events with arrival := arrival } } p.isLt }

/-- The part as it stands once a lane whose program has a read position has taken an AUDIO parcel, by the case the
parcel falls under, before the meter follows. A first parcel and one in order: each sample is written to the word of
its stamp with the parcel's mark, W becomes s + c, the last sequence the parcel's, and a SUSPECT-flagged one is an
impairment event (R24, R25, R35). Out of the window: dropped and counted (R24, R31). A discontinuity: the ring flushed
and the parcel taken as the first (R28, R34). A gap: its words in the window written SUSPECT and counted, an impairment
event (R26, R35). Late: SUSPECT words repaired, the samples from W on written, and a parcel that does neither counted, an
impairment event (R29, R35). The taint count follows the words written (R18). -/
def State.TakesParcel (s : State) (l : Fin 32) (p : Fin 16) (edge : Stamp) (P : ReadPos) (a : AudioIn)
    (u : State) : Prop :=
  let x := { s.lane l with status := .receiving, idle := 0 }
  let e := s.laneEntry l
  let marks := (s.program p).events.arrival
  let marked := marks || a.suspect
  let taken := { x with horizon := some (a.stamp + BitVec.ofNat 32 a.samples.length), lastSeq := some a.seq }
  let wrote (words : List (Stamp × RingWord)) (lane : Lane) (arrival : Bool) : Prop :=
    ∃ mem, s.Wrote mem l words ∧ u = s.tookAudio l p mem { lane with taint := s.taintAfter l words } arrival
  ((x.horizon = none ∨ (x.horizon = some a.stamp ∧ a.discontinuity = false)) → s.inside edge l a →
    wrote a.words taken marked) ∧
  ((∀ W, x.horizon = some W → ¬ x.breaks W a) → ¬ s.inside edge l a →
    u = s.tookAudio l p s.mem { x with dropped := min (x.dropped + 1) 65535 } marks) ∧
  ∀ W, x.horizon = some W →
    (x.breaks W a → ∃ mem,
      (∀ j, e.inRegion j = false → mem.find j = s.mem.find j) ∧
      (s.inside edge l a →
        u = s.tookAudio l p mem { taken with taint := if a.suspect then a.samples.length else 0 } marked ∧
        (∀ w ∈ a.words, mem.find (e.wordIndex w.1) = some w.2) ∧
        ∀ j, e.inRegion j = true → (∀ w ∈ a.words, j ≠ e.wordIndex w.1) → mem.find j = none) ∧
      (¬ s.inside edge l a →
        u = s.tookAudio l p mem
          { x with taint := 0, horizon := none, lastSeq := none, dropped := min (x.dropped + 1) 65535 } marks ∧
        ∀ j, e.inRegion j = true → mem.find j = none)) ∧
    (ahead a.stamp W = true → ¬ x.breaks W a → s.inside edge l a →
      let gap := s.gapWords edge l W a
      wrote (gap ++ a.words) { taken with concealed := min (x.concealed + gap.length) 65535 } true) ∧
    (a.stamp ≠ W → ahead a.stamp W = false → a.discontinuity = false → s.inside edge l a →
      let repairs := s.lateRepairs edge l P W a
      let words := a.lateWords repairs W
      let short := (W - a.stamp).toNat
      (a.samples.length ≤ short → repairs ≠ [] → wrote words x marks) ∧
      (a.samples.length ≤ short → repairs = [] →
        u = s.tookAudio l p s.mem { x with late := min (x.late + 1) 65535 } true) ∧
      (short < a.samples.length → wrote words taken marked))

/-- The slot next taken brings a CUE parcel for this lane (R13). -/
def State.cueNext (s : State) (slot : Slot) (l : Fin 32) (stamp : Stamp) (kind : CueType)
    (mark : BitVec 16) : Prop :=
  s.slotNext ∧ s.lanesOk ∧ s.strapFault = false ∧ slot.length = 84 ∧
    ∃ node tag, s.hears node tag l ∧ slotContent slot = .cue node tag stamp kind mark

/-- The lane is a member of this defined program, and of no other (R39). -/
def State.memberOf (s : State) (l : Fin 32) (p : Fin 16) : Prop :=
  s.startedOk ∧ (s.entry p).defined = true ∧ l ∈ (s.entry p).members

/-! ## The schedule plays out (R117, R118) -/

/-- The stored CUE entries that a read position at this stamp reaches or passes, in list order (R117). -/
def State.dueCues (s : State) (p : Fin 16) (at_ : Stamp) : List (CueType × BitVec 16) :=
  (s.program p).gain.schedule.filterMap fun
    | .cue t kind mark => if ahead t at_ then none else some (kind, mark)
    | .gain _ _ => none

/-- These cues as parcels for the outbox, under the tag of the lowest enabled egress lane that takes the program's
member 0; none without such a lane (R118). -/
def State.cuesOut (s : State) (p : Fin 16) (at_ stamp : Stamp) : List CueOut :=
  match s.cueTag p with
  | some tag => (s.dueCues p at_).map fun c => ⟨tag, stamp, c.1, c.2, p⟩
  | none => []

/-- The gain block once a read position at this stamp has played the schedule out with so many cues dropped: the entries
it reaches or passes have left, and the last GAIN among them is applied, its ramp begun where the linear gain stands
(R117, R118, R119). -/
def Gain.playedOut (g : Gain) (at_ : Stamp) (dropped : Nat) : Gain :=
  let h := { g with
    schedule := g.schedule.filter fun y => ahead y.stamp at_
    forwardDrops := if dropped = 0 then g.forwardDrops else min (g.forwardDrops + dropped) 65535 }
  let values := g.schedule.filterMap fun
    | .gain t value => if ahead t at_ then none else some value
    | .cue _ _ _ => none
  match values.getLast? with
  | some value => { h with applied := value, rampStart := g.linear, rampEnd := linearGain value, rampStep := 0 }
  | none => h

/-- The retired edge with the read position here (R30). -/
def State.edgeAt (s : State) (p : Fin 16) (Q : ReadPos) : Stamp :=
  match (s.program p).meter.pos with
  | some M => earlier (Q.stamp - 15) M
  | none => Q.stamp - 15

/-- The word at this memory index is one that a move of the retired edge leaves behind in a member's ring (R33). -/
def State.leftBehind (s : State) (p : Fin 16) (old new : Stamp) (j : Nat) : Prop :=
  ∃ l ∈ (s.entry p).members, ∃ d < (s.laneEntry l).ringSize, (d : Int) < stampDiff new old ∧
    j = (s.laneEntry l).wordIndex (old + BitVec.ofNat 32 d)

/-- The part once a program's read position has been set to this stamp with fraction 0, before anything is handed on: the
hold flag is clear, the schedule has played out to it, its cues stand in the outbox while it has room, and what the
retired edge leaves behind is EMPTY and out of the taint counts (R30, R33, R58, R60, R117, R118). -/
def State.MovesTo (s : State) (p : Fin 16) (at_ : Stamp) (u : State) : Prop :=
  let x := s.program p
  let placed := (s.cuesOut p at_ s.house.stamp).take (8 - s.egress.outbox.length)
  u = { s.setProgram p { x with
          conv := { x.conv with pos := some ⟨at_, 0⟩, hold := false }
          gain := x.gain.playedOut at_ ((s.dueCues p at_).length - placed.length) } with
        mem := u.mem, lanes := u.lanes, egress := { s.egress with outbox := s.egress.outbox ++ placed } } ∧
  (∀ l, u.lane l = { s.lane l with taint := (u.lane l).taint }) ∧
  (∀ l, l ∉ (s.entry p).members → u.lane l = s.lane l) ∧
  ∀ old, s.edge p = some old →
    let new := s.edgeAt p ⟨at_, 0⟩
    (s.lanesOk → ∀ j, (s.leftBehind p old new j → u.mem.find j = none) ∧
      (¬ s.leftBehind p old new j → u.mem.find j = s.mem.find j)) ∧
    (s.lanesOk → s.startedOk → s.ringsApart → ∀ l ∈ (s.entry p).members,
      (u.lane l).taint = ((s.retireLane l old new).lane l).taint)

/-- These parcels have been placed behind the outbox of a part while it has room, and the others are forward drops of
their programs (R118). -/
def State.PlacesBehind (s : State) (cues : List CueOut) (u : State) : Prop :=
  let placed := cues.take (8 - s.egress.outbox.length)
  let lost := cues.drop placed.length
  u = { s with programs := u.programs, egress := { s.egress with outbox := s.egress.outbox ++ placed } } ∧
  ∀ q, u.program q =
    let n := lost.countP fun c => c.program == q
    if n = 0 then s.program q
    else { s.program q with gain := { (s.program q).gain with
      forwardDrops := min ((s.program q).gain.forwardDrops + n) 65535 } }

/-! ## One house sample (R43, R50, R51, R57 to R61, R119, R120, R153) -/

/-- Where this house sample's advance takes the read position; none where it stands. P free-runs in HOLDOVER, RESYNCING
and PARKING, and in WARMING and RUNNING, but for a jump's HOLD, advances while floor(P + R) + 16 stays behind W (R59 to
R61); T and G are those that stood when the sample began (R57). -/
def State.nextPos (s : State) (p : Fin 16) : Option ReadPos :=
  let x := s.program p
  let trim := match x.conv.fixed with
    | some f => f.1
    | none => x.conv.trim
  let glide := match x.conv.fixed with
    | some f => f.2
    | none => x.conv.glide
  let locked := (s.entry p).houseLocked
  x.conv.pos.bind fun P =>
    let free := P.advance (if locked then 16777216 else s.nominal p + trim)
    let held := P.advance (if locked then 16777216 else s.nominal p + trim + glide)
    let fed := (s.leaderHorizon p).any fun W => behind (held.stamp + 16) W
    match x.play.state with
    | .holdover | .resyncing | .parking => some free
    | .warming => if fed then some held else none
    | .running => if x.servo.phase ≠ some .hold ∧ fed then some held else none
    | .parked | .priming => none

/-- The fade position after this house sample's step (R50). -/
def Program.nextFade (x : Program) : Nat :=
  match x.play.target with
  | .opened => if x.play.fade < 480 then x.play.fade + 1 else x.play.fade
  | .silent => x.play.fade - 1

/-- The program makes outputs: it has a read position, in WARMING, RUNNING, HOLDOVER, RESYNCING or PARKING (R59). -/
def Program.sounds (x : Program) : Bool :=
  x.conv.pos.isSome && x.play.state != .parked && x.play.state != .priming

/-- The gain block after this house sample's ramp step, made while the program sounds (R119). -/
def Program.nextGain (x : Program) : Gain :=
  let g := x.gain
  if x.sounds ∧ g.rampStep < 480 then
    { g with
      rampStep := g.rampStep + 1
      linear := g.rampStart + ((g.rampEnd - g.rampStart) * (g.rampStep + 1 : Nat)).tdiv 480 }
  else g

/-- What the converter makes of each member of a program that sounds (R59, R63 to R66). -/
def State.voices (s : State) (p : Fin 16) : List MemberOut :=
  match (s.program p).conv.pos with
  | some P => if (s.program p).sounds then (s.entry p).members.map fun l => s.convert p (s.edge p) P l else []
  | none => []

/-- An output under the program's gain, before saturation (R120). -/
def State.gained (s : State) (p : Fin 16) (o : MemberOut) : Int :=
  (o.value * (s.program p).nextGain.linear + 524288) / 1048576

/-- The faded sample of a member with its mark; 0 and SOUND for a member the program does not have and for a program
that makes no outputs (R51, R120, R153). -/
def State.voice (s : State) (p : Fin 16) (member : Nat) : Int × Bool :=
  match (s.voices p)[member]? with
  | some o =>
    let y := s.gained p o
    let v := max (-8388608) (min y 8388607)
    ((v * (s.program p).nextFade).tdiv 480, o.suspect || y != v)
  | none => (0, false)

/-- The cues that this house sample's advance puts into effect, as parcels stamped with the next house sample (R118). -/
def State.sampleCues (s : State) (p : Fin 16) : List CueOut :=
  match s.nextPos p with
  | some Q => s.cuesOut p Q.stamp (s.house.stamp + 1)
  | none => []

/-- How many of a program's cues find no lane or no place in the outbox: the programs before it take places first
(R118). -/
def State.sampleDrops (s : State) (p : Fin 16) : Nat :=
  let room := 8 - s.egress.outbox.length - (((List.finRange 16).filter (· < p)).flatMap s.sampleCues).length
  match s.nextPos p with
  | some Q => (s.dueCues p Q.stamp).length - min (s.sampleCues p).length room
  | none => 0

/-! ## Hold counts (R139) -/

/-- The four actions. -/
inductive ActionName where
  | mute | freeze | holdDelay | changeover
deriving DecidableEq, Repr

/-- The rule names the action. -/
def Actions.has (a : Actions) : ActionName → Bool
  | .mute => a.mute
  | .freeze => a.freeze
  | .holdDelay => a.holdDelay
  | .changeover => a.changeover

/-- The hold count of an action. -/
def Holds.count (h : Holds) : ActionName → Nat
  | .mute => h.mute
  | .freeze => h.freeze
  | .holdDelay => h.holdDelay
  | .changeover => h.changeover

/-- A rule holds an action on a program: enabled, scoped to it, naming the action, its record RAISED or
RELEASING (R139). -/
def State.holdsOn (s : State) (p : Fin 16) (a : ActionName) (r : Fin 64) : Bool :=
  (s.rule r).enabled && (s.rule r).scope == some p && (s.rule r).actions.has a &&
    (s.record r).state.holding

/-- Every hold count equals the number of rules that hold the action (R139); a disabled rule's record is
CLEAR (R130); a move that is due is one its record's state allows (R131 to R136). -/
def State.holdsOk (s : State) : Prop :=
  (∀ p a, (s.program p).holds.count a = ((List.finRange 64).filter (s.holdsOn p a)).length) ∧
    (∀ r, (s.rule r).enabled = false → (s.record r).state = .clear ∧ (s.record r).due = none) ∧
    ∀ r, match (s.record r).due with
      | none => True
      | some .raise => (s.record r).state = .qualifying ∨ (s.record r).state = .releasing ∨
          (s.record r).state = .ackWait
      | some .windowEnd => (s.record r).state = .qualifying
      | some .release => (s.record r).state = .releasing

/-! ## Notices (R142, R143) -/

/-- What a notice-making change of a rule's record does to its changes count, its marks and the notice queue,
between the state before it and the state after it; a rule already owed stays owed and waits for its turn, whatever
places there are (R142 to R144). -/
def NoticeMade (s t : State) (r : Fin 64) (cause : Cause) (flagged : Bool) : Prop :=
  let x := s.record r
  let y := t.record r
  y.last = some cause ∧ y.lastStamp = s.house.stamp ∧
    (flagged = false ∨ s.tables.settings.node = 0 → y.changes = x.changes ∧ y.queued = x.queued ∧
      y.owed = x.owed ∧ t.alarm.notices = s.alarm.notices) ∧
    (flagged = true → s.tables.settings.node ≠ 0 → y.changes = min (x.changes + 1) 255 ∧
      (x.queued = true → y.queued = true ∧ y.owed = x.owed ∧
        t.alarm.notices = s.alarm.notices.map fun n => if n.isOf r then t.noticeOf r else n) ∧
      (x.queued = false → x.owed = false → s.alarm.notices.length < 16 → y.queued = true ∧ y.owed = false ∧
        t.alarm.notices = s.alarm.notices ++ [t.noticeOf r]) ∧
      (x.queued = false → x.owed = true ∨ 16 ≤ s.alarm.notices.length → y.queued = false ∧ y.owed = true ∧
        t.alarm.notices = s.alarm.notices))

/-- Nothing of the part but its records, its notice queue, its hold counts and what these hand on differs
between two states, and of the records only this rule's. -/
def OnlyRecordMoves (s t : State) (r : Fin 64) : Prop :=
  t = { s with programs := t.programs, alarm := t.alarm } ∧
    (∀ k, k ≠ r → t.record k = s.record k) ∧ t.alarm.shedSeen = s.alarm.shedSeen ∧
    ∀ p, t.program p = { s.program p with
      play := { (s.program p).play with target := (t.program p).play.target }
      change := (t.program p).change, holds := (t.program p).holds }

/-! ## What the part derives -/

/-- Both alarm lines are as the records, strap fault and a reset in progress call for (R12, R141, R180). -/
def State.linesOk (s : State) : Prop :=
  s.alarm.majorLine = s.lineActive .major ∧ s.alarm.minorLine = s.lineActive .minor

/-- Every program's fade target is what its play state, warm-up, MUTE and jump call for (R50). -/
def State.fadesOk (s : State) : Prop :=
  ∀ p, (s.program p).play.target = (s.program p).fadeTarget

/-! ## Safe runs -/

/-- A run of `k` steps from a state ends in a next state: no fault and no refusal on the way. -/
def SafeRun (k : Nat) (s : State) : Prop := ∃ t, Host.Core.run Sys2Proof.core k s = .next t

end Sys2Proof.Machine
end

