-- ==== Sys2Proof/Certificates/Slice0/Obligations.lean ====
section
/-! DEFINITION. The statements about the UZL-2406 for the provers, from the numbered rules of the manual.
OBLIGATIONS.json lists them with the rules they rest on. -/

section

open Sys2Proof Sys2Proof.Machine

/-! ## The queue of commands -/

/-- A step takes the command at the front of the queue and runs it on the part with the queue's rest; with no
command waiting it leaves the part as it stands (the latter is the model's choice, log entry 3). -/
def Obligations.FrontCommandRuns : Prop :=
  (∀ (s : State) (c : Instr) (rest : List Instr),
    step { s with pending := c :: rest } = exec c { s with pending := rest }) ∧
  ∀ s : State, s.pending = [] → step s = .next s

/-- Every command the line or the pins can give leads to a next state, whose queue of commands is as before
whatever the command brings about; a slot that has not its 84 characters (R2) is the one thing that stops the
model. -/
def Obligations.CommandsCompleteAndLeaveQueue : Prop :=
  ∀ (c : Instr) (s : State),
    (c.wf = true → ∃ t, exec c s = .next t ∧ t.pending = s.pending) ∧
    (c.wf = false → exec c s = .fault .malformedSlot)

/-! ## Resets (R11, R37, R53, R124, R148, R175, R180) -/

/-- POWER_ON and RESET_LINE_LOW hold the part in reset: both lines released, no frame sent, no slot taken,
and nothing else changed; and from then until the reset ends every command but the four of the resets
themselves leaves the part as it stands (R14, R127, R141, R180). That nothing due is taken first, that other
commands change nothing, and that the receiver's fields of HUNT read 0 are the model's choices (log entries 24,
2 and 20). -/
def Obligations.ResetsHoldThePart : Prop :=
  (∀ s : State,
    let held := { s with
      rx := { s.rx with
        framing := .hunt, goodSyncs := 0, expectedPos := 0, expectedNum := 0, misses := 0, slotsLeft := 0
        damaged := 0, trunkSeen := true }
      alarm := { s.alarm with majorLine := false, minorLine := false }
      egress := { s.egress with sent := none } }
    exec .powerOn s = .next { held with powerReset := true } ∧
    (s.resetLow = false → exec .resetLineLow s = .next { held with resetLow := true })) ∧
  ∀ (c : Instr) (s : State), s.running = false → c.wf = true →
    c ≠ .powerOn → (∀ straps, c ≠ .powerOnResetEnd straps) → c ≠ .resetLineLow →
    (∀ straps, c ≠ .resetLineHigh straps) → exec c s = .next s

/-- What the power-on reset leaves, whether RESET_N is high or still low: every table and every block at its
power-on values, the own node read from the straps, MAJOR active when they read 0 and no reset is in progress any
more (R11, R12, R15, R38, R53, R67, R71, R77, R90, R94, R109, R110, R124, R128, R148, R150, R152, R164, R171). The
programs, profiles and rules of the tables are spelt out in ProgramResetValues, GainResetValues and
AlarmResetValues. The receiver's fields outside LOCKED, the warm-up set, the segment boundary and the meter's
members are the model's choice (log entry 20), and so is that the power-on reset ends, leaving these values, while
RESET_N still holds the part (log entry 24); sampleFrom is the model's own field (log entry 28). -/
def Obligations.PowerOnLeavesPowerOnValues : Prop :=
  ∀ (s : State) (straps : BitVec 6), s.powerReset = true →
    exec (.powerOnResetEnd straps) s = .next
      { pending := s.pending, powerReset := false, resetLow := s.resetLow, straps := straps, node := straps
        tables :=
          { lanes := Vector.replicate 32
              { defined := false, origin := 0, tag := 0, rateClass := .c48, startPage := 0, sizePages := 8
                conceal := .repeatLast, lostTime := 100 }
            programs := Vector.replicate 16 {}, profiles := Vector.replicate 8 {}
            weightings := Vector.replicate 5
              { first := { b0 := 268435456, b1 := 0, b2 := 0, a1 := 0, a2 := 0 }
                second := { b0 := 268435456, b1 := 0, b2 := 0, a1 := 0, a2 := 0 } }
            banks := Vector.replicate 4 (Vector.replicate 65 ((Vector.replicate 32 0).set 15 4194304))
            band3 := { b1 := 4, b2 := 48 }, rules := Vector.replicate 64 {}
            map := Vector.replicate 32 { enabled := false, tag := 0, slot := 0, program := 0, member := 0 }
            settings := { node := 0, select := .external } }
        rx :=
          { framing := .hunt, goodSyncs := 0, expectedPos := 0, expectedNum := 0, misses := 0, slotsLeft := 0
            damaged := 0, checkFails := 0, unknownKinds := 0, countErrors := 0, lockLosses := 0
            trunkSeen := true }
        lanes := Vector.replicate 32
          { status := .parked, horizon := none, lastSeq := none, idle := 0, taint := 0, concealed := 0, late := 0
            dropped := 0 }
        mem := []
        programs := Vector.replicate 16
          { play := { state := .parked, fade := 0, target := .silent, warmUpLeft := 0, warmUpSet := 0
                      elapsed := false, resyncs := 0 }
            conv := { pos := none, trim := 0, glide := 0, hold := false, fixed := none, starved := 0, clips := 0 }
            servo := { delay := 0, fill := 0, limit := 0, clamped := false, mode := .track, phase := none
                       error := 0, pictureIdle := 0, pictureLast := none, pictureDue := false
                       pictureLate := false }
            meter := { pos := none, origin := none, boundary := 0, segments := 0, members := [], history := []
                       momentary := -7000, shortTerm := -7000, integrated := -7000
                       histogram := Vector.replicate 300 0, integration := .opened, record := none, cues := []
                       cueOverflows := 0, reportCount := 0, report := none }
            gain := { scheduled := 0, applied := 0, linear := 1048576, rampStart := 1048576
                      rampEnd := 1048576, rampStep := 480, reissue := false, schedule := [], coalesces := 0
                      gainDrops := 0, cueDrops := 0, forwardDrops := 0, clips := 0 }
            change := { state := .primary, force := .automatic, latch := none, revert := 0, revertDue := false }
            holds := { mute := 0, freeze := 0, holdDelay := 0, changeover := 0 }
            events := { overload := false, arrival := false, air := false, levels := [], closes := [] } }
        alarm :=
          { records := Vector.replicate 64
              { state := .clear, qual := 0, window := 0, stretch := 0, release := 0, acked := false, last := none
                lastStamp := 0, changes := 0, queued := false, owed := false, raises := 0, due := none }
            majorLine := straps == 0 && !s.resetLow, minorLine := false, notices := [], shedSeen := false }
        house :=
          { reference := .seeking, goodCycles := 0, trimmed := false, leftLocked := false, stamp := 0
            warmUpLeft := 3072, warmedUp := false, toTick := 48, toFrame := 12 }
        egress :=
          { map := Vector.replicate 32 { enabled := false, tag := 0, slot := 0, program := 0, member := 0 }
            pending := Vector.replicate 32 none
            lanes := Vector.replicate 32 { x := 0, seq := 0, owed := false, samples := [] }
            number := 0, rotation := none, outbox := [], sampleFrom := none, passthrough := [], shed := 0
            sent := none }
        orders :=
          { intake := [], unit := .idle, owing := none, replies := [], overflow := false, drops := 0
            cause := .power, autoStarted := false, resetDone := false } }

/-- What a reset by the reset line leaves: every block at its reset values, the tables and settings kept, the
oscillator's trim kept, the own node read from the straps, the cause LINE, the reference SEEKING under EXTERNAL and
LOCKED under INTERNAL, and a warm-up of 192 (R11, R37, R53, R148, R149, R150, R176). The receiver, warm-up and meter
values that the manual does not give are the model's choice (log entry 20); that the stored egress map governs from
here is read from the manual by inference (log entry 18). -/
def Obligations.LineResetKeepsTables : Prop :=
  ∀ (s : State) (straps : BitVec 6), s.resetLow = true → s.powerReset = false →
    exec (.resetLineHigh straps) s = .next
      { pending := s.pending, powerReset := false, resetLow := false, straps := straps, node := straps
        tables := s.tables, rx := {}, lanes := Vector.replicate 32 {}, mem := []
        programs := Vector.replicate 16 {}
        alarm := { majorLine := straps == 0 }
        house :=
          { reference := if s.tables.settings.select = .external then .seeking else .locked
            trimmed := s.house.trimmed, warmUpLeft := 192 }
        egress := { map := s.tables.map }
        orders := { cause := .line } }

/-- What the reset of a RESET order leaves: as the reset line, but with the cause ORDER and the pending order kept
(R175). The frame on the trunk runs on (log entry 19), and the receiver, warm-up and meter values that the manual
does not give are the model's choice (log entry 20); that the stored egress map governs from here is read from the
manual by inference (log entry 18). -/
def Obligations.OrderResetKeepsPendingOrder : Prop :=
  ∀ (s : State) (straps : BitVec 6), s.running = true → s.orders.unit = .resetPending →
    s.orders.resetDone = false → s.orders.replies = [] →
    exec (.resetBegin straps) s = .next
      { pending := s.pending, powerReset := false, resetLow := false, straps := straps, node := straps
        tables := s.tables, rx := {}, lanes := Vector.replicate 32 {}, mem := []
        programs := Vector.replicate 16 {}
        alarm := { majorLine := straps == 0 }
        house :=
          { reference := if s.tables.settings.select = .external then .seeking else .locked
            trimmed := s.house.trimmed, warmUpLeft := 192 }
        egress := { map := s.tables.map, sent := s.egress.sent }
        orders :=
          { cause := .order, unit := .resetPending, owing := s.orders.owing, resetDone := true } }

/-- The Gain Law's state after power-on, after the reset line and after the RESET order (R124). -/
def Obligations.GainResetValues : Prop :=
  ∀ s t : State, EndsPower s t ∨ EndsLine s t ∨ EndsOrder s t →
    (∀ p,
      let g := (t.program p).gain
      g.scheduled = 0 ∧ g.applied = 0 ∧ g.linear = 1048576 ∧ g.rampStart = 1048576 ∧
        g.rampEnd = 1048576 ∧ g.rampStep = 480 ∧ g.reissue = false ∧ g.schedule = [] ∧
        g.coalesces = 0 ∧ g.gainDrops = 0 ∧ g.cueDrops = 0 ∧ g.forwardDrops = 0 ∧ g.clips = 0) ∧
    t.egress.outbox = [] ∧
    (EndsLine s t ∨ EndsOrder s t → t.tables.profiles = s.tables.profiles) ∧
    (EndsPower s t → ∀ i : Fin 8, t.tables.profiles[i] =
      { target := -2300, maxBoost := 600, maxCut := 1200, attack := 50, release := 20
        holdGate := -4000, absGate := -7000, relGate := -1000 })

/-- The Alarm Unit's state after power-on, after the reset line and after the RESET order (R148). -/
def Obligations.AlarmResetValues : Prop :=
  ∀ s t : State, (EndsPower s t ∧ s.resetLow = false) ∨ EndsLine s t ∨ EndsOrder s t →
    (∀ r,
      let x := t.record r
      x.state = .clear ∧ x.qual = 0 ∧ x.window = 0 ∧ x.stretch = 0 ∧ x.release = 0 ∧ x.acked = false ∧
        x.last = none ∧ x.lastStamp = 0 ∧ x.changes = 0 ∧ x.queued = false ∧ x.owed = false ∧
        x.raises = 0) ∧
    (∀ p,
      let h := (t.program p).holds
      h.mute = 0 ∧ h.freeze = 0 ∧ h.holdDelay = 0 ∧ h.changeover = 0) ∧
    t.alarm.minorLine = false ∧ (t.alarm.majorLine = true ↔ t.strapFault = true) ∧
    t.alarm.notices = [] ∧
    (EndsLine s t ∨ EndsOrder s t → t.tables.rules = s.tables.rules) ∧
    (EndsPower s t → ∀ r, t.rule r =
      { enabled := false, kind := .silence, scope := some 0, level := 0, qualify := .persist, n := 1, w := 1
        releaseTime := 0, stretch := 0, ackMode := .auto, severity := .minor
        actions := { mute := false, freeze := false, holdDelay := false, changeover := false }
        notice := false, timing := .arrival })

/-- Every program after power-on, after the reset line and after the RESET order (R53). -/
def Obligations.ProgramResetValues : Prop :=
  ∀ s t : State, EndsPower s t ∨ EndsLine s t ∨ EndsOrder s t →
    (∀ p,
      let x := t.program p
      x.play.state = .parked ∧ x.play.fade = 0 ∧ x.play.target = .silent ∧ x.play.warmUpLeft = 0 ∧
        x.play.elapsed = false ∧ x.conv.pos = none ∧ x.meter.pos = none ∧ x.conv.trim = 0 ∧
        x.conv.glide = 0 ∧ x.gain.scheduled = 0 ∧ x.gain.applied = 0 ∧ x.play.resyncs = 0 ∧
        x.gain.schedule = []) ∧
    t.orders.intake = [] ∧ t.orders.replies = [] ∧ t.orders.unit ≠ .parkPending ∧ t.alarm.notices = [] ∧
    (EndsLine s t ∨ EndsOrder s t → t.tables.programs = s.tables.programs) ∧
    (EndsPower s t → ∀ p, t.entry p =
      { defined := false, members := [], weights := Vector.replicate 8 1000, profile := 0, bank := 0
        houseLocked := false, delayMode := .manual, manualDelay := 0, picture := none, pictureOffset := 0
        deadband := 24, pictureTimeout := 1000, cushion := 48, bandSet := 1, glideRate := .medium
        jumpThreshold := 0, warmUp := 100, alternate := none, revertMode := .auto, revertTime := 5000
        meterInterval := 0, autoStart := false })

/-! ## The trunk (R1 to R10, R179) -/

/-- SYNC_FOUND, CHECK_SYNC and RECEIVER_LOCKED. The sync pattern found in HUNT with an undamaged number opens CHECK;
with a damaged number byte the receiver stays in HUNT. In CHECK a good sync counts, any other returns the receiver to
HUNT without a lock loss, and three good syncs lock it and take the frame (R2, R3, R4). The fields of HUNT written as
0 are the model's choice (log entry 20), and so is that a sync character among the number bytes counts as damaged (log
entry 11). -/
def Obligations.GoodSyncsLeadToLock : Prop :=
  ∀ s : State,
    (s.atRest → s.rx.framing = .hunt → ∀ position : Nat,
      (∀ a b : Byte,
        exec (.syncFound position ⟨.sync, .data 0xC5, .data a, .data b⟩) s = .next { s with rx := { s.rx with
          framing := .check, goodSyncs := 1, expectedPos := position + 10756
          expectedNum := (a ++ b) + 1 } }) ∧
      ∀ c d : LineChar, c = .damaged ∨ d = .damaged →
        exec (.syncFound position ⟨.sync, .data 0xC5, c, d⟩) s = .next s) ∧
    (s.rx.framing = .check →
      (∀ a b : Byte, s.atRest → a ++ b = s.rx.expectedNum →
        exec (.checkSync ⟨.sync, .data 0xC5, .data a, .data b⟩) s = .next { s with rx := { s.rx with
          goodSyncs := s.rx.goodSyncs + 1, expectedPos := s.rx.expectedPos + 10756
          expectedNum := s.rx.expectedNum + 1 } }) ∧
      (∀ h : FrameHead, s.atRest →
        ¬ (h.c0 = .sync ∧ h.c1 = .data 0xC5 ∧ ∃ a b : Byte, h.c2 = .data a ∧ h.c3 = .data b ∧
          a ++ b = s.rx.expectedNum) →
        exec (.checkSync h) s = .next { s with rx := { s.rx with
          framing := .hunt, goodSyncs := 0, expectedPos := 0, expectedNum := 0, misses := 0, slotsLeft := 0
          damaged := 0, trunkSeen := true } }) ∧
      (s.running = true → 3 ≤ s.rx.goodSyncs →
        exec .receiverLocked s = .next { s with rx := { s.rx with
          framing := .locked, goodSyncs := 0, misses := 0, slotsLeft := 128, damaged := 0 } }))

/-- LOCKED_SYNC: a good sync takes the frame, one bad sync discards it and keeps the timing, a second in a row returns
the receiver to HUNT with one lock loss; and a bad sync whose damaged bytes complete 32 in a row with those that ended
the frame before is a line fault, with one lock loss and HUNT as well (R1, R2, R5). The fields of HUNT written as 0
are the model's choice (log entry 20), and so are the bytes among which the run is counted (log entries 11 and 21), a
sync character at the second to fourth of them counting as damaged (log entry 11). -/
def Obligations.LockedSyncTakesOrDiscards : Prop :=
  ∀ s : State, s.atRest → s.rx.framing = .locked →
    (∀ a b : Byte, a ++ b = s.rx.expectedNum →
      exec (.lockedSync ⟨.sync, .data 0xC5, .data a, .data b⟩) s = .next { s with rx := { s.rx with
        expectedPos := s.rx.expectedPos + 10756, expectedNum := s.rx.expectedNum + 1, misses := 0
        slotsLeft := 128, damaged := 0 } }) ∧
    (∀ h : FrameHead,
      ¬ (h.c0 = .sync ∧ h.c1 = .data 0xC5 ∧ ∃ a b : Byte, h.c2 = .data a ∧ h.c3 = .data b ∧
        a ++ b = s.rx.expectedNum) →
      let before := if s.rx.slotsLeft = 0 then s.rx.damaged else 0
      let fault := ∃ k, 1 ≤ k ∧ k ≤ 4 ∧ (∀ x ∈ (headDamaged h).take k, x = true) ∧ 32 ≤ before + k
      (s.rx.misses = 0 → ¬ fault → exec (.lockedSync h) s = .next { s with rx := { s.rx with
        expectedPos := s.rx.expectedPos + 10756, expectedNum := s.rx.expectedNum + 1, misses := 1
        slotsLeft := 0, damaged := 0 } }) ∧
      (s.rx.misses ≠ 0 ∨ fault → exec (.lockedSync h) s = .next { s with rx := { s.rx with
        framing := .hunt, goodSyncs := 0, expectedPos := 0, expectedNum := 0, misses := 0, slotsLeft := 0
        damaged := 0, trunkSeen := true, lockLosses := min (s.rx.lockLosses + 1) 65535 } }))

/-- LINE_FAULT: HUNT from any framing state, one lock loss if LOCKED, the rest of the frame discarded, and
nothing else of the part touched (R1, R181). That a command brings the loss of signal is the model's choice (log
entry 11), and so are the fields of HUNT written as 0 (log entry 20). -/
def Obligations.LineFaultHunts : Prop :=
  ∀ s : State, s.atRest →
    exec .lineFault s = .next { s with rx := { s.rx with
      framing := .hunt, goodSyncs := 0, expectedPos := 0, expectedNum := 0, misses := 0, slotsLeft := 0
      damaged := 0, trunkSeen := true
      lockLosses :=
        if s.rx.framing = .locked then min (s.rx.lockLosses + 1) 65535 else s.rx.lockLosses } }

/-- A slot passes its check exactly when none of its bytes is damaged and the CRC over its first 82 bytes is what its
last two hold, and every slot the part makes has 84 bytes and passes (R9, R163, R179). That a sync character standing
inside a slot counts as a damaged byte is the model's choice (log entry 11). -/
def Obligations.CheckDecidesSlots : Prop :=
  (∀ slot : Slot, slot.length = 84 →
    (slotContent slot ≠ .badCheck ↔
      ∃ b : List Byte, slot = b.map .data ∧ crc16 (b.take 82) = b.getD 82 0 ++ b.getD 83 0)) ∧
  ∀ content : List Byte,
    (sealSlot content).length = 84 ∧ checkedBytes ((sealSlot content).map .data) = some (sealSlot content)

/-- REJECTED_SLOT: the counter of the reason rises, in strap fault as outside it, and nothing else comes of the slot
(R10); a free slot is taken and goes nowhere (R9). A slot that fails its check leaves the run of damaged bytes it ends
in, and one with which 32 of them stand in a row is a line fault, with one lock loss and HUNT, and not a rejected slot
(R1). That a rejected slot's command carries the free ones, that the 84th byte may complete a line fault, and that a
sync character inside a slot counts as a damaged byte, are the model's choices (log entries 21 and 11), and so are the
fields of HUNT written as 0 (log entry 20). -/
def Obligations.RejectedSlotsAreCounted : Prop :=
  ∀ (s : State) (slot : Slot), s.slotNext → slot.length = 84 →
    let bad := damagedBytes slot
    let fault := (∃ i, i + 32 ≤ 84 ∧ ∀ x ∈ (bad.drop i).take 32, x = true) ∨
      ∃ k, 1 ≤ k ∧ k ≤ 84 ∧ (∀ x ∈ bad.take k, x = true) ∧ 32 ≤ s.rx.damaged + k
    (fault → exec (.rejectedSlot slot) s = .next { s with rx := { s.rx with
      framing := .hunt, goodSyncs := 0, expectedPos := 0, expectedNum := 0, misses := 0, slotsLeft := 0
      damaged := 0, trunkSeen := true, lockLosses := min (s.rx.lockLosses + 1) 65535 } }) ∧
    (slotContent slot = .badCheck → ¬ fault → exec (.rejectedSlot slot) s = .next { s with rx := { s.rx with
      slotsLeft := s.rx.slotsLeft - 1, damaged := (bad.reverse.takeWhile id).length
      checkFails := min (s.rx.checkFails + 1) 65535 } }) ∧
    (slotContent slot = .unknownKind → exec (.rejectedSlot slot) s = .next { s with rx := { s.rx with
      slotsLeft := s.rx.slotsLeft - 1, damaged := 0
      unknownKinds := min (s.rx.unknownKinds + 1) 65535 } }) ∧
    (slotContent slot = .badCount → exec (.rejectedSlot slot) s = .next { s with rx := { s.rx with
      slotsLeft := s.rx.slotsLeft - 1, damaged := 0, countErrors := min (s.rx.countErrors + 1) 65535 } }) ∧
    (slotContent slot = .free → exec (.rejectedSlot slot) s = .next { s with rx := { s.rx with
      slotsLeft := s.rx.slotsLeft - 1, damaged := 0 } })

/-- An AUDIO parcel as the part sends it is read back with every field as sent, for every value of every
field and 1 to 24 samples; so is a CUE parcel (R7, R8, R118, R159, R178). -/
def Obligations.SentParcelsReadBack : Prop :=
  (∀ (node tag seq : Byte) (suspect discontinuity : Bool) (stamp : Stamp) (samples : List Int),
    1 ≤ samples.length → samples.length ≤ 24 →
    slotContent ((audioParcelBytes node tag seq suspect discontinuity stamp samples).map .data) =
      .audio node tag seq suspect discontinuity stamp (samples.map (BitVec.ofInt 24))) ∧
  (∀ (c : CueOut) (node : Byte),
    slotContent ((c.bytes node).map .data) =
      .cue node c.tag c.stamp c.kind (if c.kind = .userMark then c.mark else 0))

/-! ## Where parcels go (R12, R13, R162, R165) -/

/-- ORDER_PARCEL: an ORDER for the own node joins the intake's tail, or with four orders waiting is dropped
with the overflow flag set (R13, R165). -/
def Obligations.OrdersJoinIntake : Prop :=
  ∀ (s : State) (slot : Slot) (o : Order), s.slotNext → slot.length = 84 → s.strapFault = false →
    slotContent slot = .order s.nodeByte o →
    (s.orders.intake.length < 4 → exec (.orderParcel slot) s = .next { s with
      rx := { s.rx with slotsLeft := s.rx.slotsLeft - 1, damaged := 0 }
      orders := { s.orders with intake := s.orders.intake ++ [o] } }) ∧
    (4 ≤ s.orders.intake.length → exec (.orderParcel slot) s = .next { s with
      rx := { s.rx with slotsLeft := s.rx.slotsLeft - 1, damaged := 0 }
      orders := { s.orders with overflow := true, drops := min (s.orders.drops + 1) 65535 } })

/-- PASSTHROUGH_PARCEL: every accepted parcel the part does not consume joins the passthrough queue with every
byte as it came, or with 96 parcels waiting is shed and counted (R12, R13, R162). -/
def Obligations.OtherParcelsPassThrough : Prop :=
  ∀ (s : State) (b : List Byte), s.slotNext → b.length = 84 → s.passes (slotContent (b.map .data)) →
    (s.egress.passthrough.length < 96 → exec (.passthroughParcel (b.map .data)) s = .next { s with
      rx := { s.rx with slotsLeft := s.rx.slotsLeft - 1, damaged := 0 }
      egress := { s.egress with passthrough := s.egress.passthrough ++ [b] } }) ∧
    (96 ≤ s.egress.passthrough.length → exec (.passthroughParcel (b.map .data)) s = .next { s with
      rx := { s.rx with slotsLeft := s.rx.slotsLeft - 1, damaged := 0 }
      egress := { s.egress with shed := min (s.egress.shed + 1) 65535 }
      alarm := { s.alarm with shedSeen := true } })

/-! ## AUDIO, CUE and PICTURE parcels (Chapters 2, 5 and 7) -/

/-- What every event hands on at once: the fade targets (R50), the changeover states (R154, R155) and the two lines
(R141), and nothing else of the part. A wanted changeover goes to a healthy candidate; without one, absent or not
healthy, the program is in WANTED, unless its latch clears there and its alternate is healthy (R155, R157). The
revert count of 0 on entering ALTERNATE from PRIMARY or WANTED is the model's choice (log entry 12), and that a
cleared latch is followed by one more re-evaluation is read from the manual by inference (log entry 23). -/
def Obligations.ChangesAreHandedOn : Prop :=
  ∀ s : State,
    s.followThrough = { s with
      programs := s.followThrough.programs
      alarm := { s.alarm with majorLine := s.lineActive .major, minorLine := s.lineActive .minor } } ∧
    ∀ p,
      let x := s.program p
      let y := s.followThrough.program p
      y = { x with play := { x.play with target := x.fadeTarget }, change := y.change } ∧
      y.change.force = x.change.force ∧
      (s.wanted p = true →
        (∀ a, (x.change.latch.or (s.entry p).alternate) = some a →
          x.change.state = .primary ∨ x.change.state = .wanted →
          (s.healthy a = true → y.change.state = .alternate ∧ y.change.latch = some a ∧ y.change.revert = 0)) ∧
        ((∀ a, (x.change.latch.or (s.entry p).alternate) = some a → s.healthy a = false) →
          x.change.state = .primary ∨ x.change.state = .wanted →
          (∀ b, s.lanesHome p = true → (s.entry p).alternate = some b → s.healthy b = true →
            y.change.state = .alternate ∧ y.change.latch = some b ∧ y.change.revert = 0) ∧
          (s.lanesHome p = false ∨ (∀ b, (s.entry p).alternate = some b → s.healthy b = false) →
            y.change.state = .wanted ∧ y.change.latch = if s.lanesHome p then none else x.change.latch)) ∧
        (x.change.state = .alternate → y.change = x.change) ∧
        (x.change.state = .reverting → y.change.state = .alternate ∧ y.change.latch = x.change.latch ∧
          y.change.revert = 0)) ∧
      (s.wanted p = false →
        (x.change.state = .alternate → y.change.state = .reverting ∧ y.change.latch = x.change.latch ∧
          y.change.revert = 0) ∧
        (x.change.state = .reverting → y.change = x.change) ∧
        (x.change.state = .primary ∨ x.change.state = .wanted → y.change.state = .primary ∧
          y.change.latch = if s.lanesHome p then none else x.change.latch))

/-- AUDIO_PARCEL for a lane that is not PARKED: the lane is RECEIVING with its idle time at 0, whatever becomes
of the samples; no other lane's state or idle time moves, and tables, orders, clock and records stand (R21). A
parcel that is discarded, in RESYNCING (R32) or for a follower without a horizon before its program has a read
position (R24), changes nothing else at all. -/
def Obligations.AudioRestartsIdle : Prop :=
  ∀ (s : State) (slot : Slot) (l : Fin 32) (a : AudioIn), s.audioNext slot l a →
    (∃ t, exec (.audioParcel slot) s = .next t ∧
      (t.lane l).status = .receiving ∧ (t.lane l).idle = 0 ∧
      (∀ k, k ≠ l → (t.lane k).status = (s.lane k).status ∧ (t.lane k).idle = (s.lane k).idle) ∧
      t.rx = { s.rx with slotsLeft := s.rx.slotsLeft - 1, damaged := 0 } ∧
      t.tables = s.tables ∧ t.orders = s.orders ∧ t.house = s.house ∧
      t.alarm.records = s.alarm.records ∧ t.alarm.notices = s.alarm.notices ∧
      t.egress.lanes = s.egress.lanes ∧ t.egress.passthrough = s.egress.passthrough) ∧
    ∀ p, s.memberOf l p →
      (s.playState p = .resyncing ∨
        (s.leader p ≠ some l ∧ (s.program p).conv.pos = none ∧ (s.lane l).horizon = none)) →
      exec (.audioParcel slot) s =
        .next ({ s with rx := { s.rx with slotsLeft := s.rx.slotsLeft - 1, damaged := 0 } }.setLane l
          { s.lane l with status := .receiving, idle := 0 })

/-- AUDIO_PARCEL of a follower whose program has a read position, case by case, and no other word, lane or program
changes: the first, in order, out of the window, a discontinuity, a gap, late, as `State.TakesParcel` says, the
taint count following the words written (R18, R24 to R26, R28 to R31, R34, R35). And what a forward move of the
retired edge leaves behind in a ring becomes EMPTY, its SUSPECT words leaving the taint count (R33). Which of two
stamps exactly 2^31 apart is the smaller, for the retired edge, is the model's choice (log entry 25). -/
def Obligations.FollowerAudioWritesInOrder : Prop :=
  (∀ (s : State) (slot : Slot) (l : Fin 32) (a : AudioIn) (p : Fin 16) (P : ReadPos) (from_ : Stamp),
    s.audioNext slot l a → s.memberOf l p → s.leader p ≠ some l → s.playState p ≠ .resyncing →
    (s.program p).conv.pos = some P → s.edge p = some from_ →
    ∃ u, exec (.audioParcel slot) s = .next u ∧ s.TakesParcel l p from_ P a u) ∧
  ∀ (s : State) (l : Fin 32) (old new : Stamp), s.lanesOk →
    let e := s.laneEntry l
    let u := s.retireLane l old new
    let gone (i : Nat) : Prop := ∃ d < e.ringSize, (d : Int) < stampDiff new old ∧
      i = e.wordIndex (old + BitVec.ofNat 32 d)
    (∀ i, (gone i → u.mem.find i = none) ∧ (¬ gone i → u.mem.find i = s.mem.find i)) ∧
    u = { s with mem := u.mem, lanes := s.lanes.set l.val { s.lane l with taint := (u.lane l).taint } l.isLt } ∧
    ∀ lost : List (Nat × RingWord), lost.Sublist s.mem →
      (∀ c ∈ s.mem, c ∈ lost ↔ gone c.1 ∧ c.2.suspect = true) → s.memOk →
      (u.lane l).taint = (s.lane l).taint - lost.length

/-- AUDIO_PARCEL of the leader. The first of a program without a read position: whatever its stamp, it is written, P
is its first stamp with fraction 0 and M the same stamp, the measurement begins afresh, and the schedule plays out
to P (R24, R42, R91, R117). Out of the window or a discontinuity, but in PARKING: a RESYNC request, with which
PRIMING with a P, WARMING, RUNNING and HOLDOVER enter RESYNCING, the warm-up remaining kept as it stands (R28, R31,
R47, R48; the last is the model's choice, log entry 12), and without a P nothing comes of it (R48; log entry 23).
Every other parcel is taken as a follower's is, by the case it falls under, a gap, a late one and in PARKING a
discontinuity and one out of the window among them (R24 to R26, R28, R29, R31); where W has moved the meter follows;
and in HOLDOVER the return test ends it (R46). The meter moves to W less the cushion when that is ahead of it, each
stamp passed measured in turn, and the retired edge after it (R33, R91, R92). Measuring stamps one by one takes each
member's word into its filters, its sum and its peak, and a segment ends as its last stamp is measured (R92, R93,
R95). Where schedule stamps are spread too wide for one order, which entries play out is the model's choice, and so
are the smaller of two stamps exactly 2^31 apart for the retired edge (log entry 25) and a G fixed for the house
sample dropped on entering RESYNCING (log entry 29); a forwarded cue's tag and stamp are read from the manual by
inference (log entries 18 and 9); the program kept with a cue in the outbox is the model's own (log entry 28). -/
def Obligations.LeaderAudioOpensProgram : Prop :=
  (∀ (s : State) (slot : Slot) (l : Fin 32) (a : AudioIn) (p : Fin 16),
    s.audioNext slot l a → s.memberOf l p → s.leader p = some l →
    let x := s.program p
    let lane := { s.lane l with status := .receiving, idle := 0 }
    let last := a.stamp + BitVec.ofNat 32 a.samples.length
    let marked := x.events.arrival || a.suspect
    (x.play.state = .priming ∨ x.play.state = .parking → lane.horizon = none → x.conv.pos = none →
      let placed := (s.cuesOut p a.stamp s.house.stamp).take (8 - s.egress.outbox.length)
      ∃ mem,
        exec (.audioParcel slot) s = .next { (s.tookAudio l p mem { lane with
            taint := s.taintAfter l a.words, horizon := some last, lastSeq := some a.seq } marked).setProgram p { x with
              conv := { x.conv with pos := some ⟨a.stamp, 0⟩, hold := false }
              meter := { x.meter with
                pos := some a.stamp, origin := some a.stamp
                boundary := a.stamp + BitVec.ofNat 32 (s.laneEntry l).rateClass.segment
                segments := 0, members := List.replicate (s.entry p).members.length {}, reportCount := 0 }
              gain := x.gain.playedOut a.stamp ((s.dueCues p a.stamp).length - placed.length)
              events := { x.events with arrival := marked } } with
            egress := { s.egress with outbox := s.egress.outbox ++ placed } } ∧
        s.Wrote mem l a.words) ∧
    (∀ W, lane.horizon = some W → x.play.state ≠ .resyncing → x.play.state ≠ .parking →
      lane.breaks W a ∨ (∀ from_, s.edge p = some from_ → ¬ s.inside from_ l a) →
      let heard := s.tookAudio l p s.mem lane x.events.arrival
      (x.conv.pos = none → x.play.state ≠ .holdover → exec (.audioParcel slot) s = .next heard) ∧
      (x.conv.pos ≠ none → exec (.audioParcel slot) s = .next (heard.setProgram p { x with
        play := { x.play with state := .resyncing, resyncs := min (x.play.resyncs + 1) 65535 }
        conv := { x.conv with glide := 0, hold := false, fixed := x.conv.fixed.map fun f => (f.1, 0) }
        servo := { x.servo with mode := .track, phase := none } }).followThrough)) ∧
    ∀ (from_ : Stamp) (P : ReadPos), x.conv.pos = some P → s.edge p = some from_ → x.play.state ≠ .resyncing →
      lane.horizon = none ∨ x.play.state = .parking ∨
        ((∀ W, lane.horizon = some W → ¬ lane.breaks W a) ∧ s.inside from_ l a) →
      let extends_ := s.inside from_ l a ∧ ∀ W, lane.horizon = some W →
        lane.breaks W a ∨ ahead a.stamp W = true ∨ (W - a.stamp).toNat < a.samples.length
      ∃ u v, s.TakesParcel l p from_ P a u ∧
        (extends_ → v = u.meterFollows p last) ∧ (¬ extends_ → v = u) ∧
        (x.play.state ≠ .holdover → exec (.audioParcel slot) s = .next v) ∧
        (x.play.state = .holdover → exec (.audioParcel slot) s = .next (v.returnTest p))) ∧
  (∀ (s : State) (p : Fin 16) (W M : Stamp) (P : ReadPos) (from_ : Stamp), (s.program p).meter.pos = some M →
    (s.program p).conv.pos = some P → s.edge p = some from_ →
    let target := W - BitVec.ofNat 32 (s.entry p).cushion
    let measured := s.measureRun p (some from_) (stampDiff target M).toNat M
    s.meterFollows p W = if ahead target M then
        (measured.setProgram p { measured.program p with meter :=
          { (measured.program p).meter with pos := some target } }).retire p (some from_)
            (some (earlier (P.stamp - 15) target))
      else s) ∧
  (∀ (s : State) (p : Fin 16) (P : ReadPos), s.playState p = .holdover → (s.program p).conv.pos = some P →
    let y := s.program p
    let back (W : Stamp) : Prop := behind (P.stamp + 16) W = true ∧
      stampDiff W P.stamp * 16777216 - P.frac.toNat ≤ ((s.smallestRing p : Int) - 64) * 16777216
    (∀ W, s.leaderHorizon p = some W → back W → s.returnTest p = (s.setProgram p { y with
      play := { y.play with state := .running }
      conv := { y.conv with glide := 0 }
      servo := { y.servo with mode := .track, phase := none } }).followThrough) ∧
    ((∀ W, s.leaderHorizon p = some W → ¬ back W) → s.returnTest p = (s.setProgram p { y with
      play := { y.play with state := .resyncing, resyncs := min (y.play.resyncs + 1) 65535 }
      conv := { y.conv with glide := 0, hold := false, fixed := y.conv.fixed.map fun f => (f.1, 0) }
      servo := { y.servo with mode := .track, phase := none } }).followThrough)) ∧
  (∀ (s : State) (p : Fin 16) (edge : Option Stamp) (t : Stamp),
    let x := s.program p
    let w := s.tables.weightings[(s.classOf p).index]
    let heard (ms : List MemberMeter) (k : Nat) : List MemberMeter :=
      ((s.entry p).members.zip ms).map fun lm =>
        lm.2.measure w (s.readWord edge lm.1 (t + BitVec.ofNat 32 k)).1
    let after (ms : List MemberMeter) : State :=
      s.setProgram p { x with meter := { x.meter with members := ms } }
    (∀ n, (∀ k, 1 ≤ k → k ≤ n → t + BitVec.ofNat 32 k ≠ x.meter.boundary) →
      s.measureRun p edge n t = after ((List.range n).foldl heard x.meter.members)) ∧
    (t + 1 = x.meter.boundary → s.measureRun p edge 1 t = (after (heard x.meter.members 0)).endSegment p) ∧
    ∀ m n, s.measureRun p edge (m + n) t =
      (s.measureRun p edge m t).measureRun p edge n (t + BitVec.ofNat 32 m)) ∧
  ∀ (w : Weighting) (m : MemberMeter) (x : Int),
    let run (c : Biquad) (b : BiquadState) (x0 : Int) : Int := max (-134217728) (min 134217728
      ((c.b0.toInt * x0 + c.b1.toInt * b.x1 + c.b2.toInt * b.x2 - c.a1.toInt * b.v1 - c.a2.toInt * b.v2 +
        134217728) / 268435456))
    let u := run w.first m.first x
    let v := run w.second m.second u
    m.measure w x =
      { first := { x1 := x, x2 := m.first.x1, v1 := u, v2 := m.first.v1 }
        second := { x1 := u, x2 := m.second.x1, v1 := v, v2 := m.second.v1 }
        sum := m.sum + v.natAbs ^ 2, peak := max m.peak x.natAbs }

/-- CUE_PARCEL: consumed with no effect from a follower's lane and in RESYNCING; from the leader's lane, ahead of
floor(P) or before P is set, it joins the schedule after every stored entry at or behind its stamp, or with 128
entries stored is dropped and counted; at or behind floor(P) it takes effect at once, placed in the cue outbox under
the tag of the lowest enabled egress lane that takes the program's member 0, or counted as a forward drop without
such a lane or with 8 parcels waiting; and, whatever becomes of it there, the meter lists a segment cue when it has
a position (R21, R101, R113 to R116, R118). Where stamps are spread so wide that no place is both after every entry
at or behind and before every one ahead, the place before the first ahead is the model's choice (log entry 25). The
forwarded cue's tag from the map that governs and the cue stored before P is set are read from the manual by
inference (log entry 18), and so is the forwarded cue's stamp as the held house stamp (log entry 9); the program
kept with a cue in the outbox is the model's own (log entry 28). -/
def Obligations.CuesAreEntered : Prop :=
  ∀ (s : State) (slot : Slot) (l : Fin 32) (stamp : Stamp) (kind : CueType)
    (mark : BitVec 16) (p : Fin 16),
    s.cueNext slot l stamp kind mark → s.memberOf l p →
    let x := s.program p
    let taken := { s with rx := { s.rx with slotsLeft := s.rx.slotsLeft - 1, damaged := 0 } }
    (s.leader p ≠ some l ∨ x.play.state = .resyncing → exec (.cueParcel slot) s = .next taken) ∧
    (s.leader p = some l → x.play.state ≠ .resyncing → ∃ meter,
      (x.meter.pos = none ∨ kind = .userMark → meter = x.meter) ∧
      (x.meter.pos ≠ none → kind ≠ .userMark → x.meter.cues.length < 16 →
        ∃ first last, x.meter.cues = first ++ last ∧
          (∀ c ∈ first, ahead c.1 stamp = false) ∧ (∀ c ∈ last.head?, ahead c.1 stamp = true) ∧
          meter = { x.meter with cues := first ++ (stamp, kind) :: last }) ∧
      (x.meter.pos ≠ none → kind ≠ .userMark → 16 ≤ x.meter.cues.length →
        meter = { x.meter with cueOverflows := min (x.meter.cueOverflows + 1) 65535 }) ∧
      ((∀ P, x.conv.pos = some P → ahead stamp P.stamp = true) →
        (x.gain.schedule.length < 128 → ∃ before after, x.gain.schedule = before ++ after ∧
          (∀ y ∈ before, ahead y.stamp stamp = false) ∧ (∀ y ∈ after.head?, ahead y.stamp stamp = true) ∧
          exec (.cueParcel slot) s = .next (taken.setProgram p { x with
            gain := { x.gain with schedule := before ++ .cue stamp kind mark :: after }, meter := meter })) ∧
        (128 ≤ x.gain.schedule.length →
          exec (.cueParcel slot) s = .next (taken.setProgram p { x with
            gain := { x.gain with cueDrops := min (x.gain.cueDrops + 1) 65535 }, meter := meter }))) ∧
      ∀ P, x.conv.pos = some P → ahead stamp P.stamp = false →
        let feeds (e : Fin 32) : Prop := (s.mapEntry e).enabled = true ∧ (s.mapEntry e).program = p ∧
          (s.mapEntry e).member = 0
        (∀ e, feeds e → (∀ k, k < e → ¬ feeds k) → s.egress.outbox.length < 8 →
          exec (.cueParcel slot) s = .next { taken.setProgram p { x with meter := meter } with
            egress := { s.egress with
              outbox := s.egress.outbox ++ [⟨(s.mapEntry e).tag, s.house.stamp, kind, mark, p⟩] } }) ∧
        ((∀ e, ¬ feeds e) ∨ 8 ≤ s.egress.outbox.length →
          exec (.cueParcel slot) s = .next (taken.setProgram p { x with
            gain := { x.gain with forwardDrops := min (x.gain.forwardDrops + 1) 65535 }
            meter := meter })))

/-- PICTURE_REPORT: every program that is not PARKED and names the source takes it by itself: nothing in MANUAL
mode or from an invalid report; otherwise the idle time restarts and the delay is kept as the last, and,
without HOLD_DELAY and from the deadband on, the proposal is put in force (R13, R72, R74, R87, R89). -/
def Obligations.PictureReportsAreFollowed : Prop :=
  ∀ (s : State) (slot : Slot) (node tag : Byte) (micros : Nat) (valid : Bool),
    s.slotNext → s.strapFault = false → slot.length = 84 → slotContent slot = .picture node tag micros valid →
    s.sourceHeard node tag →
    ∃ t, exec (.pictureReport slot) s = .next t ∧
      t = { s with rx := { s.rx with slotsLeft := s.rx.slotsLeft - 1, damaged := 0 }, programs := t.programs } ∧
      ∀ p,
        let x := s.program p
        let e := s.entry p
        let heard := s.active p = true ∧ e.picture = some (node, tag) ∧ e.delayMode = .follow ∧ valid = true
        let sum : Int := ((micros * 48 + 500) / 1000 : Nat) + e.pictureOffset
        let dp : Nat := (max 0 (min sum x.servo.limit)).toNat
        let still := x.holds.holdDelay ≠ 0 ∨ ((dp : Int) - x.servo.delay).natAbs < e.deadband
        (¬ heard → t.program p = x) ∧
        (heard → still → t.program p = { x with servo :=
          { x.servo with pictureIdle := 0, pictureLast := some micros } }) ∧
        (heard → ¬ still → t.program p = { x with servo := { x.servo with
          pictureIdle := 0, pictureLast := some micros, delay := dp
          fill := (dp * (s.nominal p).toNat + 8388608) / 16777216 + e.cushion
          clamped := decide ((x.servo.limit : Int) < sum) } })

/-! ## House Timing, the converter and the egress (Chapters 4, 7 and 9) -/

/-- REFERENCE_CYCLE and REFERENCE_LOCK: under EXTERNAL the table of R149; under INTERNAL the input moves
nothing. That the good-cycle count stands at 48 on entering LOCKED is the model's choice (log entry 12), and so is
the flag by which it holds that the oscillator has been trimmed (log entry 16). -/
def Obligations.ReferenceCyclesAreCounted : Prop :=
  ∀ s : State,
    (s.atRest → s.tables.settings.select = .internal → ∀ good, exec (.referenceCycle good) s = .next s) ∧
    (s.atRest → s.tables.settings.select = .external →
      (s.house.reference = .locked →
        exec (.referenceCycle true) s = .next s ∧
        exec (.referenceCycle false) s = .next { s with house := { s.house with
          reference := .holdover, goodCycles := 0, leftLocked := true } }) ∧
      (s.house.reference ≠ .locked →
        exec (.referenceCycle true) s = .next { s with house := { s.house with
          goodCycles := s.house.goodCycles + 1 } } ∧
        exec (.referenceCycle false) s = .next { s with house := { s.house with goodCycles := 0 } })) ∧
    (s.running = true → s.tables.settings.select = .external → s.house.reference ≠ .locked →
      48 ≤ s.house.goodCycles →
      exec .referenceLock s = .next { s with house := { s.house with
        reference := .locked, trimmed := true } })

/-- HOUSE_SAMPLE. The clock: the house stamp rises by one and the counts to the tick, the frame start and the end of
the warm-up fall (R150). Every program: its fade moves one step toward its target, in WARMING its warm-up remaining
falls by one, its ramp moves one step while it makes outputs, its read position goes where `State.nextPos` says or
stands, the hold flag set where the advance is withheld and cleared where it is made, and the schedule plays out to
a position that moved: the last GAIN entry reached begins its ramp, cues go to the outbox in ascending program while
it has room (R43, R50, R57, R59 to R61, R117 to R119). What the retired edge leaves behind becomes EMPTY and leaves
the taint count, and every other word stands (R33). Starvation, clips and the overload and air events are counted by
the outputs (R64, R65, R120). Every enabled egress lane's crossfade moves one step and, once the warm-up has ended,
it takes the mix of its primary and its latched alternate with its mark (R153, R158). Then changes are handed on: a
latch clears in PRIMARY once every lane is home (R157). Nothing else moves. That the fade moves before it is applied
is read from the manual by inference (log entry 8), as are the tag and the stamp of a forwarded cue (log entries 18
and 9); which entries play out where stamps are spread too wide for one order, which of two stamps exactly 2^31
apart is the smaller for the retired edge (log entry 25), that the warm-up remaining stands outside WARMING (log
entry 12), that a jump whose fade ends here compares behind the advance, with the field sampleFrom that it reads
(log entry 28), and that free-running leaves out a G fixed at the frame start (log entry 29) are the model's
choices. -/
def Obligations.HouseSampleAdvances : Prop :=
  ∀ s : State, s.atRest → s.clockQuiet = true →
    ∃ u : State, exec .houseSample s = .next u.followThrough ∧
      u = { s with
        house := { s.house with
          stamp := s.house.stamp + 1, toTick := s.house.toTick - 1
          toFrame := if s.house.warmedUp then s.house.toFrame - 1 else s.house.toFrame
          warmUpLeft := s.house.warmUpLeft - 1 }
        mem := u.mem, lanes := u.lanes, programs := u.programs
        egress := { s.egress with
          lanes := u.egress.lanes
          sampleFrom := some s.egress.outbox.length
          outbox := s.egress.outbox ++
            ((List.finRange 16).flatMap s.sampleCues).take (8 - s.egress.outbox.length) } } ∧
      (∀ l, u.lane l = { s.lane l with taint := (u.lane l).taint }) ∧
      (∀ p,
        let x := s.program p
        let y := u.program p
        let warming := x.play.state = .warming
        let tries := x.conv.pos.isSome ∧
          (warming ∨ (x.play.state = .running ∧ x.servo.phase ≠ some .hold))
        let gain := match s.nextPos p with
          | some Q => x.nextGain.playedOut Q.stamp (s.sampleDrops p)
          | none => x.nextGain
        y = { x with
          play := { x.play with
            fade := x.nextFade, warmUpLeft := if warming then x.play.warmUpLeft - 1 else x.play.warmUpLeft }
          conv := { x.conv with
            pos := (s.nextPos p).or x.conv.pos, fixed := none
            hold := if tries then (s.nextPos p).isNone else x.conv.hold
            starved := y.conv.starved, clips := y.conv.clips }
          gain := { gain with clips := y.gain.clips }
          events := { x.events with overload := y.events.overload, air := y.events.air } } ∧
        (x.sounds = false → y.conv.starved = x.conv.starved ∧ y.conv.clips = x.conv.clips ∧
          y.gain.clips = x.gain.clips ∧ y.events = x.events)) ∧
      (s.lanesOk →
        let gone (j : Nat) : Prop := ∃ p, ∃ l ∈ (s.entry p).members, ∃ old Q, s.edge p = some old ∧
          s.nextPos p = some Q ∧ ∃ d < (s.laneEntry l).ringSize, (d : Int) < stampDiff (s.edgeAt p Q) old ∧
            j = (s.laneEntry l).wordIndex (old + BitVec.ofNat 32 d)
        ∀ j, (gone j → u.mem.find j = none) ∧ (¬ gone j → u.mem.find j = s.mem.find j)) ∧
      (s.lanesOk → s.startedOk → s.ringsApart →
        (∀ l, (s.lane l).status = .parked → (u.lane l).taint = (s.lane l).taint) ∧
        (∀ p l, s.memberOf l p → (u.lane l).taint = match s.edge p, s.nextPos p with
          | some old, some Q => ((s.retireLane l old (s.edgeAt p Q)).lane l).taint
          | _, _ => (s.lane l).taint) ∧
        (∀ p,
          let x := s.program p
          let y := u.program p
          let clip := (s.voices p).any (·.clipped)
          let high := (s.voices p).any fun o => decide (s.gained p o < -8388608 ∨ 8388607 < s.gained p o)
          x.sounds = true →
            y.conv.starved = min (x.conv.starved + if (s.voices p).any (·.starved) then 1 else 0) 65535 ∧
            y.conv.clips = min (x.conv.clips + if clip then 1 else 0) 65535 ∧
            y.gain.clips = min (x.gain.clips + if high then 1 else 0) 65535 ∧
            y.events.overload = (x.events.overload || clip || high) ∧
            y.events.air = (x.events.air || (s.voices p).any (·.air))) ∧
        ∀ e, (s.mapEntry e).enabled = true →
          let m := s.mapEntry e
          let X := (u.egressLane e).x
          let a := s.voice m.program m.member
          let b := match (s.program m.program).change.latch with
            | some q => s.voice q m.member
            | none => (0, false)
          (u.egressLane e).samples = if s.house.warmedUp = true ∧ s.strapFault = false then
              (s.egressLane e).samples ++ [((a.1 * (960 - X) + b.1 * X).tdiv 960,
                (a.2 && decide (X < 960)) || (b.2 && decide (0 < X)))]
            else (s.egressLane e).samples) ∧
      (∀ e,
        let m := s.mapEntry e
        let state := (s.program m.program).change.state
        let x := (s.egressLane e).x
        (m.enabled = false → u.egressLane e = s.egressLane e) ∧
        (m.enabled = true → u.egressLane e = { s.egressLane e with
          samples := (u.egressLane e).samples
          x := if state = .alternate ∨ state = .reverting then (if x < 960 then x + 1 else x) else x - 1 })) ∧
      ∀ p, s.wanted p = false → (s.program p).change.state = .primary ∨ (s.program p).change.state = .wanted →
        (u.followThrough.program p).change.latch =
          if ∀ e, (s.mapEntry e).enabled = true → (s.mapEntry e).program = p → (u.egressLane e).x = 0 then none
          else (s.program p).change.latch

/-- The exact arithmetic of a program's sound and of its measurement. The converter at unity: a house-locked
program's output, and an output through the identity bank, is the sample of the word at floor(P) as a reader
receives it, and no clip falls. A gain of 2^20 and an open fade leave a sample as it is, a silent fade gives 0, the
crossfade gives the primary at 0 and the alternate at 960, and a ramp arrives at the new linear gain after 480 house
samples whatever it started from (R51, R62, R63, R66, R67, R119, R120, R153). A linear gain and a loudness are the
exact values rounded to nearest, ties upward (R98, R119), and the integrated value of blocks that all lie in one bin
is that bin's centre so rounded (R100). A segment end forms the energy, the momentary and short-term values, the
histogram and the integrated value, reports SILENCE and LOUD, decides the gain by one step toward the desired gain
and offers it to the schedule, applies the cues behind the boundary, and makes the meter report when it is due, in
that order (R95 to R105, R106, R112, R116). The segment count past 2^32 − 1 and a block total past it are not stated
(log entries 6 and 7); which listed cues are taken when their stamps have no order is the model's choice (log entry
25), as is the value a SEGMENT_END freezes behind a SEGMENT_START of the same segment end (log entry 27); that every
listed cue behind the boundary acts is read from the manual by inference (log entry 23). -/
def Obligations.UnityIsExact : Prop :=
  (∀ (s : State) (p : Fin 16) (edge : Option Stamp) (P : ReadPos) (l : Fin 32),
    ((s.entry p).houseLocked = true ∨
      s.tables.banks[(s.entry p).bank] = Vector.replicate 65 identityPhase) →
    (s.convert p edge P l).value = (s.readWord edge l P.stamp).1 ∧
      (s.convert p edge P l).clipped = false) ∧
  (∀ y : Int, gainedSample y 1048576 = y ∧ fadedSample y 480 = y ∧ fadedSample y 0 = 0) ∧
  (∀ a b : Int × Bool, mixSample a b 0 = a ∧ mixSample a b 960 = b) ∧
  (∀ (g : Gain) (value : Int),
    let ramped := Nat.repeat Gain.stepRamp 480 (g.startRamp value)
    ramped.linear = linearGain value ∧ ramped.rampStep = 480 ∧ ramped.applied = value ∧
      ramped.schedule = g.schedule) ∧
  (∀ g : Int, -3000 ≤ g → g ≤ 2000 →
    ((2 * linearGain g - 1 : Int) : ℚ) ^ 2000 ≤ 2 ^ 42000 * 10 ^ g ∧
      2 ^ 42000 * 10 ^ g < ((2 * linearGain g + 1 : Int) : ℚ) ^ 2000) ∧
  (∀ num den : Nat, 0 < den →
    let n := loudness num den
    let energy : ℚ := num / den
    (num = 0 → n = -7000) ∧ -7000 ≤ n ∧ n ≤ 3543 ∧ (-7000 < n → (10 : ℚ) ^ (5 * n + 343) ≤ energy ^ 5000) ∧
      (num ≠ 0 → n < 3543 → energy ^ 5000 < (10 : ℚ) ^ (5 * (n + 1) + 343))) ∧
  (∀ (i : Fin 300) (count : Nat) (absGate relGate : Int), 0 < count → relGate ≤ -500 →
    integratedValue [(i.val, count)] absGate relGate =
      if absGate ≤ -7000 + 25 * i.val then -6987 + 25 * (i.val : Int) else -7000) ∧
  ∀ (s : State) (p : Fin 16),
    let x := s.program p
    let m := x.meter
    let e := s.entry p
    let f := s.tables.profiles[e.profile]
    let unit := (s.classOf p).segment * 1000 * 2 ^ 46
    let energies := m.history ++ [((e.weights.toList.zip m.members).map fun wm => wm.1 * wm.2.sum).sum]
    let history := energies.drop (energies.length - 30)
    let block := history.drop (history.length - 4)
    let momentary := loudness block.sum (block.length * unit)
    let short := loudness history.sum (history.length * unit)
    let enters := m.integration = .opened ∧ block.length = 4 ∧ block.sum ≠ 0 ∧
      (10 : ℚ) ^ (-34657 : Int) ≤ ((block.sum : ℚ) / (4 * unit : Nat)) ^ 5000 ∧ f.absGate ≤ momentary
    let desired := max (-f.maxCut) (min (f.target - short) f.maxBoost)
    let stepped :=
      if desired < x.gain.scheduled then max desired (x.gain.scheduled - f.attack)
      else if x.gain.scheduled < desired then min desired (x.gain.scheduled + f.release)
      else x.gain.scheduled
    let next := max (-3000) (min stepped 2000)
    let decides := 4 ≤ history.length ∧ f.holdGate ≤ short ∧ x.holds.freeze = 0 ∧
      (next ≠ x.gain.scheduled ∨ x.gain.reissue = true)
    let taken := { x.gain with scheduled := next, reissue := false }
    0 ≤ f.maxBoost → 0 ≤ f.maxCut →
    ∃ (segments : BitVec 32) (histogram : Vector Nat 300) (gain : Gain),
      let integrated := integratedValue
        (((List.finRange 300).map fun i => (i.val, histogram[i])).filter fun b => b.2 != 0) f.absGate f.relGate
      let apply (r : Vector Nat 300 × Integration × Option SegmentRecord × List CloseReport)
          (c : Stamp × CueType) : Vector Nat 300 × Integration × Option SegmentRecord × List CloseReport :=
        match c.2, r.2.1 with
        | .segmentStart, _ => (Vector.replicate 300 0, .opened, r.2.2)
        | .segmentEnd, .opened => (r.1, .closed,
            some ⟨integrated, c.1, blockTotal r.1.toList.sum, segments⟩, r.2.2.2 ++ [⟨integrated, f.target⟩])
        | _, _ => r
      let applied := (m.cues.filter fun c => behind c.1 m.boundary).foldl apply
        (histogram, m.integration, m.record, x.events.closes)
      let due := e.meterInterval ≠ 0 ∧ e.meterInterval ≤ m.reportCount + 1
      let report : MeterReport :=
        { node := s.tables.settings.node, program := p, play := x.play.state, integration := applied.2.1
          segments := segments, momentary := momentary, shortTerm := short
          integrated := match applied.2.1, applied.2.2.1 with
            | .closed, some r => r.value
            | _, _ => integrated
          scheduled := gain.scheduled, applied := gain.applied, delay := x.servo.delay
          mode := x.servo.mode, peaks := m.members.map (·.peak) }
      s.endSegment p = s.setProgram p { x with
        meter := { m with
          segments := segments
          boundary := m.boundary + BitVec.ofNat 32 (s.classOf p).segment
          members := m.members.map fun (y : MemberMeter) => { y with sum := 0, peak := 0 }
          history := history, momentary := momentary, shortTerm := short, integrated := integrated
          histogram := applied.1, integration := applied.2.1, record := applied.2.2.1
          cues := m.cues.filter fun c => !behind c.1 m.boundary
          reportCount := if e.meterInterval = 0 ∨ due then 0 else m.reportCount + 1
          report := if due ∧ s.tables.settings.node ≠ 0 then some report else m.report }
        gain := gain
        events := { x.events with
          levels := x.events.levels ++ [⟨momentary, short, f.target⟩], closes := applied.2.2.2 } } ∧
      (m.segments ≠ 4294967295 → segments = m.segments + 1) ∧
      (¬ enters → histogram = m.histogram) ∧
      (enters → ∀ i : Fin 300, histogram[i] = if i.val = min ((momentary + 7000) / 25).toNat 299 then
        min (m.histogram[i] + 1) 4294967295 else m.histogram[i]) ∧
      (¬ decides → gain = x.gain) ∧
      (decides →
        (∀ P, x.conv.pos = some P → ahead m.boundary P.stamp = false → gain = { taken with
          applied := next, rampStart := x.gain.linear, rampEnd := linearGain next, rampStep := 0 }) ∧
        ((∀ P, x.conv.pos = some P → ahead m.boundary P.stamp = true) →
          (x.gain.schedule.length < 128 → ∃ before after, x.gain.schedule = before ++ after ∧
            (∀ y ∈ before, ahead y.stamp m.boundary = false) ∧
            (∀ y ∈ after.head?, ahead y.stamp m.boundary = true) ∧
            gain = { taken with schedule := before ++ .gain m.boundary next :: after }) ∧
          (128 ≤ x.gain.schedule.length →
            (∀ before t v after, x.gain.schedule = before ++ .gain t v :: after →
              (∀ y ∈ after, y.code ≠ 0) → gain = { taken with
                schedule := before ++ .gain t next :: after
                coalesces := min (x.gain.coalesces + 1) 65535 }) ∧
            ((∀ y ∈ x.gain.schedule, y.code ≠ 0) → gain = { x.gain with
              gainDrops := min (x.gain.gainDrops + 1) 65535 }))))

/-- ALARM_TICK: the idle time of every lane that is not PARKED rises by one, the picture idle time of every FOLLOW
program that is not PARKED, and the revert count of every REVERTING program under AUTO; every enabled rule is judged
outside strap fault by its condition, present as its kind says of the period that closes or of the part as it
stands; nothing else changes (R6, R20, R22, R88, R103, R104, R125 to R127, R151, R156). pictureDue, pictureLate and
revertDue, and the due mark that a judged record takes, are the model's own fields, which hold a step that is due
(log entry 4). -/
def Obligations.AlarmTickCounts : Prop :=
  ∀ s : State, s.atRest → s.house.toTick = 0 →
    ∃ t, exec .alarmTick s = .next t ∧
      t = { s with
        lanes := t.lanes, programs := t.programs
        rx := { s.rx with trunkSeen := s.rx.framing != .locked }
        alarm := { s.alarm with records := t.alarm.records, shedSeen := false }
        house := { s.house with leftLocked := false, toTick := 48 } } ∧
      (∀ l, t.lane l = { s.lane l with
        idle := if (s.lane l).status = .parked then (s.lane l).idle else min ((s.lane l).idle + 1) 65535 }) ∧
      (∀ p,
        let x := s.program p
        let y := t.program p
        y = { x with
          events := {}
          servo := { x.servo with
            pictureIdle := if s.active p = true ∧ (s.entry p).delayMode = .follow then
              min (x.servo.pictureIdle + 1) 65535 else x.servo.pictureIdle
            pictureDue := y.servo.pictureDue, pictureLate := y.servo.pictureLate }
          change := { x.change with
            revert := if x.change.state = .reverting ∧ (s.entry p).revertMode = .auto then
              x.change.revert + 1 else x.change.revert
            revertDue := y.change.revertDue } } ∧
        (x.change.state = .reverting → (s.entry p).revertMode = .auto →
          (y.change.revertDue = true ↔ (s.entry p).revertTime ≤ x.change.revert + 1)) ∧
        (s.active p = true → (s.entry p).delayMode = .follow →
          (y.servo.pictureDue = true ∨ y.servo.pictureLate = true ↔
            (s.entry p).pictureTimeout ≤ min (x.servo.pictureIdle + 1) 65535))) ∧
      ∀ r,
        let rl := s.rule r
        let present : Prop := match rl.scope with
          | some p =>
            let x := s.program p
            (s.entry p).defined = true ∧ s.active p = true ∧
              match rl.kind with
              | .silence => ∃ v ∈ x.events.levels, v.momentary < rl.level
              | .loud => ∃ v ∈ x.events.levels, v.target + rl.level < v.shortTerm
              | .segment => ∃ v ∈ x.events.closes, rl.level < |v.value - v.target|
              | .overload => x.events.overload = true
              | .loss => ∃ l ∈ (s.entry p).members, (s.lane l).status = .lost ∨
                  ((s.lane l).status ≠ .parked ∧ (s.laneEntry l).lostTime ≤ min ((s.lane l).idle + 1) 65535)
              | .impaired => (rl.timing = .arrival ∧ x.events.arrival = true) ∨
                  (rl.timing = .air ∧ x.events.air = true)
              | .picture => (s.entry p).delayMode = .follow ∧
                  (s.entry p).pictureTimeout ≤ min (x.servo.pictureIdle + 1) 65535
              | .clamp => x.servo.clamped = true
              | .clock => x.conv.trim = 8389 ∨ x.conv.trim = -8389
              | .trunk | .reference | .shed => False
          | none => match rl.kind with
            | .trunk => s.rx.framing ≠ .locked ∨ s.rx.trunkSeen = true
            | .reference => s.tables.settings.select = .external ∧
                (s.house.reference ≠ .locked ∨ s.house.leftLocked = true)
            | .shed => s.alarm.shedSeen = true
            | _ => False
        (s.strapFault = true ∨ rl.enabled = false → t.record r = s.record r) ∧
        (s.strapFault = false → rl.enabled = true →
          (present → t.record r = (s.record r).tick rl true) ∧
          (¬ present → t.record r = (s.record r).tick rl false))

/-- EGRESS_WARM_UP_END and EGRESS_FRAME_START: the first begins the first frame period and sends nothing; the second
sends the frame of the period just ended, behind its sync pattern and number, with 128 slots, and begins the next. The
AUDIO parcel of every enabled lane stands at its slot; the free slots, ascending, carry at most four control parcels,
of the replies, the cues, the notices and the meter reports in rotation in that order, then the passthrough queue as
far as it fits, and then EMPTY slots; what was taken has left its queue, a rule's notice with its mark and changes,
and each departure has queued the lowest-indexed owed rule at the tail (R144). Each lane's sequence rises and nothing
is owed, and the stored map governs from here, a lane it changes at the end of its crossfade that its program calls
for, with sequence 0 where a write enabled or retagged it (R118, R143, R144, R150, R152, R159, R161, R163, R168).
Where an alarm tick is due as well, the frame start is taken ahead of the tick it falls together with (R150): no owed
rule is queued yet, so that the tick's notices of rules not owed take the places ahead of any owed rule (R144), and
what is left goes to the owed rules in ascending index before an order or a house sample is taken; when they take it
is the model's choice (log entry 10). The AUDIO stamp as the held house stamp less 12 is the model's reading of it
(log entry 9), and sampleFrom, none from here to the next house sample, is the model's own field (log entry 28). -/
def Obligations.FramesAreSent : Prop :=
  let owedRules (s : State) (places : Nat) := ((List.finRange 64).filter fun r => (s.record r).owed).take places
  let placed (s : State) : State := { s with alarm := { s.alarm with
    notices := s.alarm.notices ++ (owedRules s (16 - s.alarm.notices.length)).map s.noticeOf
    records := Vector.ofFn fun r => if r ∈ owedRules s (16 - s.alarm.notices.length) then
      { s.record r with owed := false, queued := true } else s.record r } }
  (∀ s : State, s.atRest →
    (s.house.warmedUp = false → s.house.warmUpLeft = 0 →
      ∃ t, exec .egressWarmUpEnd s = .next t ∧
        t.house = { s.house with warmedUp := true, toFrame := 12 } ∧ t.egress.number = s.egress.number ∧
        t.egress.sent = s.egress.sent ∧ t.egress.passthrough = s.egress.passthrough ∧
        t.orders = s.orders ∧ t.tables = s.tables ∧ t.rx = s.rx ∧ t.lanes = s.lanes ∧ t.mem = s.mem ∧
        t.egress.pending = Vector.replicate 32 none ∧ t.egress.sampleFrom = none ∧
        ∀ e, t.mapEntry e = if s.egress.pending[e].isSome then s.tables.map[e] else s.mapEntry e) ∧
    (s.house.warmedUp = true → s.house.toFrame = 0 → s.slotsOk → s.parcelsOk → s.noticesOk →
      let free := (List.finRange 128).filter fun k => s.strapFault ||
        (List.finRange 32).all fun e => !((s.mapEntry e).enabled && (s.mapEntry e).slot == k)
      let places := if s.strapFault then 0 else 4
      let replies := s.orders.replies.take places
      let cues := s.egress.outbox.take (places - replies.length)
      let notices := s.alarm.notices.take (places - replies.length - cues.length)
      let reporting := (s.reportOrder.filter fun p => (s.program p).meter.report.isSome).take
        (places - replies.length - cues.length - notices.length)
      let control :=
        (replies.zipIdx.map fun r => r.1.bytes s.nodeByte (s.orders.overflow && r.2 == 0) (s.house.stamp - 12)) ++
        (cues.map fun c => c.bytes s.nodeByte) ++
        (notices.map fun n => n.bytes s.tables.rules (s.tables.settings.node.setWidth 8) s.nodeByte
          (s.house.stamp - 12)) ++
        (reporting.filterMap fun p => (s.program p).meter.report.map fun r =>
          r.bytes s.nodeByte (s.house.stamp - 12))
      let left (r : Fin 64) : Prop := ∃ n ∈ notices, n.isOf r = true
      let queued := if s.house.toTick = 0 then []
        else owedRules s (16 - (s.alarm.notices.length - notices.length))
      ∃ t slots, exec .egressFrameStart s = .next t ∧
        t.egress.sent = some ⟨⟨.sync, .data 0xC5, .data (BitVec.ofNat 8 (s.egress.number.toNat / 256)),
          .data (BitVec.ofNat 8 s.egress.number.toNat)⟩, slots⟩ ∧
        t.egress.number = s.egress.number + 1 ∧
        t.house = { s.house with toFrame := 12 } ∧
        t.tables = s.tables ∧ t.rx = s.rx ∧ t.lanes = s.lanes ∧ t.mem = s.mem ∧
        t.orders = { s.orders with
          replies := s.orders.replies.drop replies.length
          overflow := s.orders.overflow && replies.isEmpty } ∧
        t.egress.outbox = s.egress.outbox.drop cues.length ∧
        t.alarm.notices = s.alarm.notices.drop notices.length ++ queued.map s.noticeOf ∧
        (∀ r, (left r → t.record r = { s.record r with queued := false, changes := 0 }) ∧
          (r ∈ queued → t.record r = { s.record r with owed := false, queued := true }) ∧
          (¬ left r → r ∉ queued → t.record r = s.record r)) ∧
        (∀ p, (t.program p).meter = { (s.program p).meter with
          report := if p ∈ reporting then none else (s.program p).meter.report }) ∧
        t.egress.rotation = reporting.getLast?.or s.egress.rotation ∧
        t.egress.passthrough = s.egress.passthrough.drop (free.length - control.length) ∧
        t.egress.shed = s.egress.shed ∧
        t.egress.pending = Vector.replicate 32 none ∧ t.egress.sampleFrom = none ∧
        (∀ e, t.mapEntry e = if s.egress.pending[e].isSome then s.tables.map[e] else s.mapEntry e) ∧
        slots.length = 128 ∧ (∀ b ∈ slots, b.length = 84) ∧
        (∀ i (h : i < free.length), slots[free[i].val]? =
          some ((control ++ s.egress.passthrough).getD i (sealSlot []))) ∧
        (s.strapFault = false → ∀ e, (s.mapEntry e).enabled = true →
          slots[(s.mapEntry e).slot.val]? = some (audioParcelBytes s.nodeByte (s.mapEntry e).tag
            (s.egressLane e).seq ((s.egressLane e).samples.any (·.2)) (s.egressLane e).owed
            (s.house.stamp - 12) ((s.egressLane e).samples.map (·.1)))) ∧
        ∀ e,
          let audible := s.strapFault = false ∧ (s.mapEntry e).enabled = true
          let source := (s.program s.tables.map[e].program).change.state
          t.egressLane e =
            { samples := []
              x := if s.egress.pending[e] = none then (s.egressLane e).x
                else if source = .alternate ∨ source = .reverting then 960 else 0
              seq := if s.egress.pending[e] = some true then 0
                else if audible then (s.egressLane e).seq + 1 else (s.egressLane e).seq
              owed := (s.egressLane e).owed && !(audible || s.egress.pending[e] == some true) }) ∧
    (s.house.toTick ≠ 0 → (s.house.warmedUp = true → s.house.toFrame ≠ 0) →
      (s.house.warmedUp = false → s.house.warmUpLeft ≠ 0) →
      ∃ t, exec .houseSample s = .next t ∧
        t.alarm.notices = (placed s).alarm.notices ∧ ∀ r, t.record r = (placed s).record r)) ∧
  ∀ (s : State) (o : Order), s.urgentStep = none → s.nextOrder = some o → exec o.row s = exec o.row (placed s)

/-! ## What a reset brings after it (R52, R146, R175 to R177) -/

/-- AUTO_START and RESET_ORDER_DONE. In strap fault nothing is started. Otherwise the defined auto-start programs
are taken in ascending index, each checked as START checks it against what the earlier ones left, started when it
passes and counted when it fails; and after a reset by the line or the RESET order with a management node the
STARTED notice with the cause, the programs started and the count goes to the head of the notice queue, a 16th
notice at the tail leaving unsent, its rule owed with its changes kept. The RESET is answered DONE, or in strap
fault dropped without a reply (R12, R52, R146, R176, R177). -/
def Obligations.ResetsEndInOrder : Prop :=
  ∀ s : State, s.running = true →
    (s.house.warmedUp = true → s.orders.autoStarted = false →
      let begun := { s with orders := { s.orders with autoStarted := true } }
      let told := s.orders.cause ≠ .power ∧ s.tables.settings.node ≠ 0
      let asks (q : Fin 16) : Bool := (s.entry q).defined && (s.entry q).autoStart
      let stage (n : Nat) : State := ((List.finRange 16).take n).foldl
        (fun u q => if asks q && u.startRefusal q == none then u.startProgram q else u) begun
      let started := (List.finRange 16).filter fun q => asks q && (stage q.val).startRefusal q == none
      let failed := ((List.finRange 16).filter fun q => asks q && (stage q.val).startRefusal q != none).length
      let after := stage 16
      let note := Notice.started s.orders.cause started failed
      (s.strapFault = true → exec .autoStart s = .next begun) ∧
      (s.strapFault = false → ¬ told → exec .autoStart s = .next after) ∧
      (s.strapFault = false → told → s.alarm.notices.length < 16 →
        exec .autoStart s = .next { after with alarm :=
          { after.alarm with notices := note :: s.alarm.notices } }) ∧
      (s.strapFault = false → told → 16 ≤ s.alarm.notices.length → ∃ t, exec .autoStart s = .next t ∧
        t = { after with alarm :=
          { after.alarm with notices := note :: s.alarm.notices.dropLast, records := t.alarm.records } } ∧
        ∀ r, t.record r = if ∃ n ∈ s.alarm.notices.getLast?, n.isOf r = true then
          { s.record r with queued := false, owed := true } else s.record r)) ∧
    (s.orders.unit = .resetPending → s.orders.resetDone = true → s.orders.autoStarted = true →
      (∀ o, s.strapFault = false → s.orders.owing = some o →
        exec .resetOrderDone s = .next { s with orders := { s.orders with
          unit := .idle, owing := none, resetDone := false
          replies := s.orders.replies ++ [⟨o.replyTo, o.tag, o.kind, .done, []⟩] } }) ∧
      (s.strapFault = true → exec .resetOrderDone s = .next { s with orders := { s.orders with
        unit := .idle, owing := none, resetDone := false } }))
/-! ## Lanes and programs of themselves (Chapters 2, 3 and 5) -/

/-- LANE_STALLED and LANE_LOST: a RECEIVING lane idle for 2 ms is STALLED; an ARMED, RECEIVING or STALLED lane idle
for its lost time is LOST, and the program it leads is told at once: RUNNING enters HOLDOVER and WARMING RESYNCING,
any glide or jump ended and G at 0, and in every other state nothing further comes of it. PICTURE_TIMEOUT marks the
PICTURE condition present, and AUTO_REVERT brings a REVERTING program whose revert count has reached its revert time
to PRIMARY (R20, R22, R43, R44, R45, R47, R88, R156). The revert count kept in PRIMARY and the warm-up remaining
kept outside WARMING are the model's choice (log entry 12), and so is a G fixed for the house sample dropped on
leaving RUNNING or WARMING (log entry 29); pictureDue, pictureLate and revertDue are the model's own fields, which
hold a step that is due (log entry 4). -/
def Obligations.TimeoutsTakeEffect : Prop :=
  ∀ s : State, s.running = true →
    (∀ p : Fin 16,
      let x := s.program p
      (x.servo.pictureDue = true → exec (.pictureTimeout p) s = .next (s.setProgram p { x with servo :=
        { x.servo with pictureDue := false, pictureLate := true } })) ∧
      (x.change.state = .reverting → x.change.revertDue = true →
        exec (.autoRevert p) s = .next (s.setProgram p { x with change :=
          { x.change with state := .primary, revertDue := false } }).followThrough)) ∧
    ∀ l : Fin 32,
    ((s.lane l).status = .receiving → 2 ≤ (s.lane l).idle →
      exec (.laneStalled l) s = .next (s.setLane l { s.lane l with status := .stalled })) ∧
    ((s.lane l).status = .armed ∨ (s.lane l).status = .receiving ∨ (s.lane l).status = .stalled →
      (s.laneEntry l).lostTime ≤ (s.lane l).idle → ∀ p, s.memberOf l p →
      let lost := s.setLane l { s.lane l with status := .lost }
      let x := s.program p
      (s.leader p ≠ some l ∨ x.play.state = .priming ∨ x.play.state = .holdover ∨
          x.play.state = .resyncing ∨ x.play.state = .parking →
        exec (.laneLost l) s = .next lost) ∧
      (s.leader p = some l → x.play.state = .running →
        exec (.laneLost l) s = .next (lost.setProgram p { x with
          play := { x.play with state := .holdover }
          conv := { x.conv with glide := 0, hold := false, fixed := x.conv.fixed.map fun f => (f.1, 0) }
          servo := { x.servo with mode := .track, phase := none } }).followThrough) ∧
      (s.leader p = some l → x.play.state = .warming → x.conv.pos ≠ none →
        exec (.laneLost l) s = .next (lost.setProgram p { x with
          play := { x.play with state := .resyncing, resyncs := min (x.play.resyncs + 1) 65535 }
          conv := { x.conv with glide := 0, hold := false, fixed := x.conv.fixed.map fun f => (f.1, 0) }
          servo := { x.servo with mode := .track, phase := none } }).followThrough))

/-- FILL_REACHED and WARM_UP_END: in PRIMING with W − P at least F*, P becomes W − F* with fraction 0 and the
program enters WARMING with its warm-up to count, and at once RESYNCING if its leader is LOST; as `State.MovesTo`
says, the schedule plays out to P, the cues it reaches are forwarded, and what the retired edge leaves behind
becomes EMPTY; a warm-up counted down leads to RUNNING, its elapsed flag yes, in TRACK with G at 0 (R33, R42, R43,
R58, R117, R118). The warm-up remaining kept in RESYNCING (log entry 12), a G fixed for the house sample dropped
there (log entry 29), and which entries have left and which stamp the edge takes where stamps are spread too wide
for one order (log entry 25), are the model's choices; a forwarded cue's tag and stamp are read from the manual by
inference (log entries 18 and 9); the program kept with a cue in the outbox is the model's own (log entry 28). -/
def Obligations.FillAndWarmUpComplete : Prop :=
  ∀ (s : State) (p : Fin 16), s.running = true →
    let x := s.program p
    (∀ P W, x.play.state = .priming → x.conv.pos = some P → s.leaderHorizon p = some W →
      (x.servo.fill : Int) * 16777216 ≤ stampDiff W P.stamp * 16777216 - P.frac.toNat →
      ∃ u v : State, exec (.fillReached p) s = .next v.followThrough ∧
        s.MovesTo p (W - BitVec.ofNat 32 x.servo.fill) u ∧
        let y := u.program p
        let warm := { x.play with state := .warming, warmUpLeft := 48 * x.play.warmUpSet }
        (s.leaderLost p = false → v = u.setProgram p { y with play := warm }) ∧
        (s.leaderLost p = true → v = u.setProgram p { y with
          play := { warm with state := .resyncing, resyncs := min (x.play.resyncs + 1) 65535 }
          conv := { y.conv with glide := 0, fixed := y.conv.fixed.map fun f => (f.1, 0) }
          servo := { x.servo with mode := .track, phase := none } })) ∧
    (x.play.state = .warming → x.play.warmUpLeft = 0 →
      exec (.warmUpEnd p) s = .next (s.setProgram p { x with
        play := { x.play with state := .running, elapsed := true }
        conv := { x.conv with glide := 0 }
        servo := { x.servo with mode := .track, phase := none } }).followThrough)

/-- RESYNC_FLUSH: every member's ring is flushed, the schedule discarded, the meter's segment history cleared and
its histogram kept, P and M absent, T, Gs, Ga and the delay target kept, the warm-up set to 20 ms and the
elapsed flag no, PRIMING entered, a discontinuity owed on every lane the program feeds; the member lanes keep
states and idle times (R34, R48, R107, R121, R160). The segment boundary and the meter's members, held as 0 and none
while the meter has no position, are the model's choice (log entry 20), and so is the warm-up remaining kept
into PRIMING (log entry 12). -/
def Obligations.ResyncFlushes : Prop :=
  ∀ (s : State) (p : Fin 16), s.running = true → s.playState p = .resyncing → (s.program p).play.fade = 0 →
    ∃ t, exec (.resyncFlush p) s = .next t ∧
      (∀ l ∈ (s.entry p).members,
        t.lane l = { s.lane l with taint := 0, horizon := none, lastSeq := none } ∧
        ∀ i, (s.laneEntry l).inRegion i = true → t.mem.find i = none) ∧
      (∀ l, l ∉ (s.entry p).members → t.lane l = s.lane l) ∧
      (∀ i, (∀ l ∈ (s.entry p).members, (s.laneEntry l).inRegion i = false) →
        t.mem.find i = s.mem.find i) ∧
      (let x := s.program p
        let y := t.program p
        y.play = { x.play with state := .priming, target := .silent, warmUpSet := 20, elapsed := false } ∧
        y.conv = { x.conv with pos := none, glide := 0, hold := false, fixed := none } ∧
        y.servo = x.servo ∧ y.holds = x.holds ∧
        y.meter = { x.meter with
          pos := none, origin := none, boundary := 0, segments := 0, members := [], history := []
          cues := [], reportCount := 0 } ∧
        y.gain = { x.gain with
          schedule := [], linear := linearGain x.gain.applied, rampStart := linearGain x.gain.applied
          rampEnd := linearGain x.gain.applied, rampStep := 480
          reissue := x.gain.reissue || x.gain.scheduled != x.gain.applied }) ∧
      (∀ e, (t.egressLane e).x = (s.egressLane e).x ∧ (t.egressLane e).seq = (s.egressLane e).seq ∧
        (t.egressLane e).samples = (s.egressLane e).samples ∧
        ((t.egressLane e).owed = true ↔ (s.egressLane e).owed = true ∨ s.feeds p e = true)) ∧
      t.tables = s.tables ∧ t.orders = s.orders ∧ t.rx = s.rx ∧ t.house = s.house ∧
      t.alarm.records = s.alarm.records ∧ t.alarm.notices = s.alarm.notices ∧
      t.egress.outbox = s.egress.outbox ∧
      ∀ q, q ≠ p → t.program q = { s.program q with
        play := { (s.program q).play with target := (t.program q).play.target }
        change := (t.program q).change }

/-- PARKING_END: every member lane PARKED and its ring flushed; the schedule discarded, gains, trim, glide and meter
at rest, P and M absent; every record scoped to the program CLEAR with its counts and timers at 0, one that was
RAISED, RELEASING or in ACK_WAIT by a PARKED change with its notice, the notices in ascending rule index, a rule
already owed staying owed, and a record in QUALIFYING silently; the program's hold counts then 0; a program changed
over to it in WANTED or PRIMARY at once; the program PARKED with its counters kept; and the PARK answered DONE (R49,
R71, R90, R108, R122, R138, R142 to R144, R157, R166). The segment boundary and the meter's members, held as 0 and
none while the meter has no position (log entry 20), the last error of 0, which R90 does not name, and the warm-up
remaining kept (log entry 12) are the model's choices; the re-evaluation after a latch clears is read from the manual
by inference (log entry 23). -/
def Obligations.ParkingEnds : Prop :=
  ∀ (s : State) (p : Fin 16) (o : PendingOrder), s.running = true → s.playState p = .parking →
    (s.program p).play.fade = 0 → s.orders.unit = .parkPending → s.orders.owing = some o →
    ∃ t, exec (.parkingEnd p) s = .next t ∧
      (∀ l ∈ (s.entry p).members,
        t.lane l = { s.lane l with status := .parked, taint := 0, horizon := none, lastSeq := none } ∧
        ∀ i, (s.laneEntry l).inRegion i = true → t.mem.find i = none) ∧
      (∀ l, l ∉ (s.entry p).members → t.lane l = s.lane l) ∧
      (∀ i, (∀ l ∈ (s.entry p).members, (s.laneEntry l).inRegion i = false) →
        t.mem.find i = s.mem.find i) ∧
      (let x := s.program p
        let y := t.program p
        y.play = { x.play with state := .parked, target := .silent } ∧
        y.conv = { x.conv with
          pos := none, trim := 0, glide := 0, hold := false, fixed := none } ∧
        y.servo = {} ∧ y.meter = { cueOverflows := x.meter.cueOverflows } ∧
        y.gain = { x.gain with
          scheduled := 0, applied := 0, linear := 1048576, rampStart := 1048576, rampEnd := 1048576
          rampStep := 480, reissue := false, schedule := [] }) ∧
      (s.holdsOk → (t.program p).holds = { mute := 0, freeze := 0, holdDelay := 0, changeover := 0 }) ∧
      (∀ r, (s.rule r).scope ≠ some p → t.record r = s.record r) ∧
      (let noticed := (List.finRange 64).filter fun r => (s.rule r).scope == some p &&
          (s.record r).state != .clear && (s.record r).state != .qualifying && (s.rule r).notice &&
          s.tables.settings.node != 0
        let joining := (noticed.filter fun r => !(s.record r).queued && !(s.record r).owed).take
          (16 - s.alarm.notices.length)
        (∀ r, (s.rule r).scope = some p →
          let x := s.record r
          let cleared := { x with state := .clear, qual := 0, window := 0, stretch := 0, release := 0, due := none }
          (x.state = .clear → t.record r = x) ∧
          (x.state = .qualifying → t.record r = cleared) ∧
          (x.state ≠ .clear → x.state ≠ .qualifying → t.record r = { cleared with
            last := some .parked, lastStamp := s.house.stamp
            changes := if r ∈ noticed then min (x.changes + 1) 255 else x.changes
            queued := x.queued || decide (r ∈ joining)
            owed := if r ∈ noticed ∧ x.queued = false then decide (r ∉ joining) else x.owed })) ∧
        t.alarm.notices = (s.alarm.notices.map fun n => match n with
            | .rule r _ _ _ _ _ => if r ∈ noticed ∧ (s.record r).queued = true then t.noticeOf r else n
            | .started _ _ _ => n) ++ joining.map t.noticeOf) ∧
      (∀ q, q ≠ p → (s.program q).change.latch = some p →
        (s.program q).change.state = .alternate ∨ (s.program q).change.state = .reverting →
        let fits (b : Fin 16) : Prop := (s.entry q).alternate = some b ∧ b ≠ p ∧ s.healthy b = true
        let c := (t.program q).change
        (s.wanted q = false → c.state = .primary ∧ c.latch = if s.lanesHome q then none else some p) ∧
        (s.wanted q = true →
          (∀ b, s.lanesHome q = true → fits b → c.state = .alternate ∧ c.latch = some b) ∧
          (s.lanesHome q = false ∨ (∀ b, ¬ fits b) →
            c.state = .wanted ∧ c.latch = if s.lanesHome q then none else some p))) ∧
      t.orders = { s.orders with
        unit := .idle, owing := none
        replies := s.orders.replies ++ [⟨o.replyTo, o.tag, o.kind, .done, []⟩] } ∧
      t.tables = s.tables ∧ t.rx = s.rx ∧ t.house = s.house ∧ t.egress = s.egress

/-- The Delay Servo. JUMP_FADE_OUT_END and JUMP_RELEASE: with k at 0 a fill below F* makes the jump hold; with a
fill of at least F*, at the end of the fade or in HOLD, P becomes W − F* with fraction 0, the jump ends in TRACK,
and a discontinuity is owed on every lane the program feeds; as `State.MovesTo` says, the schedule plays out to P,
the last GAIN entry reached begins its ramp, the cues are forwarded, and what the retired edge leaves behind becomes
EMPTY; and the cues of a jump that a fade's end releases stand in ascending program with those placed since that
house sample began, the last of which a full outbox loses (R33, R58, R82, R83, R84, R117, R118, R160).
EGRESS_FRAME_START and EGRESS_WARM_UP_END update each RUNNING program, and no other: E is kept, and the first that
applies is done of an overrun, which resynchronizes; a jump's start, with G 0 and T kept; in TRACK nothing within
b1, one unit of trim within b2, the first glide beyond; in GLIDE ±Gmax by the sign of E, or back to TRACK within b1;
and in JUMP nothing. A house-locked program moves by jumping alone. The T and G that stood at the frame start are
kept for the house sample that begins there (R47, R48, R56, R57, R78, R79, R81, R82, R86). Which entries a jump's
move plays out, and which stamp the edge takes, where stamps are spread too wide for one order (log entry 25), that
a jump compares behind the advance of the house sample that brings k to 0, and the fields that tell which cues were
placed in it (log entry 28), and that an overrun drops the G that stood at the frame start (log entry 29) are the
model's choices; a forwarded cue's tag and stamp are read from the manual by inference (log entries 18 and 9). -/
def Obligations.JumpsMoveOrHold : Prop :=
  (∀ (s : State) (p : Fin 16) (P : ReadPos) (W : Stamp), s.running = true → s.playState p = .running →
    (s.program p).conv.pos = some P → s.leaderHorizon p = some W →
    let x := s.program p
    let full := (x.servo.fill : Int) * 16777216 ≤ stampDiff W P.stamp * 16777216 - P.frac.toNat
    let since := s.egress.outbox.drop (s.egress.sampleFrom.getD s.egress.outbox.length)
    let aside := { s with egress := { s.egress with
      outbox := s.egress.outbox.take (s.egress.sampleFrom.getD s.egress.outbox.length) ++
        since.filter fun c => decide (c.program ≤ p) } }
    let moves (c : Instr) (from_ : State) (later : List CueOut) : Prop :=
      ∃ (u v : State) (lanes : Vector EgressLane 32),
      exec c s = .next ({ v.setProgram p { v.program p with
        servo := { x.servo with mode := .track, phase := none } } with
          egress := { v.egress with lanes := lanes } }).followThrough ∧
      from_.MovesTo p (W - BitVec.ofNat 32 x.servo.fill) u ∧ u.PlacesBehind later v ∧
      ∀ e : Fin 32, lanes[e] = { s.egressLane e with owed := (s.egressLane e).owed || s.feeds p e }
    (x.servo.phase = some .fadeOut → x.play.fade = 0 →
      (¬ full → exec (.jumpFadeOutEnd p) s = .next (s.setProgram p { x with servo :=
        { x.servo with phase := some .hold } })) ∧
      (full → moves (.jumpFadeOutEnd p) aside (since.filter fun c => decide (p < c.program)))) ∧
    (x.servo.phase = some .hold → full → moves (.jumpRelease p) s [])) ∧
  ∀ (s : State) (c : Instr), s.atRest →
    (c = .egressFrameStart ∧ s.house.warmedUp = true ∧ s.house.toFrame = 0) ∨
      (c = .egressWarmUpEnd ∧ s.house.warmedUp = false ∧ s.house.warmUpLeft = 0) →
    ∃ t, exec c s = .next t ∧ ∀ p,
      let x := s.program p
      let y := t.program p
      let e := s.entry p
      y.play.fade = x.play.fade ∧ y.play.elapsed = x.play.elapsed ∧ y.gain = x.gain ∧ y.holds = x.holds ∧
      (x.play.state ≠ .running → y.play.state = x.play.state ∧ y.play.resyncs = x.play.resyncs ∧
        y.conv = x.conv ∧ y.servo = x.servo) ∧
      ∀ P W, x.play.state = .running → x.conv.pos = some P → s.leaderHorizon p = some W →
        let fill := stampDiff W P.stamp * 16777216 - P.frac.toNat
        let E := fill / 16777216 - x.servo.fill
        let b : BandSet := if e.bandSet = 0 then ⟨2, 16⟩ else if e.bandSet = 1 then ⟨4, 48⟩
          else if e.bandSet = 2 then ⟨12, 192⟩ else s.tables.band3
        let most := s.nominal p / 256
        let gmax := match e.glideRate with
          | .slow => s.nominal p / 4096
          | .medium => s.nominal p / 1024
          | .fast => most
        let kept := { x.conv with fixed := some (x.conv.trim, x.conv.glide) }
        let judged := { x.servo with error := E }
        let overrun := ((s.smallestRing p : Int) - 64) * 16777216 < fill
        let jumps := x.servo.mode ≠ .jump ∧ ((e.jumpThreshold ≠ 0 ∧ (e.jumpThreshold : Int) < |E|) ∨
          (e.houseLocked = true ∧ (b.b2 : Int) < |E|))
        let glides := y.conv = { kept with glide := max (-most) (min (if 0 < E then gmax else -gmax) most) } ∧
          y.servo = { judged with mode := .glide }
        (overrun → y.play.state = .resyncing ∧ y.play.resyncs = min (x.play.resyncs + 1) 65535 ∧
          y.conv = { kept with glide := 0, hold := false, fixed := some (x.conv.trim, 0) } ∧
          y.servo = { judged with mode := .track, phase := none }) ∧
        (¬ overrun → y.play.state = .running ∧ y.play.resyncs = x.play.resyncs ∧
          (jumps → y.conv = { kept with glide := 0 } ∧
            y.servo = { judged with mode := .jump, phase := some .fadeOut }) ∧
          (¬ jumps →
            (x.servo.mode = .jump → y.conv = kept ∧ y.servo = judged) ∧
            (x.servo.mode = .track →
              (|E| ≤ b.b1 ∨ e.houseLocked = true → y.conv = kept ∧ y.servo = judged) ∧
              (e.houseLocked = false → (b.b1 : Int) < |E| → |E| ≤ b.b2 →
                y.conv = { kept with trim := max (-8389) (min (x.conv.trim + if 0 < E then 1 else -1) 8389) } ∧
                y.servo = judged) ∧
              (e.houseLocked = false → (b.b1 : Int) < |E| → (b.b2 : Int) < |E| → glides)) ∧
            (x.servo.mode = .glide →
              (|E| ≤ b.b1 → y.conv = { kept with glide := 0 } ∧ y.servo = { judged with mode := .track }) ∧
              ((b.b1 : Int) < |E| → glides))))

/-! ## The Alarm Unit (Chapter 8) -/

/-- RECORD_RAISED, COUNT_WINDOW_END and RELEASE_END. A raise out of QUALIFYING or ACK_WAIT adds the rule's actions to
its program's hold counts and sets the stretch; one out of QUALIFYING raises the raise count; one out of ACK_WAIT is
unacknowledged. A window that ends short begins another, or ends in CLEAR without a present tick. The end of a release
leads to CLEAR, or to ACK_WAIT in MANUAL mode unacknowledged, its actions released. Each raise and release makes its
notice, in place, at the tail or owed; a rule already owed waits for its owed turn, whatever places a frame start
ahead of the tick has left (R133 to R136, R139, R142 to R144; that frame start's reading: log entry 10). The qualify
count and window tick kept on entering RAISED, the release count of 0 on entering RAISED out of QUALIFYING or
ACK_WAIT, and the release count kept on leaving RELEASING for CLEAR or ACK_WAIT, are the model's choice (log entry
12). The due mark of a record is the model's own way of holding the moves of one tick, and that a move which makes a
notice waits, as a whole, for every lower-indexed rule's move that makes one is the model's choice: R142 orders the
notices alone, R154 leaves open which is taken first (log entry 32). -/
def Obligations.RecordsMove : Prop :=
  ∀ (s : State) (r : Fin 64), s.running = true →
    let first := (s.rule r).notice = true → s.tables.settings.node ≠ 0 → ∀ k, k < r → (s.rule k).notice = true →
      (s.record k).due ≠ some .raise ∧ (s.record k).due ≠ some .release
    let x := s.record r
    let rl := s.rule r
    (first → x.due = some .raise → ∃ t, exec (.recordRaised r) s = .next t ∧ OnlyRecordMoves s t r ∧
      (let y := t.record r;
        y.state = .raised ∧ y.due = none ∧ y.release = 0 ∧ y.qual = x.qual ∧ y.window = x.window ∧
        y.stretch = (if x.state = .releasing then x.stretch else rl.stretch) ∧
        y.acked = (x.acked && x.state != .ackWait) ∧
        y.raises = (if x.state = .qualifying then min (x.raises + 1) 65535 else x.raises)) ∧
      NoticeMade s t r .raised rl.notice ∧
      ∀ p a, (t.program p).holds.count a = (s.program p).holds.count a +
        if rl.scope = some p ∧ rl.actions.has a = true ∧ x.state ≠ .releasing then 1 else 0) ∧
    (x.due = some .windowEnd → exec (.countWindowEnd r) s = .next (s.setRecord r { x with
      state := if x.qual = 0 then .clear else x.state, qual := 0, window := 0, due := none })) ∧
    (first → x.due = some .release → ∃ t, exec (.releaseEnd r) s = .next t ∧ OnlyRecordMoves s t r ∧
      (let y := t.record r;
        let closed := rl.ackMode = .auto ∨ x.acked = true;
        y = { x with
          state := if closed then .clear else .ackWait, due := none, last := y.last
          lastStamp := y.lastStamp, changes := y.changes, queued := y.queued, owed := y.owed } ∧
        (closed → NoticeMade s t r .cleared rl.notice) ∧
        (¬ closed → NoticeMade s t r .ackWait rl.notice)) ∧
      ∀ p a, (t.program p).holds.count a = (s.program p).holds.count a -
        if rl.scope = some p ∧ rl.actions.has a = true then 1 else 0)

/-- Judging. A PERSIST rule raises its record at the n-th present tick in a row, and an absent tick before it
returns the record to CLEAR. A COUNT rule raises at the n-th present tick of a window, and its window ends short at
its w-th tick without that. A raised record stays RAISED through its stretch, and then for as long as the condition
is present. A releasing record returns to RAISED at a present tick, and leaves at the absent tick that brings its
release count to the release time; one in ACK_WAIT is raised again by a present tick alone (R131 to R136). The due
mark by which raising, a window's end and release are said is the model's own field, which holds a move until it is
taken at that tick (log entry 4). -/
def Obligations.PersistRaisesAtNth : Prop :=
  ∀ (rl : Rule) (x : Record), 1 ≤ rl.n → 1 ≤ rl.w →
    (rl.qualify = .persist → x.state = .clear →
      let after (k : Nat) := Nat.repeat (fun y => Record.tick y rl true) k x
      (∀ k, 1 ≤ k → k < rl.n →
        (after k).state = .qualifying ∧ (after k).qual = k ∧ (after k).due = none ∧
          ((after k).tick rl false).state = .clear ∧ ((after k).tick rl false).due = none) ∧
      (after rl.n).state = .qualifying ∧ (after rl.n).due = some .raise) ∧
    (rl.qualify = .count → ∀ ticks : List Bool,
      let start := match x.state with
        | .qualifying => x.window = 0 ∧ x.qual = 0
        | .clear => ticks.head? = some true
        | _ => False
      start → ticks ≠ [] → ticks.length ≤ rl.w → ticks.dropLast.count true < rl.n →
      let y := ticks.foldl (fun y present => Record.tick y rl present) x
      y.state = .qualifying ∧ y.qual = ticks.count true ∧ y.window = ticks.length ∧
        y.due = if rl.n ≤ ticks.count true then some .raise
          else if ticks.length = rl.w then some .windowEnd else none) ∧
    (x.state = .clear → x.tick rl false = { x with due := none }) ∧
    (x.state = .raised →
      (∀ k present, k ≤ x.stretch →
        Nat.repeat (fun y => Record.tick y rl present) k x =
          { x with stretch := x.stretch - k, due := if k = 0 then x.due else none }) ∧
      (x.stretch = 0 → (x.tick rl true).state = .raised ∧
        (x.tick rl false).state = .releasing ∧ (x.tick rl false).release = 0 ∧
        (rl.releaseTime = 0 ↔ (x.tick rl false).due = some .release))) ∧
    (x.state = .releasing →
      x.tick rl true = { x with due := some .raise } ∧
      ∀ k, 1 ≤ k → Nat.repeat (fun y => Record.tick y rl false) k x =
        { x with release := x.release + k
                 due := if rl.releaseTime ≤ x.release + k then some .release else none }) ∧
    (x.state = .ackWait →
      x.tick rl true = { x with due := some .raise } ∧ x.tick rl false = { x with due := none })

/-! ## Orders (Chapter 10) -/

/-- The READs of lanes, programs, weightings, band sets, rules, the egress map and the settings: an index in range
is answered DONE with the selector and index echoed and the entry as it stands, any other is refused
REFUSED_INDEX; the part is otherwise unchanged (R168, R170). -/
def Obligations.ReadsReturnEntries : Prop :=
  ∀ (s : State) (o : Order), s.takesNow o →
    let t := s.dropHead
    let done (entry : List Byte) : Host.Outcome State Fault Refusal :=
      .next (t.answer o .done (o.args.take 2 ++ entry))
    let refused (status : Status) : Host.Outcome State Fault Refusal :=
      .next (t.answer o status [])
    (o.row = .readLane → (∀ l : Fin 32, o.index = l.val →
        exec .readLane s = done s.tables.lanes[l].bytes) ∧
      (32 ≤ o.index → exec .readLane s = refused .refusedIndex)) ∧
    (o.row = .readProgram → (∀ p : Fin 16, o.index = p.val →
        exec .readProgram s = done s.tables.programs[p].bytes) ∧
      (16 ≤ o.index → exec .readProgram s = refused .refusedIndex)) ∧
    (o.row = .readWeighting → (∀ i : Fin 5, o.index = i.val →
        exec .readWeighting s = done s.tables.weightings[i].bytes) ∧
      (5 ≤ o.index → exec .readWeighting s = refused .refusedIndex)) ∧
    (o.row = .readBandSet →
      (o.index = 0 → exec .readBandSet s = done [0, 2, 0, 16]) ∧
      (o.index = 1 → exec .readBandSet s = done [0, 4, 0, 48]) ∧
      (o.index = 2 → exec .readBandSet s = done [0, 12, 0, 192]) ∧
      (o.index = 3 → exec .readBandSet s = done s.tables.band3.bytes) ∧
      (4 ≤ o.index → exec .readBandSet s = refused .refusedIndex)) ∧
    (o.row = .readRule → (∀ r : Fin 64, o.index = r.val →
        exec .readRule s = done s.tables.rules[r].bytes) ∧
      (64 ≤ o.index → exec .readRule s = refused .refusedIndex)) ∧
    (o.row = .readEgressMap → (∀ e : Fin 32, o.index = e.val →
        exec .readEgressMap s = done s.tables.map[e].bytes) ∧
      (32 ≤ o.index → exec .readEgressMap s = refused .refusedIndex)) ∧
    (o.row = .readSettings → (o.index = 0 → exec .readSettings s = done s.tables.settings.bytes) ∧
      (1 ≤ o.index → exec .readSettings s = refused .refusedIndex))

/-- The nine STATUS orders: the reply carries the view as it stands before anything is cleared, and the clear option
then sets the target's counters to 0: of a lane three, of a rule one, of a program nine with the COUNTERS view and
refused REFUSED_VALUE with any other, of the part its own and every other counter; counts, queues and records beside
them stand (R36, R147, R172 to R174). The bytes of the views are those of the model's definitions: the layout of the
CHANGEOVER view (log entry 13) and the codes of the lines and the jump phase and the width of the count of owed
rules (log entry 14) are read from the manual by inference or chosen. That an index out of range is examined before
the clear option and the map index is the model's choice (log entry 26). -/
def Obligations.StatusReturnsViews : Prop :=
  ∀ (s : State) (o : Order), s.takesNow o →
    let t := s.dropHead
    let refused (status : Status) : Host.Outcome State Fault Refusal :=
      .next (t.answer o status [])
    let zeroed (x : Program) : Program := { x with
      play := { x.play with resyncs := 0 }
      conv := { x.conv with starved := 0, clips := 0 }
      gain := { x.gain with coalesces := 0, gainDrops := 0, cueDrops := 0, forwardDrops := 0, clips := 0 }
      meter := { x.meter with cueOverflows := 0 } }
    (o.row = .statusPart →
      (o.clear = false → exec .statusPart s = .next (t.answer o .done t.partView)) ∧
      (o.clear = true → ∃ u : State, exec .statusPart s = .next (u.answer o .done t.partView) ∧
        u = { t with
          rx := { t.rx with checkFails := 0, unknownKinds := 0, countErrors := 0, lockLosses := 0 }
          egress := { t.egress with shed := 0 }
          orders := { t.orders with drops := 0 }
          lanes := u.lanes, programs := u.programs, alarm := { t.alarm with records := u.alarm.records } } ∧
        (∀ l, u.lane l = { s.lane l with concealed := 0, late := 0, dropped := 0 }) ∧
        (∀ p, u.program p = zeroed (s.program p)) ∧
        ∀ r, u.record r = { s.record r with raises := 0 })) ∧
    (o.row = .statusLane → (∀ l : Fin 32, o.index = l.val →
        exec .statusLane s = .next ((if o.clear then
          t.setLane l { s.lane l with concealed := 0, late := 0, dropped := 0 } else t).answer o .done
            (s.laneView l))) ∧
      (32 ≤ o.index → exec .statusLane s = refused .refusedIndex)) ∧
    (o.row = .statusRule → (∀ r : Fin 64, o.index = r.val →
        exec .statusRule s = .next ((if o.clear then t.setRecord r { s.record r with raises := 0 }
          else t).answer o .done (s.ruleView r))) ∧
      (64 ≤ o.index → exec .statusRule s = refused .refusedIndex)) ∧
    (∀ p : Fin 16, o.index = p.val →
      (o.row = .statusProgramPlay → exec .statusProgramPlay s =
        if o.clear then refused .refusedValue else .next (t.answer o .done (s.playView p))) ∧
      (o.row = .statusProgramServo → exec .statusProgramServo s =
        if o.clear then refused .refusedValue else .next (t.answer o .done (s.servoView p))) ∧
      (o.row = .statusProgramMeter → exec .statusProgramMeter s =
        if o.clear then refused .refusedValue else .next (t.answer o .done (s.meterView p))) ∧
      (o.row = .statusProgramGain → exec .statusProgramGain s =
        if o.clear then refused .refusedValue else .next (t.answer o .done (s.gainView p))) ∧
      (o.row = .statusProgramChangeover → exec .statusProgramChangeover s =
        if o.clear = true ∨ 31 < field o.args 4 1 then refused .refusedValue
        else .next (t.answer o .done (s.changeoverView p (field o.args 4 1)))) ∧
      (o.row = .statusProgramCounters → exec .statusProgramCounters s =
        .next ((if o.clear then t.setProgram p (zeroed (s.program p)) else t).answer o .done
          (s.countersView p)))) ∧
    (16 ≤ o.index →
      (o.row = .statusProgramPlay → exec .statusProgramPlay s = refused .refusedIndex) ∧
      (o.row = .statusProgramServo → exec .statusProgramServo s = refused .refusedIndex) ∧
      (o.row = .statusProgramMeter → exec .statusProgramMeter s = refused .refusedIndex) ∧
      (o.row = .statusProgramGain → exec .statusProgramGain s = refused .refusedIndex) ∧
      (o.row = .statusProgramChangeover → exec .statusProgramChangeover s = refused .refusedIndex) ∧
      (o.row = .statusProgramCounters → exec .statusProgramCounters s = refused .refusedIndex))

/-- The profile table and READ of a coefficient bank (R69, R111). A profile WRITE is refused by its index alone;
otherwise each field is brought into its range by itself, whatever programs use the entry, and the entry is
stored, CLAMPED exactly when a field was changed; with a hold gate above the short-term value the Gain Law makes
no decision. A READ returns the entry, or the taps named of the bank, as they stand. -/
def Obligations.ProfilesAndTapsAnswer : Prop :=
  (∀ (s : State) (p : Fin 16) (boundary : Stamp),
    (s.program p).meter.shortTerm < s.tables.profiles[(s.entry p).profile].holdGate →
      s.decideGain p boundary = s) ∧
  ∀ (s : State) (o : Order), s.takesNow o →
    let t := s.dropHead
    let done (entry : List Byte) : Host.Outcome State Fault Refusal :=
      .next (t.answer o .done (o.args.take 2 ++ entry))
    let refused (status : Status) : Host.Outcome State Fault Refusal :=
      .next (t.answer o status [])
    (o.row = .writeProfile →
      (∀ i : Fin 8, o.index = i.val →
        let f := profileWrite o.args
        let g : Profile :=
          { target := max (-3600) (min f.target (-1000)), maxBoost := max 0 (min f.maxBoost 2000)
            maxCut := max 0 (min f.maxCut 3000), attack := max 1 (min f.attack 500)
            release := max 1 (min f.release 500), holdGate := max (-7000) (min f.holdGate 0)
            absGate := max (-7000) (min f.absGate (-2000)), relGate := max (-2000) (min f.relGate (-500)) }
        exec .writeProfile s = .next ({ t with tables :=
          { s.tables with profiles := s.tables.profiles.set i.val g i.isLt } }.answer o
            (if f = g then .done else .clamped) [])) ∧
      (8 ≤ o.index → exec .writeProfile s = .next (t.answer o .refusedIndex []))) ∧
    (o.row = .readProfile → (∀ i : Fin 8, o.index = i.val →
        exec .readProfile s = done s.tables.profiles[i].bytes) ∧
      (8 ≤ o.index → exec .readProfile s = refused .refusedIndex)) ∧
    (o.row = .readCoefficients →
      let first := field o.args 3 1
      let count := field o.args 4 1
      (∀ (b : Fin 4) (f : Fin 65), field o.args 1 1 = b.val → field o.args 2 1 = f.val →
        (first ≤ 31 → 1 ≤ count → count ≤ 16 → first + count ≤ 32 →
          exec .readCoefficients s = .next (t.answer o .done (o.args.take 5 ++
            ((s.tables.banks[b][f].toList.drop first).take count).flatMap fun c => beBytes 3 c.toInt))) ∧
        (31 < first ∨ count = 0 ∨ 16 < count ∨ 32 < first + count →
          exec .readCoefficients s = refused .refusedValue)) ∧
      (4 ≤ field o.args 1 1 ∨ 65 ≤ field o.args 2 1 →
        exec .readCoefficients s = refused .refusedIndex))

/-- WRITE of weightings, coefficients and band sets: each check in its order, the entry stored, a band set's values
brought into range, DONE or CLAMPED; nothing else changes (R68, R77, R94, R168). -/
def Obligations.SharedTablesAreWritten : Prop :=
  ∀ (s : State) (o : Order), s.takesNow o →
    let t := s.dropHead
    (o.row = .writeWeighting →
      (∀ cls : RateClass, o.index = cls.index.val →
        (s.classInUse cls = true → exec .writeWeighting s = .next (t.answer o .refusedInUse [])) ∧
        (s.classInUse cls = false → exec .writeWeighting s = .next ({ t with tables :=
          { s.tables with weightings :=
            s.tables.weightings.set cls.index.val (weightingWrite o.args) cls.index.isLt } }.answer o .done []))) ∧
      (5 ≤ o.index → exec .writeWeighting s = .next (t.answer o .refusedIndex []))) ∧
    (o.row = .writeCoefficients →
      let first := field o.args 3 1
      let count := field o.args 4 1
      let taps := first ≤ 31 ∧ 1 ≤ count ∧ count ≤ 16 ∧ first + count ≤ 32
      (∀ (b : Fin 4) (f : Fin 65), field o.args 1 1 = b.val → field o.args 2 1 = f.val →
        (s.bankInUse b = true → exec .writeCoefficients s = .next (t.answer o .refusedInUse [])) ∧
        (s.bankInUse b = false → ¬ taps → exec .writeCoefficients s = .next (t.answer o .refusedValue [])) ∧
        (s.bankInUse b = false → taps → ∃ u : State, exec .writeCoefficients s = .next (u.answer o .done []) ∧
          u = { t with tables := { s.tables with banks := u.tables.banks } } ∧
          ∀ (c : Fin 4) (g : Fin 65) (k : Fin 32), u.tables.banks[c][g][k] =
            if c = b ∧ g = f ∧ first ≤ k.val ∧ k.val < first + count then tapValue o.args (k.val - first)
            else s.tables.banks[c][g][k])) ∧
      (4 ≤ field o.args 1 1 ∨ 65 ≤ field o.args 2 1 →
        exec .writeCoefficients s = .next (t.answer o .refusedIndex []))) ∧
    (o.row = .writeBandSet →
      let b1 := field o.args 2 2
      let b2 := field o.args 4 2
      let c1 := max 1 (min b1 255)
      let c2 := max (c1 + 1) (min b2 4095)
      (o.index = 3 → exec .writeBandSet s = .next ({ t with tables :=
        { s.tables with band3 := ⟨c1, c2⟩ } }.answer o (if c1 = b1 ∧ c2 = b2 then .done else .clamped) [])) ∧
      (o.index ≠ 3 → exec .writeBandSet s = .next (t.answer o .refusedIndex [])))

/-- WRITE of the egress map and the settings: structure and conflict checked, the entry stored and answered DONE; a
stored map entry waits for the next frame start; a management node of 0 empties the notice queue and its marks, and
a changed select moves the reference (R145, R149, R152, R168, R171). That a settings index other than 0 is refused
before the values are looked at (log entry 26), and that the good-cycle count is kept on a write to INTERNAL (log
entry 12), are the model's choices. -/
def Obligations.MapAndSettingsAreWritten : Prop :=
  ∀ (s : State) (o : Order), s.takesNow o →
    let t := s.dropHead
    (o.row = .writeEgressMap →
      (∀ e : Fin 32, o.index = e.val →
        let w := mapWrite o.args
        let clash := w.enabled = true ∧ ∃ k, k ≠ e ∧ s.tables.map[k].enabled = true ∧
          s.tables.map[k].slot.val = w.slot
        (128 ≤ w.slot ∨ 16 ≤ w.program ∨ 8 ≤ w.member →
          exec .writeEgressMap s = .next (t.answer o .refusedValue [])) ∧
        ∀ (slot : Fin 128) (program : Fin 16) (member : Fin 8), w.slot = slot.val →
          w.program = program.val → w.member = member.val →
          (clash → exec .writeEgressMap s = .next (t.answer o .refusedConflict [])) ∧
          (¬ clash → exec .writeEgressMap s = .next ({ t with
            tables := { s.tables with
              map := s.tables.map.set e.val ⟨w.enabled, w.tag, slot, program, member⟩ e.isLt }
            egress := { s.egress with
              pending := s.egress.pending.set e.val
                (some ((w.enabled && !s.tables.map[e].enabled) || w.tag != s.tables.map[e].tag ||
                  s.egress.pending[e] == some true)) e.isLt } }.answer o .done []))) ∧
      (32 ≤ o.index → exec .writeEgressMap s = .next (t.answer o .refusedIndex []))) ∧
    (o.row = .writeSettings →
      let node := field o.args 2 1
      let old := s.tables.settings
      (o.index ≠ 0 → exec .writeSettings s = .next (t.answer o .refusedIndex [])) ∧
      (o.index = 0 → 63 < node ∨ 1 < field o.args 3 1 →
        exec .writeSettings s = .next (t.answer o .refusedValue [])) ∧
      (o.index = 0 → node ≤ 63 → ∀ select : RefSelect, (field o.args 3 1 : Int) = select.code →
        ∃ u : State, exec .writeSettings s = .next (u.answer o .done []) ∧
          u = { t with
            tables := { s.tables with settings := ⟨BitVec.ofNat 6 node, select⟩ }
            alarm := u.alarm, house := u.house } ∧
          (node ≠ 0 ∨ old.node = 0 → u.alarm = s.alarm) ∧
          (node = 0 → old.node ≠ 0 → u.alarm = { s.alarm with notices := [], records := u.alarm.records } ∧
            ∀ r, u.record r = { s.record r with queued := false, owed := false, changes := 0 }) ∧
          (select = old.select → u.house = s.house) ∧
          (select ≠ old.select → select = .internal →
            u.house = { s.house with reference := .locked }) ∧
          (select ≠ old.select → select = .external →
            u.house = { s.house with
              reference := .seeking, goodCycles := 0
              leftLocked := s.house.leftLocked || s.house.reference == .locked })))

/-- WRITE of a lane entry: index, PARKED, structure, key, in that order; then the entry is stored with its lost time
in 5 to 2,000 ms, and nothing else changes (R15, R16, R168). -/
def Obligations.LaneEntriesAreWritten : Prop :=
  ∀ (s : State) (o : Order), s.takesNow o → o.row = .writeLane →
    let t := s.dropHead
    let w := laneWrite o.args
    (32 ≤ o.index → exec .writeLane s = .next (t.answer o .refusedIndex [])) ∧
    ∀ l : Fin 32, o.index = l.val →
      let sound := w.rateClass ≤ 4 ∧ w.conceal ≤ 1 ∧ w.startPage ≤ 4095 ∧ w.sizePages ∈ regionSizes ∧
        w.startPage + w.sizePages ≤ 4096 ∧
        (w.defined = true → 1 ≤ w.origin.toNat ∧ w.origin.toNat ≤ 63)
      let clash := w.defined = true ∧ ∃ k, k ≠ l ∧ (s.laneEntry k).defined = true ∧
        (s.laneEntry k).origin = w.origin ∧ (s.laneEntry k).tag = w.tag
      ((s.lane l).status ≠ .parked → exec .writeLane s = .next (t.answer o .refusedState [])) ∧
      ((s.lane l).status = .parked → ¬ sound → exec .writeLane s = .next (t.answer o .refusedValue [])) ∧
      ((s.lane l).status = .parked → sound → clash →
        exec .writeLane s = .next (t.answer o .refusedConflict [])) ∧
      ((s.lane l).status = .parked → sound → ¬ clash →
        ∀ (cls : RateClass) (conceal : ConcealMode), cls.code = w.rateClass → conceal.code = w.conceal →
        let e : LaneEntry :=
          { defined := w.defined, origin := w.origin, tag := w.tag, rateClass := cls
            startPage := w.startPage, sizePages := w.sizePages, conceal := conceal
            lostTime := max 5 (min w.lostTime 2000) }
        let kept : State := { t with tables := { s.tables with lanes := s.tables.lanes.set l.val e l.isLt } }
        exec .writeLane s = .next
          (kept.answer o (if 5 ≤ w.lostTime ∧ w.lostTime ≤ 2000 then .done else .clamped) []))

/-- WRITE of a program entry. Refused REFUSED_STATE when the program is not PARKED and a field that is not live
differs, REFUSED_VALUE on a structural field out of range, REFUSED_CONFLICT on a member of another defined program.
Otherwise stored with every tuning field in its range, DONE exactly when none was changed. On a program that is not
PARKED changed delay fields act as a DELAY order does: in MANUAL mode the stored delay is put in force, and a change
from MANUAL to FOLLOW restarts the picture idle time; the fill formed with the ratio that the stored entry gives;
nothing else changes but the entry and what it hands on (R38, R39, R73 to R75, R168). That an entry which is not
defined is stored without members, is refused for a member index all the same, and that the fields of a program that
is not PARKED are compared as the order carries them, are the model's choices (log entry 15). -/
def Obligations.ProgramEntriesAreWritten : Prop :=
  ∀ (s : State) (o : Order), s.takesNow o → o.row = .writeProgram →
    let t := s.dropHead
    let w := programWrite o.args
    (16 ≤ o.index → exec .writeProgram s = .next (t.answer o .refusedIndex [])) ∧
    ∀ p : Fin 16, o.index = p.val →
      let old := s.entry p
      let fixed := w.defined = old.defined ∧ w.count = old.members.length ∧
        w.members = old.members.map Fin.val ∧ w.weights = old.weights ∧ w.bank = old.bank.val ∧
        w.houseLocked = old.houseLocked ∧ w.picture = old.picture ∧ w.cushion = old.cushion ∧
        w.warmUp = old.warmUp ∧ w.autoStart = old.autoStart
      let open_ := s.active p = false ∨ fixed
      let sound := (w.defined = true → 1 ≤ w.count) ∧ w.count ≤ 8 ∧ (∀ m ∈ w.members, m ≤ 31) ∧
        w.members.Nodup ∧ w.profile ≤ 7 ∧ w.bank ≤ 3 ∧ w.bandSet ≤ 3 ∧ w.delayMode ≤ 1 ∧ w.glideRate ≤ 2 ∧
        w.revertMode ≤ 1 ∧ (∀ n tag, w.picture = some (n, tag) → 1 ≤ n.toNat ∧ n.toNat ≤ 63) ∧
        ∀ a, w.alternate = some a → a ≤ 15 ∧ a ≠ p.val
      let clash := w.defined = true ∧ ∃ q l, q ≠ p ∧ (s.entry q).defined = true ∧ l ∈ (s.entry q).members ∧
        l.val ∈ w.members
      (s.active p = true → ¬ fixed → exec .writeProgram s = .next (t.answer o .refusedState [])) ∧
      (open_ → ¬ sound → exec .writeProgram s = .next (t.answer o .refusedValue [])) ∧
      (open_ → sound → clash → exec .writeProgram s = .next (t.answer o .refusedConflict [])) ∧
      (open_ → sound → ¬ clash → ∃ (u : State) (status : Status),
        exec .writeProgram s = .next (u.answer o status []) ∧
        u.tables = { s.tables with programs := s.tables.programs.set p.val (u.entry p) p.isLt } ∧
        (let e := u.entry p;
          e.defined = w.defined ∧ e.members.map Fin.val = (if w.defined then w.members else []) ∧
          e.weights = w.weights.map (fun x => min x 2000) ∧ e.profile.val = w.profile ∧
          e.bank.val = w.bank ∧ e.houseLocked = w.houseLocked ∧ e.delayMode.code = w.delayMode ∧
          e.manualDelay = min w.manualDelay 480000 ∧ e.picture = w.picture ∧
          e.pictureOffset = max (-48000) (min w.pictureOffset 48000) ∧ e.deadband = min w.deadband 4800 ∧
          e.pictureTimeout = max 100 (min w.pictureTimeout 10000) ∧
          e.cushion = max 24 (min w.cushion 480) ∧ e.bandSet.val = w.bandSet ∧
          e.glideRate.code = w.glideRate ∧
          e.jumpThreshold = (if w.jumpThreshold = 0 then 0 else max 256 (min w.jumpThreshold 480000)) ∧
          e.warmUp = min w.warmUp 2000 ∧ e.alternate.map Fin.val = w.alternate ∧
          e.revertMode.code = w.revertMode ∧ e.revertTime = max 100 (min w.revertTime 60000) ∧
          e.meterInterval = min w.meterInterval 100 ∧ e.autoStart = w.autoStart ∧
          (status = .done ↔ e.weights = w.weights ∧ e.manualDelay = w.manualDelay ∧
            e.pictureOffset = w.pictureOffset ∧ e.deadband = w.deadband ∧
            e.pictureTimeout = w.pictureTimeout ∧ e.cushion = w.cushion ∧
            e.jumpThreshold = w.jumpThreshold ∧ e.warmUp = w.warmUp ∧ e.revertTime = w.revertTime ∧
            e.meterInterval = w.meterInterval) ∧ (status = .done ∨ status = .clamped)) ∧
        (let x := s.program p;
          let e := u.entry p;
          let moved := s.active p = true ∧ (e.delayMode ≠ old.delayMode ∨ e.manualDelay ≠ old.manualDelay);
          let v := (u.program p).servo;
          (¬ moved → v = x.servo) ∧
          (moved → e.delayMode = .manual → v = { x.servo with
            delay := min e.manualDelay x.servo.limit, clamped := decide (x.servo.limit < e.manualDelay)
            fill := (min e.manualDelay x.servo.limit * (u.nominal p).toNat + 8388608) / 16777216 +
              e.cushion }) ∧
          (moved → e.delayMode = .follow → old.delayMode = .manual → v = { x.servo with
            pictureIdle := 0, pictureLast := none, pictureDue := false, pictureLate := false }) ∧
          (moved → e.delayMode = .follow → old.delayMode = .follow → v = x.servo) ∧
          u = (({ t with tables := u.tables } : State).setProgram p { x with servo := v }).followThrough))

/-- WRITE of a rule: structure checked, the entry stored with level, counts and times in range and, under COUNT, n
at most w; its record returns to CLEAR with counts and timers at 0, actions it held are released, and a record
that was not CLEAR makes a REWRITTEN change when the old or the new entry has its notice flag: one more change, and
a notice placed at the tail, or the rule owed when the queue is full. A notice of the rule
already queued is updated in place, whatever the flags (R129, R130, R142, R143). -/
def Obligations.RulesAreWritten : Prop :=
  ∀ (s : State) (o : Order), s.takesNow o → o.row = .writeRule →
    let t := s.dropHead
    let w := ruleWrite o.args
    let sound := w.kind ≤ 11 ∧ w.qualify ≤ 1 ∧ w.ackMode ≤ 1 ∧ w.severity ≤ 1 ∧ w.timing ≤ 1 ∧ w.scope ≤ 16 ∧
      (9 ≤ w.kind ↔ w.scope = 16) ∧
      (w.scope = 16 → w.actions.mute = false ∧ w.actions.freeze = false ∧ w.actions.holdDelay = false ∧
        w.actions.changeover = false)
    (64 ≤ o.index → exec .writeRule s = .next (t.answer o .refusedIndex [])) ∧
    ∀ r : Fin 64, o.index = r.val →
      (¬ sound → exec .writeRule s = .next (t.answer o .refusedValue [])) ∧
      (sound → ∃ (u : State) (status : Status), exec .writeRule s = .next (u.answer o status []) ∧
        (status = .done ∨ status = .clamped) ∧
        u.tables = { s.tables with rules := s.tables.rules.set r.val (u.rule r) r.isLt } ∧
        (let e := u.rule r;
          e.enabled = w.enabled ∧ e.kind.code = w.kind ∧ scopeCode e.scope = w.scope ∧
          e.level = max (-7000) (min w.level 7000) ∧ e.qualify.code = w.qualify ∧
          e.w = max 1 (min w.w 60000) ∧
          e.n = (if w.qualify = 1 then min (max 1 (min w.n 60000)) e.w else max 1 (min w.n 60000)) ∧
          e.releaseTime = min w.releaseTime 60000 ∧ e.stretch = min w.stretch 60000 ∧
          e.ackMode.code = w.ackMode ∧ e.severity.code = w.severity ∧ e.actions = w.actions ∧
          e.notice = w.notice ∧ e.timing.code = w.timing ∧
          (status = .done ↔ e.level = w.level ∧ e.n = w.n ∧ e.w = w.w ∧ e.releaseTime = w.releaseTime ∧
            e.stretch = w.stretch)) ∧
        (let x := s.record r;
          let y := u.record r;
          y.state = .clear ∧ y.qual = 0 ∧ y.window = 0 ∧ y.stretch = 0 ∧ y.release = 0 ∧ y.due = none ∧
          y.acked = x.acked ∧ y.raises = x.raises ∧
          let told := x.state ≠ .clear ∧ ((s.rule r).notice = true ∨ (u.rule r).notice = true) ∧
            s.tables.settings.node ≠ 0;
          let joins := told ∧ x.queued = false ∧ s.alarm.notices.length < 16;
          let owes := told ∧ x.queued = false ∧ 16 ≤ s.alarm.notices.length;
          y.last = (if x.state = .clear then x.last else some .rewritten) ∧
          y.lastStamp = (if x.state = .clear then x.lastStamp else s.house.stamp) ∧
          (told → y.changes = min (x.changes + 1) 255) ∧ (¬ told → y.changes = x.changes) ∧
          (joins → y.queued = true ∧ y.owed = false ∧
            u.alarm.notices = s.alarm.notices ++ [u.noticeOf r]) ∧
          (owes → y.queued = false ∧ y.owed = true ∧ u.alarm.notices = s.alarm.notices) ∧
          (¬ joins → ¬ owes → y.queued = x.queued ∧ y.owed = x.owed ∧
            u.alarm.notices = if x.queued then
              s.alarm.notices.map fun n => if n.isOf r then u.noticeOf r else n else s.alarm.notices) ∧
          ∀ p a, (u.program p).holds.count a = (s.program p).holds.count a -
            if x.state.holding = true ∧ (s.rule r).scope = some p ∧ (s.rule r).actions.has a = true
            then 1 else 0) ∧
        (∀ k, k ≠ r → u.record k = s.record k) ∧
        u.orders = t.orders ∧ u.lanes = s.lanes ∧ u.mem = s.mem ∧ u.house = s.house ∧ u.egress = s.egress ∧
        u.rx = s.rx)

/-- START: the checks of R40 decide the refusal; one that passes makes each member lane ARMED, the program PRIMING
with no positions, an empty schedule, fade 0, T and G 0, TRACK and D_max, and puts its manual delay in force
(R19, R40, R41, R73, R74). The warm-up remaining kept through START is the model's choice (log entry 12). -/
def Obligations.StartsBegin : Prop :=
  ∀ (s : State) (o : Order), s.takesNow o → o.row = .start →
    let t := s.dropHead
    (16 ≤ field o.args 0 1 → exec .start s = .next (t.answer o .refusedIndex [])) ∧
    ∀ p : Fin 16, field o.args 0 1 = p.val →
      let e := s.entry p
      let cls := s.classOf p
      let ready := e.defined = true ∧ s.active p = false ∧
        ∀ l ∈ e.members, (s.laneEntry l).defined = true ∧ (s.lane l).status = .parked
      let apart (l k : Fin 32) :=
        (s.laneEntry l).startPage + (s.laneEntry l).sizePages ≤ (s.laneEntry k).startPage ∨
        (s.laneEntry k).startPage + (s.laneEntry k).sizePages ≤ (s.laneEntry l).startPage
      let free := (∀ l ∈ e.members, (s.laneEntry l).rateClass = cls) ∧ (e.houseLocked = true → cls = .c48) ∧
        e.members.Pairwise apart ∧ ∀ l ∈ e.members, ∀ k, (s.lane k).status ≠ .parked → apart l k
      (¬ ready → exec .start s = .next (t.answer o .refusedState [])) ∧
      (ready → ¬ free → exec .start s = .next (t.answer o .refusedConflict [])) ∧
      (ready → free → ∃ u : State, exec .start s = .next (u.answer o .done []) ∧
        (let x := s.program p;
          let limit := delayLimit (s.smallestRing p) e.cushion (s.nominal p);
          u.program p = { x with
            play := { x.play with
              state := .priming, fade := 0, target := .silent, elapsed := false, warmUpSet := e.warmUp }
            conv := { x.conv with pos := none, trim := 0, glide := 0, hold := false, fixed := none }
            servo := {
              limit := limit, delay := min e.manualDelay limit, clamped := decide (limit < e.manualDelay)
              fill := (min e.manualDelay limit * (s.nominal p).toNat + 8388608) / 16777216 + e.cushion }
            meter := { x.meter with pos := none }
            gain := { x.gain with schedule := [] }
            change := (u.program p).change }) ∧
        (∀ l, u.lane l = if l ∈ e.members then { s.lane l with
            status := .armed, idle := 0, horizon := none, lastSeq := none, taint := 0 } else s.lane l) ∧
        (∀ q, q ≠ p → u.program q = { s.program q with
          play := { (s.program q).play with target := (u.program q).play.target }
          change := (u.program q).change }) ∧
        u.tables = s.tables ∧ u.orders = t.orders ∧ u.mem = s.mem ∧ u.rx = s.rx ∧ u.house = s.house ∧
        u.egress = s.egress ∧ u.alarm.records = s.alarm.records)

/-- PARK and RESET: a PARKED program is answered DONE at once with nothing changed; any other enters PARKING, its
glide or jump ended and G at 0, and the reply is owed; a RESET is recorded as pending, and its reply owed; and an
order whose kind, table, target type or view names nothing the part holds is refused REFUSED_UNKNOWN with nothing
changed (R49, R166, R167, R175). The warm-up remaining kept into PARKING (log entry 12) and a G fixed for the house
sample dropped there (log entry 29) are the model's choices. -/
def Obligations.ParksAndResetsAreOwed : Prop :=
  ∀ (s : State) (o : Order), s.takesNow o →
    let t := s.dropHead
    (o.row = .park →
      (16 ≤ field o.args 0 1 → exec .park s = .next (t.answer o .refusedIndex [])) ∧
      ∀ p : Fin 16, field o.args 0 1 = p.val →
        let x := s.program p
        (x.play.state = .parked → exec .park s = .next (t.answer o .done [])) ∧
        (x.play.state ≠ .parked →
          let u := (t.setProgram p { x with
            play := { x.play with state := .parking }
            conv := { x.conv with glide := 0, hold := false, fixed := x.conv.fixed.map fun f => (f.1, 0) }
            servo := { x.servo with mode := .track, phase := none } }).followThrough
          exec .park s = .next { u with orders := { t.orders with
            unit := .parkPending, owing := some ⟨o.replyTo, o.tag, o.kind⟩ } })) ∧
    (o.row = .reset → exec .reset s = .next { t with orders := { t.orders with
      unit := .resetPending, owing := some ⟨o.replyTo, o.tag, o.kind⟩ } }) ∧
    (9 < o.kind.toNat ∨ (o.kind.toNat ≤ 1 ∧ 8 < field o.args 0 1) ∨
        (o.kind.toNat = 2 ∧ 3 < field o.args 0 1) ∨
        (o.kind.toNat = 2 ∧ field o.args 0 1 = 2 ∧ 5 < field o.args 2 1) →
      exec .unknownOrder s = .next (t.answer o .refusedUnknown []))

/-- DELAY: mode and manual delay stored; a PARKED program has nothing more done; in MANUAL the delay, limited to
D_max, is put in force; from MANUAL to FOLLOW the picture idle time restarts and the last picture delay is
absent; CLAMPED when the field was clamped or the delay limited (R74, R75). -/
def Obligations.DelaysAreSet : Prop :=
  ∀ (s : State) (o : Order), s.takesNow o → o.row = .delay →
    let t := s.dropHead
    (16 ≤ field o.args 0 1 → exec .delay s = .next (t.answer o .refusedIndex [])) ∧
    ∀ p : Fin 16, field o.args 0 1 = p.val →
      let e := s.entry p
      let x := s.program p
      let asked := field o.args 2 3
      let v := min asked 480000
      let kept (mode : DelayMode) : State :=
        let f : ProgramEntry := { e with delayMode := mode, manualDelay := v }
        { t with tables := { s.tables with programs := s.tables.programs.set p.val f p.isLt } }
      let plain : Status := if asked ≤ 480000 then .done else .clamped
      (e.defined = false → exec .delay s = .next (t.answer o .refusedState [])) ∧
      (e.defined = true → 1 < field o.args 1 1 → exec .delay s = .next (t.answer o .refusedValue [])) ∧
      (e.defined = true → field o.args 1 1 = 0 →
        (s.active p = false → exec .delay s = .next ((kept .manual).answer o plain [])) ∧
        (s.active p = true → exec .delay s = .next (((kept .manual).setProgram p { x with servo :=
          { x.servo with
            delay := min v x.servo.limit, clamped := decide (x.servo.limit < v)
            fill := (min v x.servo.limit * (s.nominal p).toNat + 8388608) / 16777216 + e.cushion } }).answer o
          (if asked ≤ 480000 ∧ v ≤ x.servo.limit then .done else .clamped) []))) ∧
      (e.defined = true → field o.args 1 1 = 1 →
        (s.active p = false ∨ e.delayMode = .follow →
          exec .delay s = .next ((kept .follow).answer o plain [])) ∧
        (s.active p = true → e.delayMode = .manual →
          exec .delay s = .next (((kept .follow).setProgram p { x with servo :=
            { x.servo with
              pictureIdle := 0, pictureLast := none, pictureDue := false, pictureLate := false } }).answer o
            plain [])))

/-- CHANGEOVER: the force setting is stored; FORCE_PRIMARY brings a program home at once; FORCE_ALTERNATE, or
AUTOMATIC with the CHANGEOVER action in force, with a healthy candidate leads to ALTERNATE latched on it, and
without one, absent or not healthy, to WANTED, where a latch whose lanes are all home clears and a healthy alternate
is then taken; AUTOMATIC without the action brings every program home (R154 to R157, R169). The re-evaluation after
a latch clears is read from the manual by inference (log entry 23). -/
def Obligations.ChangeoversAreForced : Prop :=
  ∀ (s : State) (o : Order), s.takesNow o → o.row = .changeover →
    let t := s.dropHead
    (16 ≤ field o.args 0 1 → exec .changeover s = .next (t.answer o .refusedIndex [])) ∧
    (field o.args 0 1 < 16 → 2 < field o.args 1 1 →
      exec .changeover s = .next (t.answer o .refusedValue [])) ∧
    ∀ (p : Fin 16) (f : Force), field o.args 0 1 = p.val → (field o.args 1 1 : Int) = f.code →
      ∃ u : State, exec .changeover s = .next (u.answer o .done []) ∧
        u = { t with
          programs := u.programs
          alarm := { s.alarm with majorLine := s.lineActive .major, minorLine := s.lineActive .minor } } ∧
        (∀ q, u.program q = { s.program q with
          play := { (s.program q).play with target := (s.program q).fadeTarget }
          change := (u.program q).change }) ∧
        (let c := (s.program p).change;
          let d := (u.program p).change;
          d.force = f ∧
          (f = .forcePrimary → d.state = .primary) ∧
          (f = .automatic → (s.program p).holds.changeover = 0 → d.state = .primary) ∧
          (f = .forceAlternate ∨ (f = .automatic ∧ 0 < (s.program p).holds.changeover) →
            (c.state = .alternate ∨ c.state = .reverting → d.state = .alternate ∧ d.latch = c.latch) ∧
            (c.state = .primary ∨ c.state = .wanted →
              (∀ a, (c.latch.or (s.entry p).alternate) = some a → s.healthy a = false) →
              (∀ b, s.lanesHome p = true → (s.entry p).alternate = some b → s.healthy b = true →
                d.state = .alternate ∧ d.latch = some b) ∧
              (s.lanesHome p = false ∨ (∀ b, (s.entry p).alternate = some b → s.healthy b = false) →
                d.state = .wanted ∧ d.latch = if s.lanesHome p then none else c.latch)) ∧
            ∀ a, c.state = .primary ∨ c.state = .wanted → (c.latch.or (s.entry p).alternate) = some a →
              s.healthy a = true → d.state = .alternate ∧ d.latch = some a))

/-- ACKNOWLEDGE of one rule: a CLEAR or QUALIFYING record, and one already acknowledged in RAISED or RELEASING, is not
changed; one in RAISED or RELEASING is marked acknowledged; one in ACK_WAIT returns to CLEAR; the last two make an
ACKNOWLEDGED change. ACKNOWLEDGE of all does so to every record, its notices in ascending rule index, each in place,
at the tail or owed (R137, R142 to R144). The qualify count, window tick, stretch remaining and release count that a
record keeps on going from ACK_WAIT to CLEAR, to which R137 gives no value there, are the model's choice (log entry
12), and the due mark is the model's own field (log entry 4). -/
def Obligations.AcknowledgesReachRecords : Prop :=
  ∀ (s : State) (o : Order), s.takesNow o → o.row = .acknowledge →
    let t := s.dropHead
    let i := field o.args 0 1
    (64 ≤ i → i ≠ 255 → exec .acknowledge s = .next (t.answer o .refusedIndex [])) ∧
    (∀ r : Fin 64, i = r.val → ∃ u : State, exec .acknowledge s = .next (u.answer o .done []) ∧
      OnlyRecordMoves t u r ∧
      (let x := s.record r;
        let y := u.record r;
        (x.state = .clear ∨ x.state = .qualifying ∨
            (x.acked = true ∧ (x.state = .raised ∨ x.state = .releasing)) →
          y = x ∧ u.alarm.notices = s.alarm.notices) ∧
        (x.acked = false → x.state = .raised ∨ x.state = .releasing →
          y.state = x.state ∧ y.acked = true ∧ y.qual = x.qual ∧ y.stretch = x.stretch ∧
          y.release = x.release ∧ y.due = x.due ∧ NoticeMade s u r .acknowledged (s.rule r).notice) ∧
        (x.state = .ackWait → y.state = .clear ∧ y.due = none ∧
          NoticeMade s u r .acknowledged (s.rule r).notice)) ∧
      ∀ p, (u.program p).holds = (s.program p).holds) ∧
    (i = 255 → ∃ u : State, exec .acknowledge s = .next (u.answer o .done []) ∧
      (let reached (r : Fin 64) : Bool := (s.record r).state == .ackWait ||
          (!(s.record r).acked && ((s.record r).state == .raised || (s.record r).state == .releasing))
        let noticed := (List.finRange 64).filter fun r =>
          reached r && (s.rule r).notice && s.tables.settings.node != 0
        let joining := (noticed.filter fun r => !(s.record r).queued).take
          (16 - s.alarm.notices.length)
        (∀ r,
          let x := s.record r
          let waited := x.state = .ackWait
          (reached r = false → u.record r = x) ∧
          (reached r = true → u.record r = { x with
            state := if waited then .clear else x.state, due := if waited then none else x.due
            acked := true, last := some .acknowledged, lastStamp := s.house.stamp
            changes := if r ∈ noticed then min (x.changes + 1) 255 else x.changes
            queued := x.queued || decide (r ∈ joining)
            owed := if r ∈ noticed ∧ x.queued = false then decide (r ∉ joining) else x.owed })) ∧
        u.alarm.notices = (s.alarm.notices.map fun n => match n with
            | .rule r _ _ _ _ _ => if r ∈ noticed ∧ (s.record r).queued = true then u.noticeOf r else n
            | .started _ _ _ => n) ++ joining.map u.noticeOf) ∧
      u = { t with programs := u.programs, alarm := u.alarm } ∧ u.alarm.shedSeen = s.alarm.shedSeen ∧
      ∀ p, u.program p = { s.program p with
        play := { (s.program p).play with target := (u.program p).play.target }
        change := (u.program p).change })

/-- CUE: index, cue type and mark, then state, checked; a cue taken enters at the stamp M holds, as a CUE parcel
does. Ahead of floor(P), or without a P, it joins the schedule after every stored entry at or behind its stamp, or
with 128 entries stored is dropped and counted; at or behind floor(P) it takes effect at once, placed in the cue
outbox under the tag of the lowest enabled egress lane that takes the program's member 0, or counted as a forward
drop; and, whatever becomes of it there, the meter lists a segment cue, or with 16 listed counts an overflow; the
answer is DONE (R101, R113 to R116, R118). Where stamps are spread so wide that no place is both after every entry
at or behind and before every one ahead, the place before the first ahead is the model's choice (log entry 25); the
tag from the governing map and a cue stored before P is set are read from the manual by inference (log entry 18),
and so is the forwarded cue's stamp as the held house stamp (log entry 9); the program kept with a cue in the outbox
is the model's own (log entry 28). -/
def Obligations.CueOrdersEnterAtMeter : Prop :=
  ∀ (s : State) (o : Order), s.takesNow o → o.row = .cue →
    let t := s.dropHead
    let mark := BitVec.ofNat 16 (field o.args 2 2)
    (16 ≤ field o.args 0 1 → exec .cue s = .next (t.answer o .refusedIndex [])) ∧
    (field o.args 0 1 < 16 → 2 < field o.args 1 1 ∨ (field o.args 1 1 < 2 ∧ field o.args 2 2 ≠ 0) →
      exec .cue s = .next (t.answer o .refusedValue [])) ∧
    ∀ (p : Fin 16) (kind : CueType), field o.args 0 1 = p.val → (field o.args 1 1 : Int) = kind.code →
      kind = .userMark ∨ field o.args 2 2 = 0 →
      let x := s.program p
      (x.play.state = .parked ∨ x.play.state = .resyncing ∨ x.meter.pos = none →
        exec .cue s = .next (t.answer o .refusedState [])) ∧
      ∀ M, x.meter.pos = some M → x.play.state ≠ .parked → x.play.state ≠ .resyncing → ∃ meter,
        (kind = .userMark → meter = x.meter) ∧
        (kind ≠ .userMark → x.meter.cues.length < 16 →
          ∃ first last, x.meter.cues = first ++ last ∧
            (∀ c ∈ first, ahead c.1 M = false) ∧ (∀ c ∈ last.head?, ahead c.1 M = true) ∧
            meter = { x.meter with cues := first ++ (M, kind) :: last }) ∧
        (kind ≠ .userMark → 16 ≤ x.meter.cues.length →
          meter = { x.meter with cueOverflows := min (x.meter.cueOverflows + 1) 65535 }) ∧
        ((∀ P, x.conv.pos = some P → ahead M P.stamp = true) →
          (x.gain.schedule.length < 128 → ∃ before after, x.gain.schedule = before ++ after ∧
            (∀ y ∈ before, ahead y.stamp M = false) ∧ (∀ y ∈ after.head?, ahead y.stamp M = true) ∧
            exec .cue s = .next ((t.setProgram p { x with
              gain := { x.gain with schedule := before ++ .cue M kind mark :: after }
              meter := meter }).answer o .done [])) ∧
          (128 ≤ x.gain.schedule.length →
            exec .cue s = .next ((t.setProgram p { x with
              gain := { x.gain with cueDrops := min (x.gain.cueDrops + 1) 65535 }
              meter := meter }).answer o .done []))) ∧
        ∀ P, x.conv.pos = some P → ahead M P.stamp = false →
          let feeds (e : Fin 32) : Prop := (s.mapEntry e).enabled = true ∧ (s.mapEntry e).program = p ∧
            (s.mapEntry e).member = 0
          (∀ e, feeds e → (∀ k, k < e → ¬ feeds k) → s.egress.outbox.length < 8 →
            exec .cue s = .next (State.answer { t.setProgram p { x with meter := meter } with
              egress := { s.egress with
                outbox := s.egress.outbox ++ [⟨(s.mapEntry e).tag, s.house.stamp, kind, mark, p⟩] } } o .done [])) ∧
          ((∀ e, ¬ feeds e) ∨ 8 ≤ s.egress.outbox.length →
            exec .cue s = .next ((t.setProgram p { x with
              gain := { x.gain with forwardDrops := min (x.gain.forwardDrops + 1) 65535 }
              meter := meter }).answer o .done []))

/-- Whatever the reason, a refused order changes nothing in the part: it has left the intake, its reply without
results is at the tail of the reply queue, and all else stands (R167, R168). -/
def Obligations.RefusedOrdersChangeNothing : Prop :=
  ∀ (s t : State) (o : Order) (status : Status) (results : List Byte), s.takesNow o →
    exec o.row s = .next t →
    t.orders.replies = s.orders.replies ++ [⟨o.replyTo, o.tag, o.kind, status, results⟩] →
    status ≠ .done → status ≠ .clamped →
    results = [] ∧ t = s.dropHead.answer o status []

/-- Every entry of the table layouts of 11.4 is read back as written: the bytes with which a READ returns a lane,
program, profile, weighting, rule, map, settings or band entry within its ranges are, behind any selector and index
and before any bytes, the entry a WRITE carries, unclamped, and so are the taps of a coefficient bank behind its
five leading bytes (R15, R38, R67, R94, R110, R128, R152, R170, R171). -/
def Obligations.EntriesReadBackAsWritten : Prop :=
  ∀ (a b : Byte) (rest : List Byte),
    (∀ e : LaneEntry, e.startPage ≤ 4095 → e.sizePages ≤ 1024 → 5 ≤ e.lostTime → e.lostTime ≤ 2000 →
      let w := laneWrite (a :: b :: (e.bytes ++ rest))
      RateClass.ofCode w.rateClass = some e.rateClass ∧ ConcealMode.ofCode w.conceal = some e.conceal ∧
        w.entry e.rateClass e.conceal = e) ∧
    (∀ e : ProgramEntry, e.members.length ≤ 8 → (e.defined = false → e.members = []) →
      (∀ w ∈ e.weights.toList, w ≤ 2000) → e.manualDelay ≤ 480000 → -48000 ≤ e.pictureOffset →
      e.pictureOffset ≤ 48000 → e.deadband ≤ 4800 → 100 ≤ e.pictureTimeout → e.pictureTimeout ≤ 10000 →
      24 ≤ e.cushion → e.cushion ≤ 480 →
      (e.jumpThreshold = 0 ∨ (256 ≤ e.jumpThreshold ∧ e.jumpThreshold ≤ 480000)) → e.warmUp ≤ 2000 →
      100 ≤ e.revertTime → e.revertTime ≤ 60000 → e.meterInterval ≤ 100 →
      let w := programWrite (a :: b :: (e.bytes ++ rest))
      w.count = e.members.length ∧ ∃ n, w.names = some n ∧ w.entry n = e ∧ w.clamped e = false) ∧
    (∀ e : Profile, e.clamp = e → profileWrite (a :: b :: (e.bytes ++ rest)) = e) ∧
    (∀ e : Rule, -7000 ≤ e.level → e.level ≤ 7000 → 1 ≤ e.n → e.n ≤ 60000 → 1 ≤ e.w → e.w ≤ 60000 →
      (e.qualify = .count → e.n ≤ e.w) → e.releaseTime ≤ 60000 → e.stretch ≤ 60000 →
      let w := ruleWrite (a :: b :: (e.bytes ++ rest))
      ∃ n, w.names = some n ∧ w.rule n = e ∧ w.clamped e = false) ∧
    (∀ e : Weighting, weightingWrite (a :: b :: (e.bytes ++ rest)) = e) ∧
    (∀ e : MapEntry, mapWrite (a :: b :: (e.bytes ++ rest)) =
      ⟨e.enabled, e.tag, e.slot.val, e.program.val, e.member.val⟩) ∧
    (∀ e : Settings, field (a :: b :: (e.bytes ++ rest)) 2 1 = e.node.toNat ∧
      RefSelect.ofCode (field (a :: b :: (e.bytes ++ rest)) 3 1) = some e.select) ∧
    (∀ e : BandSet, e.b1 ≤ 255 → e.b2 ≤ 4095 →
      field (a :: b :: (e.bytes ++ rest)) 2 2 = e.b1 ∧ field (a :: b :: (e.bytes ++ rest)) 4 2 = e.b2) ∧
    ∀ (phase first count : Byte) (taps : List Sample) (i : Nat) (h : i < taps.length),
      tapValue (a :: b :: phase :: first :: count :: ((taps.flatMap fun c => beBytes 3 c.toInt) ++ rest)) i =
        taps[i]

/-! ## Invariants -/

/-- Right after reset every invariant holds: memory in its canonical form, queues and counters within their
bounds, positions in their ranges, tables without clashes, no program started, hold counts, lines and fade
targets as they are derived. The lines rest on the straps the model reads at reset, node 1, which is its choice (log
entry 1). -/
def Obligations.ResetMeetsInvariants : Prop :=
  State.reset.memOk ∧ State.reset.queuesOk ∧ State.reset.repliesOk ∧ State.reset.parcelsOk ∧
    State.reset.noticesOk ∧ State.reset.positionsOk ∧ State.reset.trimsOk ∧ State.reset.countersOk ∧ State.reset.lanesOk ∧
    State.reset.slotsOk ∧ State.reset.startedOk ∧ State.reset.ringsApart ∧ State.reset.holdsOk ∧
    State.reset.linesOk ∧ State.reset.fadesOk

/-- Every step keeps the delay memory in its canonical form (R17, R18). -/
def Obligations.StepsKeepMemory : Prop :=
  ∀ s t : State, s.memOk → step s = .next t → t.memOk

/-- Every step keeps every queue and list within its bound, a place for the reply of a pending PARK, and 84 bytes in
every parcel waiting to pass through (R2, R101, R113, R118, R143, R162, R165, R166, R168). It keeps a rule marked
queued exactly while it has its one notice in the queue, and then not owed (R143); and no rule stays owed with a
place free but from a frame start taken ahead of its tick to the next house sample, which is the model's reading of
R144 (log entry 10). -/
def Obligations.StepsKeepQueues : Prop :=
  ∀ s t : State, s.queuesOk → s.repliesOk → s.parcelsOk → s.noticesOk → step s = .next t →
    t.queuesOk ∧ t.repliesOk ∧ t.parcelsOk ∧ t.noticesOk

/-- Every step keeps fades, crossfades and ramps in their ranges, every trim within ±8,389, and every counter at
most 65,535 (R5, R10, R36, R50, R56, R119, R123, R158). -/
def Obligations.StepsKeepRanges : Prop :=
  ∀ s t : State, s.positionsOk → s.trimsOk → s.countersOk → step s = .next t →
    t.positionsOk ∧ t.trimsOk ∧ t.countersOk

/-- Every step keeps the lane table's regions within the memory and its keys apart, and the egress map's slots
apart, stored and governing (R15, R16, R152). -/
def Obligations.StepsKeepTables : Prop :=
  ∀ s t : State, s.lanesOk → s.slotsOk → step s = .next t → t.lanesOk ∧ t.slotsOk

/-- Every step keeps each lane in at most one defined program, the lanes that are not PARKED those of the defined
programs that are not PARKED, and the regions of lanes that are not PARKED apart (R16, R19, R39, R40). -/
def Obligations.StepsKeepStarted : Prop :=
  ∀ s t : State, step s = .next t → (s.startedOk → t.startedOk) ∧ (s.ringsApart → t.ringsApart)

/-- Every step keeps each hold count the number of enabled rules whose records hold the action on the program
(R130, R134, R135, R138, R139). -/
def Obligations.StepsKeepHolds : Prop :=
  ∀ s t : State, s.holdsOk → step s = .next t → t.holdsOk

/-- Every step leaves the alarm lines as the records, the straps and a reset in progress call for, and every fade
target as play state, warm-up, MUTE and jump call for (R12, R50, R141, R180). -/
def Obligations.StepsKeepDerived : Prop :=
  ∀ s t : State, s.holdsOk → s.linesOk → s.fadesOk → step s = .next t → t.linesOk ∧ t.fadesOk

end
end

