-- ==== Sys2Proof/Laws/State.lean ====
section
/-! SUPPORT. What each update of the state changes, and that it changes nothing else: one lemma per field
per update, and the lookups of lanes, programs, records and egress lanes after an update. The proofs
unfold the update by name: a bare rfl would compare whole states field by field. -/

namespace Sys2Proof.Machine

/-! ### State.setLane -/

@[simp] theorem State.setLane_pending (s : State) (l : Fin 32) (x : Lane) : (s.setLane l x).pending = s.pending := by
  dsimp only [State.setLane]
@[simp] theorem State.setLane_powerReset (s : State) (l : Fin 32) (x : Lane) : (s.setLane l x).powerReset = s.powerReset := by
  dsimp only [State.setLane]
@[simp] theorem State.setLane_resetLow (s : State) (l : Fin 32) (x : Lane) : (s.setLane l x).resetLow = s.resetLow := by
  dsimp only [State.setLane]
@[simp] theorem State.setLane_straps (s : State) (l : Fin 32) (x : Lane) : (s.setLane l x).straps = s.straps := by
  dsimp only [State.setLane]
@[simp] theorem State.setLane_node (s : State) (l : Fin 32) (x : Lane) : (s.setLane l x).node = s.node := by
  dsimp only [State.setLane]
@[simp] theorem State.setLane_tables (s : State) (l : Fin 32) (x : Lane) : (s.setLane l x).tables = s.tables := by
  dsimp only [State.setLane]
@[simp] theorem State.setLane_rx (s : State) (l : Fin 32) (x : Lane) : (s.setLane l x).rx = s.rx := by
  dsimp only [State.setLane]
@[simp] theorem State.setLane_mem (s : State) (l : Fin 32) (x : Lane) : (s.setLane l x).mem = s.mem := by
  dsimp only [State.setLane]
@[simp] theorem State.setLane_programs (s : State) (l : Fin 32) (x : Lane) : (s.setLane l x).programs = s.programs := by
  dsimp only [State.setLane]
@[simp] theorem State.setLane_alarm (s : State) (l : Fin 32) (x : Lane) : (s.setLane l x).alarm = s.alarm := by
  dsimp only [State.setLane]
@[simp] theorem State.setLane_house (s : State) (l : Fin 32) (x : Lane) : (s.setLane l x).house = s.house := by
  dsimp only [State.setLane]
@[simp] theorem State.setLane_egress (s : State) (l : Fin 32) (x : Lane) : (s.setLane l x).egress = s.egress := by
  dsimp only [State.setLane]
@[simp] theorem State.setLane_orders (s : State) (l : Fin 32) (x : Lane) : (s.setLane l x).orders = s.orders := by
  dsimp only [State.setLane]

/-! ### State.mapLanes -/

@[simp] theorem State.mapLanes_pending (s : State) (f : Fin 32 → Lane → Lane) : (s.mapLanes f).pending = s.pending := by
  dsimp only [State.mapLanes]
@[simp] theorem State.mapLanes_powerReset (s : State) (f : Fin 32 → Lane → Lane) : (s.mapLanes f).powerReset = s.powerReset := by
  dsimp only [State.mapLanes]
@[simp] theorem State.mapLanes_resetLow (s : State) (f : Fin 32 → Lane → Lane) : (s.mapLanes f).resetLow = s.resetLow := by
  dsimp only [State.mapLanes]
@[simp] theorem State.mapLanes_straps (s : State) (f : Fin 32 → Lane → Lane) : (s.mapLanes f).straps = s.straps := by
  dsimp only [State.mapLanes]
@[simp] theorem State.mapLanes_node (s : State) (f : Fin 32 → Lane → Lane) : (s.mapLanes f).node = s.node := by
  dsimp only [State.mapLanes]
@[simp] theorem State.mapLanes_tables (s : State) (f : Fin 32 → Lane → Lane) : (s.mapLanes f).tables = s.tables := by
  dsimp only [State.mapLanes]
@[simp] theorem State.mapLanes_rx (s : State) (f : Fin 32 → Lane → Lane) : (s.mapLanes f).rx = s.rx := by
  dsimp only [State.mapLanes]
@[simp] theorem State.mapLanes_mem (s : State) (f : Fin 32 → Lane → Lane) : (s.mapLanes f).mem = s.mem := by
  dsimp only [State.mapLanes]
@[simp] theorem State.mapLanes_programs (s : State) (f : Fin 32 → Lane → Lane) : (s.mapLanes f).programs = s.programs := by
  dsimp only [State.mapLanes]
@[simp] theorem State.mapLanes_alarm (s : State) (f : Fin 32 → Lane → Lane) : (s.mapLanes f).alarm = s.alarm := by
  dsimp only [State.mapLanes]
@[simp] theorem State.mapLanes_house (s : State) (f : Fin 32 → Lane → Lane) : (s.mapLanes f).house = s.house := by
  dsimp only [State.mapLanes]
@[simp] theorem State.mapLanes_egress (s : State) (f : Fin 32 → Lane → Lane) : (s.mapLanes f).egress = s.egress := by
  dsimp only [State.mapLanes]
@[simp] theorem State.mapLanes_orders (s : State) (f : Fin 32 → Lane → Lane) : (s.mapLanes f).orders = s.orders := by
  dsimp only [State.mapLanes]

/-! ### State.setProgram -/

@[simp] theorem State.setProgram_pending (s : State) (p : Fin 16) (x : Program) : (s.setProgram p x).pending = s.pending := by
  dsimp only [State.setProgram]
@[simp] theorem State.setProgram_powerReset (s : State) (p : Fin 16) (x : Program) : (s.setProgram p x).powerReset = s.powerReset := by
  dsimp only [State.setProgram]
@[simp] theorem State.setProgram_resetLow (s : State) (p : Fin 16) (x : Program) : (s.setProgram p x).resetLow = s.resetLow := by
  dsimp only [State.setProgram]
@[simp] theorem State.setProgram_straps (s : State) (p : Fin 16) (x : Program) : (s.setProgram p x).straps = s.straps := by
  dsimp only [State.setProgram]
@[simp] theorem State.setProgram_node (s : State) (p : Fin 16) (x : Program) : (s.setProgram p x).node = s.node := by
  dsimp only [State.setProgram]
@[simp] theorem State.setProgram_tables (s : State) (p : Fin 16) (x : Program) : (s.setProgram p x).tables = s.tables := by
  dsimp only [State.setProgram]
@[simp] theorem State.setProgram_rx (s : State) (p : Fin 16) (x : Program) : (s.setProgram p x).rx = s.rx := by
  dsimp only [State.setProgram]
@[simp] theorem State.setProgram_lanes (s : State) (p : Fin 16) (x : Program) : (s.setProgram p x).lanes = s.lanes := by
  dsimp only [State.setProgram]
@[simp] theorem State.setProgram_mem (s : State) (p : Fin 16) (x : Program) : (s.setProgram p x).mem = s.mem := by
  dsimp only [State.setProgram]
@[simp] theorem State.setProgram_alarm (s : State) (p : Fin 16) (x : Program) : (s.setProgram p x).alarm = s.alarm := by
  dsimp only [State.setProgram]
@[simp] theorem State.setProgram_house (s : State) (p : Fin 16) (x : Program) : (s.setProgram p x).house = s.house := by
  dsimp only [State.setProgram]
@[simp] theorem State.setProgram_egress (s : State) (p : Fin 16) (x : Program) : (s.setProgram p x).egress = s.egress := by
  dsimp only [State.setProgram]
@[simp] theorem State.setProgram_orders (s : State) (p : Fin 16) (x : Program) : (s.setProgram p x).orders = s.orders := by
  dsimp only [State.setProgram]

/-! ### State.mapPrograms -/

@[simp] theorem State.mapPrograms_pending (s : State) (f : Fin 16 → Program → Program) : (s.mapPrograms f).pending = s.pending := by
  dsimp only [State.mapPrograms]
@[simp] theorem State.mapPrograms_powerReset (s : State) (f : Fin 16 → Program → Program) : (s.mapPrograms f).powerReset = s.powerReset := by
  dsimp only [State.mapPrograms]
@[simp] theorem State.mapPrograms_resetLow (s : State) (f : Fin 16 → Program → Program) : (s.mapPrograms f).resetLow = s.resetLow := by
  dsimp only [State.mapPrograms]
@[simp] theorem State.mapPrograms_straps (s : State) (f : Fin 16 → Program → Program) : (s.mapPrograms f).straps = s.straps := by
  dsimp only [State.mapPrograms]
@[simp] theorem State.mapPrograms_node (s : State) (f : Fin 16 → Program → Program) : (s.mapPrograms f).node = s.node := by
  dsimp only [State.mapPrograms]
@[simp] theorem State.mapPrograms_tables (s : State) (f : Fin 16 → Program → Program) : (s.mapPrograms f).tables = s.tables := by
  dsimp only [State.mapPrograms]
@[simp] theorem State.mapPrograms_rx (s : State) (f : Fin 16 → Program → Program) : (s.mapPrograms f).rx = s.rx := by
  dsimp only [State.mapPrograms]
@[simp] theorem State.mapPrograms_lanes (s : State) (f : Fin 16 → Program → Program) : (s.mapPrograms f).lanes = s.lanes := by
  dsimp only [State.mapPrograms]
@[simp] theorem State.mapPrograms_mem (s : State) (f : Fin 16 → Program → Program) : (s.mapPrograms f).mem = s.mem := by
  dsimp only [State.mapPrograms]
@[simp] theorem State.mapPrograms_alarm (s : State) (f : Fin 16 → Program → Program) : (s.mapPrograms f).alarm = s.alarm := by
  dsimp only [State.mapPrograms]
@[simp] theorem State.mapPrograms_house (s : State) (f : Fin 16 → Program → Program) : (s.mapPrograms f).house = s.house := by
  dsimp only [State.mapPrograms]
@[simp] theorem State.mapPrograms_egress (s : State) (f : Fin 16 → Program → Program) : (s.mapPrograms f).egress = s.egress := by
  dsimp only [State.mapPrograms]
@[simp] theorem State.mapPrograms_orders (s : State) (f : Fin 16 → Program → Program) : (s.mapPrograms f).orders = s.orders := by
  dsimp only [State.mapPrograms]

/-! ### State.setRecord -/

@[simp] theorem State.setRecord_pending (s : State) (r : Fin 64) (x : Record) : (s.setRecord r x).pending = s.pending := by
  dsimp only [State.setRecord]
@[simp] theorem State.setRecord_powerReset (s : State) (r : Fin 64) (x : Record) : (s.setRecord r x).powerReset = s.powerReset := by
  dsimp only [State.setRecord]
@[simp] theorem State.setRecord_resetLow (s : State) (r : Fin 64) (x : Record) : (s.setRecord r x).resetLow = s.resetLow := by
  dsimp only [State.setRecord]
@[simp] theorem State.setRecord_straps (s : State) (r : Fin 64) (x : Record) : (s.setRecord r x).straps = s.straps := by
  dsimp only [State.setRecord]
@[simp] theorem State.setRecord_node (s : State) (r : Fin 64) (x : Record) : (s.setRecord r x).node = s.node := by
  dsimp only [State.setRecord]
@[simp] theorem State.setRecord_tables (s : State) (r : Fin 64) (x : Record) : (s.setRecord r x).tables = s.tables := by
  dsimp only [State.setRecord]
@[simp] theorem State.setRecord_rx (s : State) (r : Fin 64) (x : Record) : (s.setRecord r x).rx = s.rx := by
  dsimp only [State.setRecord]
@[simp] theorem State.setRecord_lanes (s : State) (r : Fin 64) (x : Record) : (s.setRecord r x).lanes = s.lanes := by
  dsimp only [State.setRecord]
@[simp] theorem State.setRecord_mem (s : State) (r : Fin 64) (x : Record) : (s.setRecord r x).mem = s.mem := by
  dsimp only [State.setRecord]
@[simp] theorem State.setRecord_programs (s : State) (r : Fin 64) (x : Record) : (s.setRecord r x).programs = s.programs := by
  dsimp only [State.setRecord]
@[simp] theorem State.setRecord_house (s : State) (r : Fin 64) (x : Record) : (s.setRecord r x).house = s.house := by
  dsimp only [State.setRecord]
@[simp] theorem State.setRecord_egress (s : State) (r : Fin 64) (x : Record) : (s.setRecord r x).egress = s.egress := by
  dsimp only [State.setRecord]
@[simp] theorem State.setRecord_orders (s : State) (r : Fin 64) (x : Record) : (s.setRecord r x).orders = s.orders := by
  dsimp only [State.setRecord]

/-! ### State.mapEgressLanes -/

@[simp] theorem State.mapEgressLanes_pending (s : State) (f : Fin 32 → EgressLane → EgressLane) : (s.mapEgressLanes f).pending = s.pending := by
  dsimp only [State.mapEgressLanes]
@[simp] theorem State.mapEgressLanes_powerReset (s : State) (f : Fin 32 → EgressLane → EgressLane) : (s.mapEgressLanes f).powerReset = s.powerReset := by
  dsimp only [State.mapEgressLanes]
@[simp] theorem State.mapEgressLanes_resetLow (s : State) (f : Fin 32 → EgressLane → EgressLane) : (s.mapEgressLanes f).resetLow = s.resetLow := by
  dsimp only [State.mapEgressLanes]
@[simp] theorem State.mapEgressLanes_straps (s : State) (f : Fin 32 → EgressLane → EgressLane) : (s.mapEgressLanes f).straps = s.straps := by
  dsimp only [State.mapEgressLanes]
@[simp] theorem State.mapEgressLanes_node (s : State) (f : Fin 32 → EgressLane → EgressLane) : (s.mapEgressLanes f).node = s.node := by
  dsimp only [State.mapEgressLanes]
@[simp] theorem State.mapEgressLanes_tables (s : State) (f : Fin 32 → EgressLane → EgressLane) : (s.mapEgressLanes f).tables = s.tables := by
  dsimp only [State.mapEgressLanes]
@[simp] theorem State.mapEgressLanes_rx (s : State) (f : Fin 32 → EgressLane → EgressLane) : (s.mapEgressLanes f).rx = s.rx := by
  dsimp only [State.mapEgressLanes]
@[simp] theorem State.mapEgressLanes_lanes (s : State) (f : Fin 32 → EgressLane → EgressLane) : (s.mapEgressLanes f).lanes = s.lanes := by
  dsimp only [State.mapEgressLanes]
@[simp] theorem State.mapEgressLanes_mem (s : State) (f : Fin 32 → EgressLane → EgressLane) : (s.mapEgressLanes f).mem = s.mem := by
  dsimp only [State.mapEgressLanes]
@[simp] theorem State.mapEgressLanes_programs (s : State) (f : Fin 32 → EgressLane → EgressLane) : (s.mapEgressLanes f).programs = s.programs := by
  dsimp only [State.mapEgressLanes]
@[simp] theorem State.mapEgressLanes_alarm (s : State) (f : Fin 32 → EgressLane → EgressLane) : (s.mapEgressLanes f).alarm = s.alarm := by
  dsimp only [State.mapEgressLanes]
@[simp] theorem State.mapEgressLanes_house (s : State) (f : Fin 32 → EgressLane → EgressLane) : (s.mapEgressLanes f).house = s.house := by
  dsimp only [State.mapEgressLanes]
@[simp] theorem State.mapEgressLanes_orders (s : State) (f : Fin 32 → EgressLane → EgressLane) : (s.mapEgressLanes f).orders = s.orders := by
  dsimp only [State.mapEgressLanes]

/-! ### State.driveLines -/

@[simp] theorem State.driveLines_pending (s : State) : s.driveLines.pending = s.pending := by
  dsimp only [State.driveLines]
@[simp] theorem State.driveLines_powerReset (s : State) : s.driveLines.powerReset = s.powerReset := by
  dsimp only [State.driveLines]
@[simp] theorem State.driveLines_resetLow (s : State) : s.driveLines.resetLow = s.resetLow := by
  dsimp only [State.driveLines]
@[simp] theorem State.driveLines_straps (s : State) : s.driveLines.straps = s.straps := by
  dsimp only [State.driveLines]
@[simp] theorem State.driveLines_node (s : State) : s.driveLines.node = s.node := by
  dsimp only [State.driveLines]
@[simp] theorem State.driveLines_tables (s : State) : s.driveLines.tables = s.tables := by
  dsimp only [State.driveLines]
@[simp] theorem State.driveLines_rx (s : State) : s.driveLines.rx = s.rx := by
  dsimp only [State.driveLines]
@[simp] theorem State.driveLines_lanes (s : State) : s.driveLines.lanes = s.lanes := by
  dsimp only [State.driveLines]
@[simp] theorem State.driveLines_mem (s : State) : s.driveLines.mem = s.mem := by
  dsimp only [State.driveLines]
@[simp] theorem State.driveLines_programs (s : State) : s.driveLines.programs = s.programs := by
  dsimp only [State.driveLines]
@[simp] theorem State.driveLines_house (s : State) : s.driveLines.house = s.house := by
  dsimp only [State.driveLines]
@[simp] theorem State.driveLines_egress (s : State) : s.driveLines.egress = s.egress := by
  dsimp only [State.driveLines]
@[simp] theorem State.driveLines_orders (s : State) : s.driveLines.orders = s.orders := by
  dsimp only [State.driveLines]

/-! ### State.followThrough -/

@[simp] theorem State.followThrough_pending (s : State) : s.followThrough.pending = s.pending := by
  dsimp only [State.followThrough, State.driveLines, State.mapPrograms]
@[simp] theorem State.followThrough_powerReset (s : State) : s.followThrough.powerReset = s.powerReset := by
  dsimp only [State.followThrough, State.driveLines, State.mapPrograms]
@[simp] theorem State.followThrough_resetLow (s : State) : s.followThrough.resetLow = s.resetLow := by
  dsimp only [State.followThrough, State.driveLines, State.mapPrograms]
@[simp] theorem State.followThrough_straps (s : State) : s.followThrough.straps = s.straps := by
  dsimp only [State.followThrough, State.driveLines, State.mapPrograms]
@[simp] theorem State.followThrough_node (s : State) : s.followThrough.node = s.node := by
  dsimp only [State.followThrough, State.driveLines, State.mapPrograms]
@[simp] theorem State.followThrough_tables (s : State) : s.followThrough.tables = s.tables := by
  dsimp only [State.followThrough, State.driveLines, State.mapPrograms]
@[simp] theorem State.followThrough_rx (s : State) : s.followThrough.rx = s.rx := by
  dsimp only [State.followThrough, State.driveLines, State.mapPrograms]
@[simp] theorem State.followThrough_lanes (s : State) : s.followThrough.lanes = s.lanes := by
  dsimp only [State.followThrough, State.driveLines, State.mapPrograms]
@[simp] theorem State.followThrough_mem (s : State) : s.followThrough.mem = s.mem := by
  dsimp only [State.followThrough, State.driveLines, State.mapPrograms]
@[simp] theorem State.followThrough_house (s : State) : s.followThrough.house = s.house := by
  dsimp only [State.followThrough, State.driveLines, State.mapPrograms]
@[simp] theorem State.followThrough_egress (s : State) : s.followThrough.egress = s.egress := by
  dsimp only [State.followThrough, State.driveLines, State.mapPrograms]
@[simp] theorem State.followThrough_orders (s : State) : s.followThrough.orders = s.orders := by
  dsimp only [State.followThrough, State.driveLines, State.mapPrograms]

/-! ### State.refreshNotice -/

@[simp] theorem State.refreshNotice_pending (s : State) (r : Fin 64) : (s.refreshNotice r).pending = s.pending := by
  dsimp only [State.refreshNotice]
@[simp] theorem State.refreshNotice_powerReset (s : State) (r : Fin 64) : (s.refreshNotice r).powerReset = s.powerReset := by
  dsimp only [State.refreshNotice]
@[simp] theorem State.refreshNotice_resetLow (s : State) (r : Fin 64) : (s.refreshNotice r).resetLow = s.resetLow := by
  dsimp only [State.refreshNotice]
@[simp] theorem State.refreshNotice_straps (s : State) (r : Fin 64) : (s.refreshNotice r).straps = s.straps := by
  dsimp only [State.refreshNotice]
@[simp] theorem State.refreshNotice_node (s : State) (r : Fin 64) : (s.refreshNotice r).node = s.node := by
  dsimp only [State.refreshNotice]
@[simp] theorem State.refreshNotice_tables (s : State) (r : Fin 64) : (s.refreshNotice r).tables = s.tables := by
  dsimp only [State.refreshNotice]
@[simp] theorem State.refreshNotice_rx (s : State) (r : Fin 64) : (s.refreshNotice r).rx = s.rx := by
  dsimp only [State.refreshNotice]
@[simp] theorem State.refreshNotice_lanes (s : State) (r : Fin 64) : (s.refreshNotice r).lanes = s.lanes := by
  dsimp only [State.refreshNotice]
@[simp] theorem State.refreshNotice_mem (s : State) (r : Fin 64) : (s.refreshNotice r).mem = s.mem := by
  dsimp only [State.refreshNotice]
@[simp] theorem State.refreshNotice_programs (s : State) (r : Fin 64) : (s.refreshNotice r).programs = s.programs := by
  dsimp only [State.refreshNotice]
@[simp] theorem State.refreshNotice_house (s : State) (r : Fin 64) : (s.refreshNotice r).house = s.house := by
  dsimp only [State.refreshNotice]
@[simp] theorem State.refreshNotice_egress (s : State) (r : Fin 64) : (s.refreshNotice r).egress = s.egress := by
  dsimp only [State.refreshNotice]
@[simp] theorem State.refreshNotice_orders (s : State) (r : Fin 64) : (s.refreshNotice r).orders = s.orders := by
  dsimp only [State.refreshNotice]

/-! ### State.dropNotices -/

@[simp] theorem State.dropNotices_pending (s : State) : s.dropNotices.pending = s.pending := by
  dsimp only [State.dropNotices]
@[simp] theorem State.dropNotices_powerReset (s : State) : s.dropNotices.powerReset = s.powerReset := by
  dsimp only [State.dropNotices]
@[simp] theorem State.dropNotices_resetLow (s : State) : s.dropNotices.resetLow = s.resetLow := by
  dsimp only [State.dropNotices]
@[simp] theorem State.dropNotices_straps (s : State) : s.dropNotices.straps = s.straps := by
  dsimp only [State.dropNotices]
@[simp] theorem State.dropNotices_node (s : State) : s.dropNotices.node = s.node := by
  dsimp only [State.dropNotices]
@[simp] theorem State.dropNotices_tables (s : State) : s.dropNotices.tables = s.tables := by
  dsimp only [State.dropNotices]
@[simp] theorem State.dropNotices_rx (s : State) : s.dropNotices.rx = s.rx := by
  dsimp only [State.dropNotices]
@[simp] theorem State.dropNotices_lanes (s : State) : s.dropNotices.lanes = s.lanes := by
  dsimp only [State.dropNotices]
@[simp] theorem State.dropNotices_mem (s : State) : s.dropNotices.mem = s.mem := by
  dsimp only [State.dropNotices]
@[simp] theorem State.dropNotices_programs (s : State) : s.dropNotices.programs = s.programs := by
  dsimp only [State.dropNotices]
@[simp] theorem State.dropNotices_house (s : State) : s.dropNotices.house = s.house := by
  dsimp only [State.dropNotices]
@[simp] theorem State.dropNotices_egress (s : State) : s.dropNotices.egress = s.egress := by
  dsimp only [State.dropNotices]
@[simp] theorem State.dropNotices_orders (s : State) : s.dropNotices.orders = s.orders := by
  dsimp only [State.dropNotices]

/-! ### State.putInForce -/

@[simp] theorem State.putInForce_pending (s : State) (p : Fin 16) (v : Nat) : (s.putInForce p v).pending = s.pending := by
  dsimp only [State.putInForce, State.setProgram]
@[simp] theorem State.putInForce_powerReset (s : State) (p : Fin 16) (v : Nat) : (s.putInForce p v).powerReset = s.powerReset := by
  dsimp only [State.putInForce, State.setProgram]
@[simp] theorem State.putInForce_resetLow (s : State) (p : Fin 16) (v : Nat) : (s.putInForce p v).resetLow = s.resetLow := by
  dsimp only [State.putInForce, State.setProgram]
@[simp] theorem State.putInForce_straps (s : State) (p : Fin 16) (v : Nat) : (s.putInForce p v).straps = s.straps := by
  dsimp only [State.putInForce, State.setProgram]
@[simp] theorem State.putInForce_node (s : State) (p : Fin 16) (v : Nat) : (s.putInForce p v).node = s.node := by
  dsimp only [State.putInForce, State.setProgram]
@[simp] theorem State.putInForce_tables (s : State) (p : Fin 16) (v : Nat) : (s.putInForce p v).tables = s.tables := by
  dsimp only [State.putInForce, State.setProgram]
@[simp] theorem State.putInForce_rx (s : State) (p : Fin 16) (v : Nat) : (s.putInForce p v).rx = s.rx := by
  dsimp only [State.putInForce, State.setProgram]
@[simp] theorem State.putInForce_lanes (s : State) (p : Fin 16) (v : Nat) : (s.putInForce p v).lanes = s.lanes := by
  dsimp only [State.putInForce, State.setProgram]
@[simp] theorem State.putInForce_mem (s : State) (p : Fin 16) (v : Nat) : (s.putInForce p v).mem = s.mem := by
  dsimp only [State.putInForce, State.setProgram]
@[simp] theorem State.putInForce_alarm (s : State) (p : Fin 16) (v : Nat) : (s.putInForce p v).alarm = s.alarm := by
  dsimp only [State.putInForce, State.setProgram]
@[simp] theorem State.putInForce_house (s : State) (p : Fin 16) (v : Nat) : (s.putInForce p v).house = s.house := by
  dsimp only [State.putInForce, State.setProgram]
@[simp] theorem State.putInForce_egress (s : State) (p : Fin 16) (v : Nat) : (s.putInForce p v).egress = s.egress := by
  dsimp only [State.putInForce, State.setProgram]
@[simp] theorem State.putInForce_orders (s : State) (p : Fin 16) (v : Nat) : (s.putInForce p v).orders = s.orders := by
  dsimp only [State.putInForce, State.setProgram]

/-! ### State.markDiscontinuity -/

@[simp] theorem State.markDiscontinuity_pending (s : State) (p : Fin 16) : (s.markDiscontinuity p).pending = s.pending := by
  dsimp only [State.markDiscontinuity, State.mapEgressLanes]
@[simp] theorem State.markDiscontinuity_powerReset (s : State) (p : Fin 16) : (s.markDiscontinuity p).powerReset = s.powerReset := by
  dsimp only [State.markDiscontinuity, State.mapEgressLanes]
@[simp] theorem State.markDiscontinuity_resetLow (s : State) (p : Fin 16) : (s.markDiscontinuity p).resetLow = s.resetLow := by
  dsimp only [State.markDiscontinuity, State.mapEgressLanes]
@[simp] theorem State.markDiscontinuity_straps (s : State) (p : Fin 16) : (s.markDiscontinuity p).straps = s.straps := by
  dsimp only [State.markDiscontinuity, State.mapEgressLanes]
@[simp] theorem State.markDiscontinuity_node (s : State) (p : Fin 16) : (s.markDiscontinuity p).node = s.node := by
  dsimp only [State.markDiscontinuity, State.mapEgressLanes]
@[simp] theorem State.markDiscontinuity_tables (s : State) (p : Fin 16) : (s.markDiscontinuity p).tables = s.tables := by
  dsimp only [State.markDiscontinuity, State.mapEgressLanes]
@[simp] theorem State.markDiscontinuity_rx (s : State) (p : Fin 16) : (s.markDiscontinuity p).rx = s.rx := by
  dsimp only [State.markDiscontinuity, State.mapEgressLanes]
@[simp] theorem State.markDiscontinuity_lanes (s : State) (p : Fin 16) : (s.markDiscontinuity p).lanes = s.lanes := by
  dsimp only [State.markDiscontinuity, State.mapEgressLanes]
@[simp] theorem State.markDiscontinuity_mem (s : State) (p : Fin 16) : (s.markDiscontinuity p).mem = s.mem := by
  dsimp only [State.markDiscontinuity, State.mapEgressLanes]
@[simp] theorem State.markDiscontinuity_programs (s : State) (p : Fin 16) : (s.markDiscontinuity p).programs = s.programs := by
  dsimp only [State.markDiscontinuity, State.mapEgressLanes]
@[simp] theorem State.markDiscontinuity_alarm (s : State) (p : Fin 16) : (s.markDiscontinuity p).alarm = s.alarm := by
  dsimp only [State.markDiscontinuity, State.mapEgressLanes]
@[simp] theorem State.markDiscontinuity_house (s : State) (p : Fin 16) : (s.markDiscontinuity p).house = s.house := by
  dsimp only [State.markDiscontinuity, State.mapEgressLanes]
@[simp] theorem State.markDiscontinuity_orders (s : State) (p : Fin 16) : (s.markDiscontinuity p).orders = s.orders := by
  dsimp only [State.markDiscontinuity, State.mapEgressLanes]

/-! ### State.impair -/

@[simp] theorem State.impair_pending (s : State) (p : Fin 16) : (s.impair p).pending = s.pending := by
  dsimp only [State.impair, State.setProgram]
@[simp] theorem State.impair_powerReset (s : State) (p : Fin 16) : (s.impair p).powerReset = s.powerReset := by
  dsimp only [State.impair, State.setProgram]
@[simp] theorem State.impair_resetLow (s : State) (p : Fin 16) : (s.impair p).resetLow = s.resetLow := by
  dsimp only [State.impair, State.setProgram]
@[simp] theorem State.impair_straps (s : State) (p : Fin 16) : (s.impair p).straps = s.straps := by
  dsimp only [State.impair, State.setProgram]
@[simp] theorem State.impair_node (s : State) (p : Fin 16) : (s.impair p).node = s.node := by
  dsimp only [State.impair, State.setProgram]
@[simp] theorem State.impair_tables (s : State) (p : Fin 16) : (s.impair p).tables = s.tables := by
  dsimp only [State.impair, State.setProgram]
@[simp] theorem State.impair_rx (s : State) (p : Fin 16) : (s.impair p).rx = s.rx := by
  dsimp only [State.impair, State.setProgram]
@[simp] theorem State.impair_lanes (s : State) (p : Fin 16) : (s.impair p).lanes = s.lanes := by
  dsimp only [State.impair, State.setProgram]
@[simp] theorem State.impair_mem (s : State) (p : Fin 16) : (s.impair p).mem = s.mem := by
  dsimp only [State.impair, State.setProgram]
@[simp] theorem State.impair_alarm (s : State) (p : Fin 16) : (s.impair p).alarm = s.alarm := by
  dsimp only [State.impair, State.setProgram]
@[simp] theorem State.impair_house (s : State) (p : Fin 16) : (s.impair p).house = s.house := by
  dsimp only [State.impair, State.setProgram]
@[simp] theorem State.impair_egress (s : State) (p : Fin 16) : (s.impair p).egress = s.egress := by
  dsimp only [State.impair, State.setProgram]
@[simp] theorem State.impair_orders (s : State) (p : Fin 16) : (s.impair p).orders = s.orders := by
  dsimp only [State.impair, State.setProgram]

/-! ### State.setLaneEntry -/

@[simp] theorem State.setLaneEntry_pending (s : State) (l : Fin 32) (e : LaneEntry) : (s.setLaneEntry l e).pending = s.pending := by
  dsimp only [State.setLaneEntry]
@[simp] theorem State.setLaneEntry_powerReset (s : State) (l : Fin 32) (e : LaneEntry) : (s.setLaneEntry l e).powerReset = s.powerReset := by
  dsimp only [State.setLaneEntry]
@[simp] theorem State.setLaneEntry_resetLow (s : State) (l : Fin 32) (e : LaneEntry) : (s.setLaneEntry l e).resetLow = s.resetLow := by
  dsimp only [State.setLaneEntry]
@[simp] theorem State.setLaneEntry_straps (s : State) (l : Fin 32) (e : LaneEntry) : (s.setLaneEntry l e).straps = s.straps := by
  dsimp only [State.setLaneEntry]
@[simp] theorem State.setLaneEntry_node (s : State) (l : Fin 32) (e : LaneEntry) : (s.setLaneEntry l e).node = s.node := by
  dsimp only [State.setLaneEntry]
@[simp] theorem State.setLaneEntry_rx (s : State) (l : Fin 32) (e : LaneEntry) : (s.setLaneEntry l e).rx = s.rx := by
  dsimp only [State.setLaneEntry]
@[simp] theorem State.setLaneEntry_lanes (s : State) (l : Fin 32) (e : LaneEntry) : (s.setLaneEntry l e).lanes = s.lanes := by
  dsimp only [State.setLaneEntry]
@[simp] theorem State.setLaneEntry_mem (s : State) (l : Fin 32) (e : LaneEntry) : (s.setLaneEntry l e).mem = s.mem := by
  dsimp only [State.setLaneEntry]
@[simp] theorem State.setLaneEntry_programs (s : State) (l : Fin 32) (e : LaneEntry) : (s.setLaneEntry l e).programs = s.programs := by
  dsimp only [State.setLaneEntry]
@[simp] theorem State.setLaneEntry_alarm (s : State) (l : Fin 32) (e : LaneEntry) : (s.setLaneEntry l e).alarm = s.alarm := by
  dsimp only [State.setLaneEntry]
@[simp] theorem State.setLaneEntry_house (s : State) (l : Fin 32) (e : LaneEntry) : (s.setLaneEntry l e).house = s.house := by
  dsimp only [State.setLaneEntry]
@[simp] theorem State.setLaneEntry_egress (s : State) (l : Fin 32) (e : LaneEntry) : (s.setLaneEntry l e).egress = s.egress := by
  dsimp only [State.setLaneEntry]
@[simp] theorem State.setLaneEntry_orders (s : State) (l : Fin 32) (e : LaneEntry) : (s.setLaneEntry l e).orders = s.orders := by
  dsimp only [State.setLaneEntry]

/-! ### State.setEntry -/

@[simp] theorem State.setEntry_pending (s : State) (p : Fin 16) (e : ProgramEntry) : (s.setEntry p e).pending = s.pending := by
  dsimp only [State.setEntry]
@[simp] theorem State.setEntry_powerReset (s : State) (p : Fin 16) (e : ProgramEntry) : (s.setEntry p e).powerReset = s.powerReset := by
  dsimp only [State.setEntry]
@[simp] theorem State.setEntry_resetLow (s : State) (p : Fin 16) (e : ProgramEntry) : (s.setEntry p e).resetLow = s.resetLow := by
  dsimp only [State.setEntry]
@[simp] theorem State.setEntry_straps (s : State) (p : Fin 16) (e : ProgramEntry) : (s.setEntry p e).straps = s.straps := by
  dsimp only [State.setEntry]
@[simp] theorem State.setEntry_node (s : State) (p : Fin 16) (e : ProgramEntry) : (s.setEntry p e).node = s.node := by
  dsimp only [State.setEntry]
@[simp] theorem State.setEntry_rx (s : State) (p : Fin 16) (e : ProgramEntry) : (s.setEntry p e).rx = s.rx := by
  dsimp only [State.setEntry]
@[simp] theorem State.setEntry_lanes (s : State) (p : Fin 16) (e : ProgramEntry) : (s.setEntry p e).lanes = s.lanes := by
  dsimp only [State.setEntry]
@[simp] theorem State.setEntry_mem (s : State) (p : Fin 16) (e : ProgramEntry) : (s.setEntry p e).mem = s.mem := by
  dsimp only [State.setEntry]
@[simp] theorem State.setEntry_programs (s : State) (p : Fin 16) (e : ProgramEntry) : (s.setEntry p e).programs = s.programs := by
  dsimp only [State.setEntry]
@[simp] theorem State.setEntry_alarm (s : State) (p : Fin 16) (e : ProgramEntry) : (s.setEntry p e).alarm = s.alarm := by
  dsimp only [State.setEntry]
@[simp] theorem State.setEntry_house (s : State) (p : Fin 16) (e : ProgramEntry) : (s.setEntry p e).house = s.house := by
  dsimp only [State.setEntry]
@[simp] theorem State.setEntry_egress (s : State) (p : Fin 16) (e : ProgramEntry) : (s.setEntry p e).egress = s.egress := by
  dsimp only [State.setEntry]
@[simp] theorem State.setEntry_orders (s : State) (p : Fin 16) (e : ProgramEntry) : (s.setEntry p e).orders = s.orders := by
  dsimp only [State.setEntry]

/-! ### State.slotTaken -/

@[simp] theorem State.slotTaken_pending (s : State) (run : Nat) : (s.slotTaken run).pending = s.pending := by
  dsimp only [State.slotTaken]
@[simp] theorem State.slotTaken_powerReset (s : State) (run : Nat) : (s.slotTaken run).powerReset = s.powerReset := by
  dsimp only [State.slotTaken]
@[simp] theorem State.slotTaken_resetLow (s : State) (run : Nat) : (s.slotTaken run).resetLow = s.resetLow := by
  dsimp only [State.slotTaken]
@[simp] theorem State.slotTaken_straps (s : State) (run : Nat) : (s.slotTaken run).straps = s.straps := by
  dsimp only [State.slotTaken]
@[simp] theorem State.slotTaken_node (s : State) (run : Nat) : (s.slotTaken run).node = s.node := by
  dsimp only [State.slotTaken]
@[simp] theorem State.slotTaken_tables (s : State) (run : Nat) : (s.slotTaken run).tables = s.tables := by
  dsimp only [State.slotTaken]
@[simp] theorem State.slotTaken_lanes (s : State) (run : Nat) : (s.slotTaken run).lanes = s.lanes := by
  dsimp only [State.slotTaken]
@[simp] theorem State.slotTaken_mem (s : State) (run : Nat) : (s.slotTaken run).mem = s.mem := by
  dsimp only [State.slotTaken]
@[simp] theorem State.slotTaken_programs (s : State) (run : Nat) : (s.slotTaken run).programs = s.programs := by
  dsimp only [State.slotTaken]
@[simp] theorem State.slotTaken_alarm (s : State) (run : Nat) : (s.slotTaken run).alarm = s.alarm := by
  dsimp only [State.slotTaken]
@[simp] theorem State.slotTaken_house (s : State) (run : Nat) : (s.slotTaken run).house = s.house := by
  dsimp only [State.slotTaken]
@[simp] theorem State.slotTaken_egress (s : State) (run : Nat) : (s.slotTaken run).egress = s.egress := by
  dsimp only [State.slotTaken]
@[simp] theorem State.slotTaken_orders (s : State) (run : Nat) : (s.slotTaken run).orders = s.orders := by
  dsimp only [State.slotTaken]

/-! ### State.dropHead -/

@[simp] theorem State.dropHead_pending (s : State) : s.dropHead.pending = s.pending := by
  dsimp only [State.dropHead]
@[simp] theorem State.dropHead_powerReset (s : State) : s.dropHead.powerReset = s.powerReset := by
  dsimp only [State.dropHead]
@[simp] theorem State.dropHead_resetLow (s : State) : s.dropHead.resetLow = s.resetLow := by
  dsimp only [State.dropHead]
@[simp] theorem State.dropHead_straps (s : State) : s.dropHead.straps = s.straps := by
  dsimp only [State.dropHead]
@[simp] theorem State.dropHead_node (s : State) : s.dropHead.node = s.node := by
  dsimp only [State.dropHead]
@[simp] theorem State.dropHead_tables (s : State) : s.dropHead.tables = s.tables := by
  dsimp only [State.dropHead]
@[simp] theorem State.dropHead_rx (s : State) : s.dropHead.rx = s.rx := by
  dsimp only [State.dropHead]
@[simp] theorem State.dropHead_lanes (s : State) : s.dropHead.lanes = s.lanes := by
  dsimp only [State.dropHead]
@[simp] theorem State.dropHead_mem (s : State) : s.dropHead.mem = s.mem := by
  dsimp only [State.dropHead]
@[simp] theorem State.dropHead_programs (s : State) : s.dropHead.programs = s.programs := by
  dsimp only [State.dropHead]
@[simp] theorem State.dropHead_alarm (s : State) : s.dropHead.alarm = s.alarm := by
  dsimp only [State.dropHead]
@[simp] theorem State.dropHead_house (s : State) : s.dropHead.house = s.house := by
  dsimp only [State.dropHead]
@[simp] theorem State.dropHead_egress (s : State) : s.dropHead.egress = s.egress := by
  dsimp only [State.dropHead]

/-! ### State.answer -/

@[simp] theorem State.answer_pending (s : State) (o : Order) (status : Status) (results : List Byte) : (s.answer o status results).pending = s.pending := by
  dsimp only [State.answer]
@[simp] theorem State.answer_powerReset (s : State) (o : Order) (status : Status) (results : List Byte) : (s.answer o status results).powerReset = s.powerReset := by
  dsimp only [State.answer]
@[simp] theorem State.answer_resetLow (s : State) (o : Order) (status : Status) (results : List Byte) : (s.answer o status results).resetLow = s.resetLow := by
  dsimp only [State.answer]
@[simp] theorem State.answer_straps (s : State) (o : Order) (status : Status) (results : List Byte) : (s.answer o status results).straps = s.straps := by
  dsimp only [State.answer]
@[simp] theorem State.answer_node (s : State) (o : Order) (status : Status) (results : List Byte) : (s.answer o status results).node = s.node := by
  dsimp only [State.answer]
@[simp] theorem State.answer_tables (s : State) (o : Order) (status : Status) (results : List Byte) : (s.answer o status results).tables = s.tables := by
  dsimp only [State.answer]
@[simp] theorem State.answer_rx (s : State) (o : Order) (status : Status) (results : List Byte) : (s.answer o status results).rx = s.rx := by
  dsimp only [State.answer]
@[simp] theorem State.answer_lanes (s : State) (o : Order) (status : Status) (results : List Byte) : (s.answer o status results).lanes = s.lanes := by
  dsimp only [State.answer]
@[simp] theorem State.answer_mem (s : State) (o : Order) (status : Status) (results : List Byte) : (s.answer o status results).mem = s.mem := by
  dsimp only [State.answer]
@[simp] theorem State.answer_programs (s : State) (o : Order) (status : Status) (results : List Byte) : (s.answer o status results).programs = s.programs := by
  dsimp only [State.answer]
@[simp] theorem State.answer_alarm (s : State) (o : Order) (status : Status) (results : List Byte) : (s.answer o status results).alarm = s.alarm := by
  dsimp only [State.answer]
@[simp] theorem State.answer_house (s : State) (o : Order) (status : Status) (results : List Byte) : (s.answer o status results).house = s.house := by
  dsimp only [State.answer]
@[simp] theorem State.answer_egress (s : State) (o : Order) (status : Status) (results : List Byte) : (s.answer o status results).egress = s.egress := by
  dsimp only [State.answer]

/-! ### State.recordOwing -/

@[simp] theorem State.recordOwing_pending (s : State) (o : Order) (unit : UnitState) : (s.recordOwing o unit).pending = s.pending := by
  dsimp only [State.recordOwing]
@[simp] theorem State.recordOwing_powerReset (s : State) (o : Order) (unit : UnitState) : (s.recordOwing o unit).powerReset = s.powerReset := by
  dsimp only [State.recordOwing]
@[simp] theorem State.recordOwing_resetLow (s : State) (o : Order) (unit : UnitState) : (s.recordOwing o unit).resetLow = s.resetLow := by
  dsimp only [State.recordOwing]
@[simp] theorem State.recordOwing_straps (s : State) (o : Order) (unit : UnitState) : (s.recordOwing o unit).straps = s.straps := by
  dsimp only [State.recordOwing]
@[simp] theorem State.recordOwing_node (s : State) (o : Order) (unit : UnitState) : (s.recordOwing o unit).node = s.node := by
  dsimp only [State.recordOwing]
@[simp] theorem State.recordOwing_tables (s : State) (o : Order) (unit : UnitState) : (s.recordOwing o unit).tables = s.tables := by
  dsimp only [State.recordOwing]
@[simp] theorem State.recordOwing_rx (s : State) (o : Order) (unit : UnitState) : (s.recordOwing o unit).rx = s.rx := by
  dsimp only [State.recordOwing]
@[simp] theorem State.recordOwing_lanes (s : State) (o : Order) (unit : UnitState) : (s.recordOwing o unit).lanes = s.lanes := by
  dsimp only [State.recordOwing]
@[simp] theorem State.recordOwing_mem (s : State) (o : Order) (unit : UnitState) : (s.recordOwing o unit).mem = s.mem := by
  dsimp only [State.recordOwing]
@[simp] theorem State.recordOwing_programs (s : State) (o : Order) (unit : UnitState) : (s.recordOwing o unit).programs = s.programs := by
  dsimp only [State.recordOwing]
@[simp] theorem State.recordOwing_alarm (s : State) (o : Order) (unit : UnitState) : (s.recordOwing o unit).alarm = s.alarm := by
  dsimp only [State.recordOwing]
@[simp] theorem State.recordOwing_house (s : State) (o : Order) (unit : UnitState) : (s.recordOwing o unit).house = s.house := by
  dsimp only [State.recordOwing]
@[simp] theorem State.recordOwing_egress (s : State) (o : Order) (unit : UnitState) : (s.recordOwing o unit).egress = s.egress := by
  dsimp only [State.recordOwing]

/-! ### State.writeWord -/

@[simp] theorem State.writeWord_pending (s : State) (l : Fin 32) (t : Stamp) (x : Sample) (suspect : Bool) : (s.writeWord l t x suspect).pending = s.pending := by
  dsimp only [State.writeWord, State.setLane]
@[simp] theorem State.writeWord_powerReset (s : State) (l : Fin 32) (t : Stamp) (x : Sample) (suspect : Bool) : (s.writeWord l t x suspect).powerReset = s.powerReset := by
  dsimp only [State.writeWord, State.setLane]
@[simp] theorem State.writeWord_resetLow (s : State) (l : Fin 32) (t : Stamp) (x : Sample) (suspect : Bool) : (s.writeWord l t x suspect).resetLow = s.resetLow := by
  dsimp only [State.writeWord, State.setLane]
@[simp] theorem State.writeWord_straps (s : State) (l : Fin 32) (t : Stamp) (x : Sample) (suspect : Bool) : (s.writeWord l t x suspect).straps = s.straps := by
  dsimp only [State.writeWord, State.setLane]
@[simp] theorem State.writeWord_node (s : State) (l : Fin 32) (t : Stamp) (x : Sample) (suspect : Bool) : (s.writeWord l t x suspect).node = s.node := by
  dsimp only [State.writeWord, State.setLane]
@[simp] theorem State.writeWord_tables (s : State) (l : Fin 32) (t : Stamp) (x : Sample) (suspect : Bool) : (s.writeWord l t x suspect).tables = s.tables := by
  dsimp only [State.writeWord, State.setLane]
@[simp] theorem State.writeWord_rx (s : State) (l : Fin 32) (t : Stamp) (x : Sample) (suspect : Bool) : (s.writeWord l t x suspect).rx = s.rx := by
  dsimp only [State.writeWord, State.setLane]
@[simp] theorem State.writeWord_programs (s : State) (l : Fin 32) (t : Stamp) (x : Sample) (suspect : Bool) : (s.writeWord l t x suspect).programs = s.programs := by
  dsimp only [State.writeWord, State.setLane]
@[simp] theorem State.writeWord_alarm (s : State) (l : Fin 32) (t : Stamp) (x : Sample) (suspect : Bool) : (s.writeWord l t x suspect).alarm = s.alarm := by
  dsimp only [State.writeWord, State.setLane]
@[simp] theorem State.writeWord_house (s : State) (l : Fin 32) (t : Stamp) (x : Sample) (suspect : Bool) : (s.writeWord l t x suspect).house = s.house := by
  dsimp only [State.writeWord, State.setLane]
@[simp] theorem State.writeWord_egress (s : State) (l : Fin 32) (t : Stamp) (x : Sample) (suspect : Bool) : (s.writeWord l t x suspect).egress = s.egress := by
  dsimp only [State.writeWord, State.setLane]
@[simp] theorem State.writeWord_orders (s : State) (l : Fin 32) (t : Stamp) (x : Sample) (suspect : Bool) : (s.writeWord l t x suspect).orders = s.orders := by
  dsimp only [State.writeWord, State.setLane]

/-! ### State.retireLane -/

@[simp] theorem State.retireLane_pending (s : State) (l : Fin 32) (old new : Stamp) : (s.retireLane l old new).pending = s.pending := by
  dsimp only [State.retireLane, State.setLane]
@[simp] theorem State.retireLane_powerReset (s : State) (l : Fin 32) (old new : Stamp) : (s.retireLane l old new).powerReset = s.powerReset := by
  dsimp only [State.retireLane, State.setLane]
@[simp] theorem State.retireLane_resetLow (s : State) (l : Fin 32) (old new : Stamp) : (s.retireLane l old new).resetLow = s.resetLow := by
  dsimp only [State.retireLane, State.setLane]
@[simp] theorem State.retireLane_straps (s : State) (l : Fin 32) (old new : Stamp) : (s.retireLane l old new).straps = s.straps := by
  dsimp only [State.retireLane, State.setLane]
@[simp] theorem State.retireLane_node (s : State) (l : Fin 32) (old new : Stamp) : (s.retireLane l old new).node = s.node := by
  dsimp only [State.retireLane, State.setLane]
@[simp] theorem State.retireLane_tables (s : State) (l : Fin 32) (old new : Stamp) : (s.retireLane l old new).tables = s.tables := by
  dsimp only [State.retireLane, State.setLane]
@[simp] theorem State.retireLane_rx (s : State) (l : Fin 32) (old new : Stamp) : (s.retireLane l old new).rx = s.rx := by
  dsimp only [State.retireLane, State.setLane]
@[simp] theorem State.retireLane_programs (s : State) (l : Fin 32) (old new : Stamp) : (s.retireLane l old new).programs = s.programs := by
  dsimp only [State.retireLane, State.setLane]
@[simp] theorem State.retireLane_alarm (s : State) (l : Fin 32) (old new : Stamp) : (s.retireLane l old new).alarm = s.alarm := by
  dsimp only [State.retireLane, State.setLane]
@[simp] theorem State.retireLane_house (s : State) (l : Fin 32) (old new : Stamp) : (s.retireLane l old new).house = s.house := by
  dsimp only [State.retireLane, State.setLane]
@[simp] theorem State.retireLane_egress (s : State) (l : Fin 32) (old new : Stamp) : (s.retireLane l old new).egress = s.egress := by
  dsimp only [State.retireLane, State.setLane]
@[simp] theorem State.retireLane_orders (s : State) (l : Fin 32) (old new : Stamp) : (s.retireLane l old new).orders = s.orders := by
  dsimp only [State.retireLane, State.setLane]

/-! ### State.flushLane -/

@[simp] theorem State.flushLane_pending (s : State) (l : Fin 32) : (s.flushLane l).pending = s.pending := by
  dsimp only [State.flushLane, State.setLane]
@[simp] theorem State.flushLane_powerReset (s : State) (l : Fin 32) : (s.flushLane l).powerReset = s.powerReset := by
  dsimp only [State.flushLane, State.setLane]
@[simp] theorem State.flushLane_resetLow (s : State) (l : Fin 32) : (s.flushLane l).resetLow = s.resetLow := by
  dsimp only [State.flushLane, State.setLane]
@[simp] theorem State.flushLane_straps (s : State) (l : Fin 32) : (s.flushLane l).straps = s.straps := by
  dsimp only [State.flushLane, State.setLane]
@[simp] theorem State.flushLane_node (s : State) (l : Fin 32) : (s.flushLane l).node = s.node := by
  dsimp only [State.flushLane, State.setLane]
@[simp] theorem State.flushLane_tables (s : State) (l : Fin 32) : (s.flushLane l).tables = s.tables := by
  dsimp only [State.flushLane, State.setLane]
@[simp] theorem State.flushLane_rx (s : State) (l : Fin 32) : (s.flushLane l).rx = s.rx := by
  dsimp only [State.flushLane, State.setLane]
@[simp] theorem State.flushLane_programs (s : State) (l : Fin 32) : (s.flushLane l).programs = s.programs := by
  dsimp only [State.flushLane, State.setLane]
@[simp] theorem State.flushLane_alarm (s : State) (l : Fin 32) : (s.flushLane l).alarm = s.alarm := by
  dsimp only [State.flushLane, State.setLane]
@[simp] theorem State.flushLane_house (s : State) (l : Fin 32) : (s.flushLane l).house = s.house := by
  dsimp only [State.flushLane, State.setLane]
@[simp] theorem State.flushLane_egress (s : State) (l : Fin 32) : (s.flushLane l).egress = s.egress := by
  dsimp only [State.flushLane, State.setLane]
@[simp] theorem State.flushLane_orders (s : State) (l : Fin 32) : (s.flushLane l).orders = s.orders := by
  dsimp only [State.flushLane, State.setLane]

/-! ### Derived reads that an update leaves alone -/

@[simp] theorem State.entry_setLane (s : State) (l : Fin 32) (x : Lane) (q : Fin 16) :
    (s.setLane l x).entry q = s.entry q := by
  simp only [State.entry, State.setLane_tables]
@[simp] theorem State.laneEntry_setLane (s : State) (l : Fin 32) (x : Lane) (k : Fin 32) :
    (s.setLane l x).laneEntry k = s.laneEntry k := by
  simp only [State.laneEntry, State.setLane_tables]
@[simp] theorem State.rule_setLane (s : State) (l : Fin 32) (x : Lane) (q : Fin 64) :
    (s.setLane l x).rule q = s.rule q := by
  simp only [State.rule, State.setLane_tables]
@[simp] theorem State.program_setLane (s : State) (l : Fin 32) (x : Lane) (q : Fin 16) :
    (s.setLane l x).program q = s.program q := by
  simp only [State.program, State.setLane_programs]
@[simp] theorem State.record_setLane (s : State) (l : Fin 32) (x : Lane) (q : Fin 64) :
    (s.setLane l x).record q = s.record q := by
  simp only [State.record, State.setLane_alarm]
@[simp] theorem State.mapEntry_setLane (s : State) (l : Fin 32) (x : Lane) (k : Fin 32) :
    (s.setLane l x).mapEntry k = s.mapEntry k := by
  simp only [State.mapEntry, State.setLane_egress]
@[simp] theorem State.egressLane_setLane (s : State) (l : Fin 32) (x : Lane) (k : Fin 32) :
    (s.setLane l x).egressLane k = s.egressLane k := by
  simp only [State.egressLane, State.setLane_egress]
@[simp] theorem State.entry_mapLanes (s : State) (f : Fin 32 → Lane → Lane) (q : Fin 16) :
    (s.mapLanes f).entry q = s.entry q := by
  simp only [State.entry, State.mapLanes_tables]
@[simp] theorem State.laneEntry_mapLanes (s : State) (f : Fin 32 → Lane → Lane) (k : Fin 32) :
    (s.mapLanes f).laneEntry k = s.laneEntry k := by
  simp only [State.laneEntry, State.mapLanes_tables]
@[simp] theorem State.rule_mapLanes (s : State) (f : Fin 32 → Lane → Lane) (q : Fin 64) :
    (s.mapLanes f).rule q = s.rule q := by
  simp only [State.rule, State.mapLanes_tables]
@[simp] theorem State.program_mapLanes (s : State) (f : Fin 32 → Lane → Lane) (q : Fin 16) :
    (s.mapLanes f).program q = s.program q := by
  simp only [State.program, State.mapLanes_programs]
@[simp] theorem State.record_mapLanes (s : State) (f : Fin 32 → Lane → Lane) (q : Fin 64) :
    (s.mapLanes f).record q = s.record q := by
  simp only [State.record, State.mapLanes_alarm]
@[simp] theorem State.mapEntry_mapLanes (s : State) (f : Fin 32 → Lane → Lane) (k : Fin 32) :
    (s.mapLanes f).mapEntry k = s.mapEntry k := by
  simp only [State.mapEntry, State.mapLanes_egress]
@[simp] theorem State.egressLane_mapLanes (s : State) (f : Fin 32 → Lane → Lane) (k : Fin 32) :
    (s.mapLanes f).egressLane k = s.egressLane k := by
  simp only [State.egressLane, State.mapLanes_egress]
@[simp] theorem State.entry_setProgram (s : State) (p : Fin 16) (x : Program) (q : Fin 16) :
    (s.setProgram p x).entry q = s.entry q := by
  simp only [State.entry, State.setProgram_tables]
@[simp] theorem State.laneEntry_setProgram (s : State) (p : Fin 16) (x : Program) (k : Fin 32) :
    (s.setProgram p x).laneEntry k = s.laneEntry k := by
  simp only [State.laneEntry, State.setProgram_tables]
@[simp] theorem State.rule_setProgram (s : State) (p : Fin 16) (x : Program) (q : Fin 64) :
    (s.setProgram p x).rule q = s.rule q := by
  simp only [State.rule, State.setProgram_tables]
@[simp] theorem State.lane_setProgram (s : State) (p : Fin 16) (x : Program) (k : Fin 32) :
    (s.setProgram p x).lane k = s.lane k := by
  simp only [State.lane, State.setProgram_lanes]
@[simp] theorem State.record_setProgram (s : State) (p : Fin 16) (x : Program) (q : Fin 64) :
    (s.setProgram p x).record q = s.record q := by
  simp only [State.record, State.setProgram_alarm]
@[simp] theorem State.mapEntry_setProgram (s : State) (p : Fin 16) (x : Program) (k : Fin 32) :
    (s.setProgram p x).mapEntry k = s.mapEntry k := by
  simp only [State.mapEntry, State.setProgram_egress]
@[simp] theorem State.egressLane_setProgram (s : State) (p : Fin 16) (x : Program) (k : Fin 32) :
    (s.setProgram p x).egressLane k = s.egressLane k := by
  simp only [State.egressLane, State.setProgram_egress]
@[simp] theorem State.entry_mapPrograms (s : State) (f : Fin 16 → Program → Program) (q : Fin 16) :
    (s.mapPrograms f).entry q = s.entry q := by
  simp only [State.entry, State.mapPrograms_tables]
@[simp] theorem State.laneEntry_mapPrograms (s : State) (f : Fin 16 → Program → Program) (k : Fin 32) :
    (s.mapPrograms f).laneEntry k = s.laneEntry k := by
  simp only [State.laneEntry, State.mapPrograms_tables]
@[simp] theorem State.rule_mapPrograms (s : State) (f : Fin 16 → Program → Program) (q : Fin 64) :
    (s.mapPrograms f).rule q = s.rule q := by
  simp only [State.rule, State.mapPrograms_tables]
@[simp] theorem State.lane_mapPrograms (s : State) (f : Fin 16 → Program → Program) (k : Fin 32) :
    (s.mapPrograms f).lane k = s.lane k := by
  simp only [State.lane, State.mapPrograms_lanes]
@[simp] theorem State.record_mapPrograms (s : State) (f : Fin 16 → Program → Program) (q : Fin 64) :
    (s.mapPrograms f).record q = s.record q := by
  simp only [State.record, State.mapPrograms_alarm]
@[simp] theorem State.mapEntry_mapPrograms (s : State) (f : Fin 16 → Program → Program) (k : Fin 32) :
    (s.mapPrograms f).mapEntry k = s.mapEntry k := by
  simp only [State.mapEntry, State.mapPrograms_egress]
@[simp] theorem State.egressLane_mapPrograms (s : State) (f : Fin 16 → Program → Program) (k : Fin 32) :
    (s.mapPrograms f).egressLane k = s.egressLane k := by
  simp only [State.egressLane, State.mapPrograms_egress]
@[simp] theorem State.entry_setRecord (s : State) (r : Fin 64) (x : Record) (q : Fin 16) :
    (s.setRecord r x).entry q = s.entry q := by
  simp only [State.entry, State.setRecord_tables]
@[simp] theorem State.laneEntry_setRecord (s : State) (r : Fin 64) (x : Record) (k : Fin 32) :
    (s.setRecord r x).laneEntry k = s.laneEntry k := by
  simp only [State.laneEntry, State.setRecord_tables]
@[simp] theorem State.rule_setRecord (s : State) (r : Fin 64) (x : Record) (q : Fin 64) :
    (s.setRecord r x).rule q = s.rule q := by
  simp only [State.rule, State.setRecord_tables]
@[simp] theorem State.program_setRecord (s : State) (r : Fin 64) (x : Record) (q : Fin 16) :
    (s.setRecord r x).program q = s.program q := by
  simp only [State.program, State.setRecord_programs]
@[simp] theorem State.lane_setRecord (s : State) (r : Fin 64) (x : Record) (k : Fin 32) :
    (s.setRecord r x).lane k = s.lane k := by
  simp only [State.lane, State.setRecord_lanes]
@[simp] theorem State.mapEntry_setRecord (s : State) (r : Fin 64) (x : Record) (k : Fin 32) :
    (s.setRecord r x).mapEntry k = s.mapEntry k := by
  simp only [State.mapEntry, State.setRecord_egress]
@[simp] theorem State.egressLane_setRecord (s : State) (r : Fin 64) (x : Record) (k : Fin 32) :
    (s.setRecord r x).egressLane k = s.egressLane k := by
  simp only [State.egressLane, State.setRecord_egress]
@[simp] theorem State.entry_mapEgressLanes (s : State) (f : Fin 32 → EgressLane → EgressLane) (q : Fin 16) :
    (s.mapEgressLanes f).entry q = s.entry q := by
  simp only [State.entry, State.mapEgressLanes_tables]
@[simp] theorem State.laneEntry_mapEgressLanes (s : State) (f : Fin 32 → EgressLane → EgressLane) (k : Fin 32) :
    (s.mapEgressLanes f).laneEntry k = s.laneEntry k := by
  simp only [State.laneEntry, State.mapEgressLanes_tables]
@[simp] theorem State.rule_mapEgressLanes (s : State) (f : Fin 32 → EgressLane → EgressLane) (q : Fin 64) :
    (s.mapEgressLanes f).rule q = s.rule q := by
  simp only [State.rule, State.mapEgressLanes_tables]
@[simp] theorem State.program_mapEgressLanes (s : State) (f : Fin 32 → EgressLane → EgressLane) (q : Fin 16) :
    (s.mapEgressLanes f).program q = s.program q := by
  simp only [State.program, State.mapEgressLanes_programs]
@[simp] theorem State.lane_mapEgressLanes (s : State) (f : Fin 32 → EgressLane → EgressLane) (k : Fin 32) :
    (s.mapEgressLanes f).lane k = s.lane k := by
  simp only [State.lane, State.mapEgressLanes_lanes]
@[simp] theorem State.record_mapEgressLanes (s : State) (f : Fin 32 → EgressLane → EgressLane) (q : Fin 64) :
    (s.mapEgressLanes f).record q = s.record q := by
  simp only [State.record, State.mapEgressLanes_alarm]
@[simp] theorem State.entry_driveLines (s : State) (q : Fin 16) :
    s.driveLines.entry q = s.entry q := by
  simp only [State.entry, State.driveLines_tables]
@[simp] theorem State.laneEntry_driveLines (s : State) (k : Fin 32) :
    s.driveLines.laneEntry k = s.laneEntry k := by
  simp only [State.laneEntry, State.driveLines_tables]
@[simp] theorem State.rule_driveLines (s : State) (q : Fin 64) :
    s.driveLines.rule q = s.rule q := by
  simp only [State.rule, State.driveLines_tables]
@[simp] theorem State.program_driveLines (s : State) (q : Fin 16) :
    s.driveLines.program q = s.program q := by
  simp only [State.program, State.driveLines_programs]
@[simp] theorem State.lane_driveLines (s : State) (k : Fin 32) :
    s.driveLines.lane k = s.lane k := by
  simp only [State.lane, State.driveLines_lanes]
@[simp] theorem State.mapEntry_driveLines (s : State) (k : Fin 32) :
    s.driveLines.mapEntry k = s.mapEntry k := by
  simp only [State.mapEntry, State.driveLines_egress]
@[simp] theorem State.egressLane_driveLines (s : State) (k : Fin 32) :
    s.driveLines.egressLane k = s.egressLane k := by
  simp only [State.egressLane, State.driveLines_egress]
@[simp] theorem State.entry_followThrough (s : State) (q : Fin 16) :
    s.followThrough.entry q = s.entry q := by
  simp only [State.entry, State.followThrough_tables]
@[simp] theorem State.laneEntry_followThrough (s : State) (k : Fin 32) :
    s.followThrough.laneEntry k = s.laneEntry k := by
  simp only [State.laneEntry, State.followThrough_tables]
@[simp] theorem State.rule_followThrough (s : State) (q : Fin 64) :
    s.followThrough.rule q = s.rule q := by
  simp only [State.rule, State.followThrough_tables]
@[simp] theorem State.lane_followThrough (s : State) (k : Fin 32) :
    s.followThrough.lane k = s.lane k := by
  simp only [State.lane, State.followThrough_lanes]
@[simp] theorem State.mapEntry_followThrough (s : State) (k : Fin 32) :
    s.followThrough.mapEntry k = s.mapEntry k := by
  simp only [State.mapEntry, State.followThrough_egress]
@[simp] theorem State.egressLane_followThrough (s : State) (k : Fin 32) :
    s.followThrough.egressLane k = s.egressLane k := by
  simp only [State.egressLane, State.followThrough_egress]
@[simp] theorem State.entry_refreshNotice (s : State) (r : Fin 64) (q : Fin 16) :
    (s.refreshNotice r).entry q = s.entry q := by
  simp only [State.entry, State.refreshNotice_tables]
@[simp] theorem State.laneEntry_refreshNotice (s : State) (r : Fin 64) (k : Fin 32) :
    (s.refreshNotice r).laneEntry k = s.laneEntry k := by
  simp only [State.laneEntry, State.refreshNotice_tables]
@[simp] theorem State.rule_refreshNotice (s : State) (r : Fin 64) (q : Fin 64) :
    (s.refreshNotice r).rule q = s.rule q := by
  simp only [State.rule, State.refreshNotice_tables]
@[simp] theorem State.program_refreshNotice (s : State) (r : Fin 64) (q : Fin 16) :
    (s.refreshNotice r).program q = s.program q := by
  simp only [State.program, State.refreshNotice_programs]
@[simp] theorem State.lane_refreshNotice (s : State) (r : Fin 64) (k : Fin 32) :
    (s.refreshNotice r).lane k = s.lane k := by
  simp only [State.lane, State.refreshNotice_lanes]
@[simp] theorem State.mapEntry_refreshNotice (s : State) (r : Fin 64) (k : Fin 32) :
    (s.refreshNotice r).mapEntry k = s.mapEntry k := by
  simp only [State.mapEntry, State.refreshNotice_egress]
@[simp] theorem State.egressLane_refreshNotice (s : State) (r : Fin 64) (k : Fin 32) :
    (s.refreshNotice r).egressLane k = s.egressLane k := by
  simp only [State.egressLane, State.refreshNotice_egress]
@[simp] theorem State.entry_dropNotices (s : State) (q : Fin 16) :
    s.dropNotices.entry q = s.entry q := by
  simp only [State.entry, State.dropNotices_tables]
@[simp] theorem State.laneEntry_dropNotices (s : State) (k : Fin 32) :
    s.dropNotices.laneEntry k = s.laneEntry k := by
  simp only [State.laneEntry, State.dropNotices_tables]
@[simp] theorem State.rule_dropNotices (s : State) (q : Fin 64) :
    s.dropNotices.rule q = s.rule q := by
  simp only [State.rule, State.dropNotices_tables]
@[simp] theorem State.program_dropNotices (s : State) (q : Fin 16) :
    s.dropNotices.program q = s.program q := by
  simp only [State.program, State.dropNotices_programs]
@[simp] theorem State.lane_dropNotices (s : State) (k : Fin 32) :
    s.dropNotices.lane k = s.lane k := by
  simp only [State.lane, State.dropNotices_lanes]
@[simp] theorem State.mapEntry_dropNotices (s : State) (k : Fin 32) :
    s.dropNotices.mapEntry k = s.mapEntry k := by
  simp only [State.mapEntry, State.dropNotices_egress]
@[simp] theorem State.egressLane_dropNotices (s : State) (k : Fin 32) :
    s.dropNotices.egressLane k = s.egressLane k := by
  simp only [State.egressLane, State.dropNotices_egress]
@[simp] theorem State.entry_putInForce (s : State) (p : Fin 16) (v : Nat) (q : Fin 16) :
    (s.putInForce p v).entry q = s.entry q := by
  simp only [State.entry, State.putInForce_tables]
@[simp] theorem State.laneEntry_putInForce (s : State) (p : Fin 16) (v : Nat) (k : Fin 32) :
    (s.putInForce p v).laneEntry k = s.laneEntry k := by
  simp only [State.laneEntry, State.putInForce_tables]
@[simp] theorem State.rule_putInForce (s : State) (p : Fin 16) (v : Nat) (q : Fin 64) :
    (s.putInForce p v).rule q = s.rule q := by
  simp only [State.rule, State.putInForce_tables]
@[simp] theorem State.lane_putInForce (s : State) (p : Fin 16) (v : Nat) (k : Fin 32) :
    (s.putInForce p v).lane k = s.lane k := by
  simp only [State.lane, State.putInForce_lanes]
@[simp] theorem State.record_putInForce (s : State) (p : Fin 16) (v : Nat) (q : Fin 64) :
    (s.putInForce p v).record q = s.record q := by
  simp only [State.record, State.putInForce_alarm]
@[simp] theorem State.mapEntry_putInForce (s : State) (p : Fin 16) (v : Nat) (k : Fin 32) :
    (s.putInForce p v).mapEntry k = s.mapEntry k := by
  simp only [State.mapEntry, State.putInForce_egress]
@[simp] theorem State.egressLane_putInForce (s : State) (p : Fin 16) (v : Nat) (k : Fin 32) :
    (s.putInForce p v).egressLane k = s.egressLane k := by
  simp only [State.egressLane, State.putInForce_egress]
@[simp] theorem State.entry_markDiscontinuity (s : State) (p : Fin 16) (q : Fin 16) :
    (s.markDiscontinuity p).entry q = s.entry q := by
  simp only [State.entry, State.markDiscontinuity_tables]
@[simp] theorem State.laneEntry_markDiscontinuity (s : State) (p : Fin 16) (k : Fin 32) :
    (s.markDiscontinuity p).laneEntry k = s.laneEntry k := by
  simp only [State.laneEntry, State.markDiscontinuity_tables]
@[simp] theorem State.rule_markDiscontinuity (s : State) (p : Fin 16) (q : Fin 64) :
    (s.markDiscontinuity p).rule q = s.rule q := by
  simp only [State.rule, State.markDiscontinuity_tables]
@[simp] theorem State.program_markDiscontinuity (s : State) (p : Fin 16) (q : Fin 16) :
    (s.markDiscontinuity p).program q = s.program q := by
  simp only [State.program, State.markDiscontinuity_programs]
@[simp] theorem State.lane_markDiscontinuity (s : State) (p : Fin 16) (k : Fin 32) :
    (s.markDiscontinuity p).lane k = s.lane k := by
  simp only [State.lane, State.markDiscontinuity_lanes]
@[simp] theorem State.record_markDiscontinuity (s : State) (p : Fin 16) (q : Fin 64) :
    (s.markDiscontinuity p).record q = s.record q := by
  simp only [State.record, State.markDiscontinuity_alarm]
@[simp] theorem State.entry_impair (s : State) (p : Fin 16) (q : Fin 16) :
    (s.impair p).entry q = s.entry q := by
  simp only [State.entry, State.impair_tables]
@[simp] theorem State.laneEntry_impair (s : State) (p : Fin 16) (k : Fin 32) :
    (s.impair p).laneEntry k = s.laneEntry k := by
  simp only [State.laneEntry, State.impair_tables]
@[simp] theorem State.rule_impair (s : State) (p : Fin 16) (q : Fin 64) :
    (s.impair p).rule q = s.rule q := by
  simp only [State.rule, State.impair_tables]
@[simp] theorem State.lane_impair (s : State) (p : Fin 16) (k : Fin 32) :
    (s.impair p).lane k = s.lane k := by
  simp only [State.lane, State.impair_lanes]
@[simp] theorem State.record_impair (s : State) (p : Fin 16) (q : Fin 64) :
    (s.impair p).record q = s.record q := by
  simp only [State.record, State.impair_alarm]
@[simp] theorem State.mapEntry_impair (s : State) (p : Fin 16) (k : Fin 32) :
    (s.impair p).mapEntry k = s.mapEntry k := by
  simp only [State.mapEntry, State.impair_egress]
@[simp] theorem State.egressLane_impair (s : State) (p : Fin 16) (k : Fin 32) :
    (s.impair p).egressLane k = s.egressLane k := by
  simp only [State.egressLane, State.impair_egress]
@[simp] theorem State.program_setLaneEntry (s : State) (l : Fin 32) (e : LaneEntry) (q : Fin 16) :
    (s.setLaneEntry l e).program q = s.program q := by
  simp only [State.program, State.setLaneEntry_programs]
@[simp] theorem State.lane_setLaneEntry (s : State) (l : Fin 32) (e : LaneEntry) (k : Fin 32) :
    (s.setLaneEntry l e).lane k = s.lane k := by
  simp only [State.lane, State.setLaneEntry_lanes]
@[simp] theorem State.record_setLaneEntry (s : State) (l : Fin 32) (e : LaneEntry) (q : Fin 64) :
    (s.setLaneEntry l e).record q = s.record q := by
  simp only [State.record, State.setLaneEntry_alarm]
@[simp] theorem State.mapEntry_setLaneEntry (s : State) (l : Fin 32) (e : LaneEntry) (k : Fin 32) :
    (s.setLaneEntry l e).mapEntry k = s.mapEntry k := by
  simp only [State.mapEntry, State.setLaneEntry_egress]
@[simp] theorem State.egressLane_setLaneEntry (s : State) (l : Fin 32) (e : LaneEntry) (k : Fin 32) :
    (s.setLaneEntry l e).egressLane k = s.egressLane k := by
  simp only [State.egressLane, State.setLaneEntry_egress]
@[simp] theorem State.program_setEntry (s : State) (p : Fin 16) (e : ProgramEntry) (q : Fin 16) :
    (s.setEntry p e).program q = s.program q := by
  simp only [State.program, State.setEntry_programs]
@[simp] theorem State.lane_setEntry (s : State) (p : Fin 16) (e : ProgramEntry) (k : Fin 32) :
    (s.setEntry p e).lane k = s.lane k := by
  simp only [State.lane, State.setEntry_lanes]
@[simp] theorem State.record_setEntry (s : State) (p : Fin 16) (e : ProgramEntry) (q : Fin 64) :
    (s.setEntry p e).record q = s.record q := by
  simp only [State.record, State.setEntry_alarm]
@[simp] theorem State.mapEntry_setEntry (s : State) (p : Fin 16) (e : ProgramEntry) (k : Fin 32) :
    (s.setEntry p e).mapEntry k = s.mapEntry k := by
  simp only [State.mapEntry, State.setEntry_egress]
@[simp] theorem State.egressLane_setEntry (s : State) (p : Fin 16) (e : ProgramEntry) (k : Fin 32) :
    (s.setEntry p e).egressLane k = s.egressLane k := by
  simp only [State.egressLane, State.setEntry_egress]
@[simp] theorem State.entry_slotTaken (s : State) (run : Nat) (q : Fin 16) :
    (s.slotTaken run).entry q = s.entry q := by
  simp only [State.entry, State.slotTaken_tables]
@[simp] theorem State.laneEntry_slotTaken (s : State) (run : Nat) (k : Fin 32) :
    (s.slotTaken run).laneEntry k = s.laneEntry k := by
  simp only [State.laneEntry, State.slotTaken_tables]
@[simp] theorem State.rule_slotTaken (s : State) (run : Nat) (q : Fin 64) :
    (s.slotTaken run).rule q = s.rule q := by
  simp only [State.rule, State.slotTaken_tables]
@[simp] theorem State.program_slotTaken (s : State) (run : Nat) (q : Fin 16) :
    (s.slotTaken run).program q = s.program q := by
  simp only [State.program, State.slotTaken_programs]
@[simp] theorem State.lane_slotTaken (s : State) (run : Nat) (k : Fin 32) :
    (s.slotTaken run).lane k = s.lane k := by
  simp only [State.lane, State.slotTaken_lanes]
@[simp] theorem State.record_slotTaken (s : State) (run : Nat) (q : Fin 64) :
    (s.slotTaken run).record q = s.record q := by
  simp only [State.record, State.slotTaken_alarm]
@[simp] theorem State.mapEntry_slotTaken (s : State) (run : Nat) (k : Fin 32) :
    (s.slotTaken run).mapEntry k = s.mapEntry k := by
  simp only [State.mapEntry, State.slotTaken_egress]
@[simp] theorem State.egressLane_slotTaken (s : State) (run : Nat) (k : Fin 32) :
    (s.slotTaken run).egressLane k = s.egressLane k := by
  simp only [State.egressLane, State.slotTaken_egress]
@[simp] theorem State.entry_dropHead (s : State) (q : Fin 16) :
    s.dropHead.entry q = s.entry q := by
  simp only [State.entry, State.dropHead_tables]
@[simp] theorem State.laneEntry_dropHead (s : State) (k : Fin 32) :
    s.dropHead.laneEntry k = s.laneEntry k := by
  simp only [State.laneEntry, State.dropHead_tables]
@[simp] theorem State.rule_dropHead (s : State) (q : Fin 64) :
    s.dropHead.rule q = s.rule q := by
  simp only [State.rule, State.dropHead_tables]
@[simp] theorem State.program_dropHead (s : State) (q : Fin 16) :
    s.dropHead.program q = s.program q := by
  simp only [State.program, State.dropHead_programs]
@[simp] theorem State.lane_dropHead (s : State) (k : Fin 32) :
    s.dropHead.lane k = s.lane k := by
  simp only [State.lane, State.dropHead_lanes]
@[simp] theorem State.record_dropHead (s : State) (q : Fin 64) :
    s.dropHead.record q = s.record q := by
  simp only [State.record, State.dropHead_alarm]
@[simp] theorem State.mapEntry_dropHead (s : State) (k : Fin 32) :
    s.dropHead.mapEntry k = s.mapEntry k := by
  simp only [State.mapEntry, State.dropHead_egress]
@[simp] theorem State.egressLane_dropHead (s : State) (k : Fin 32) :
    s.dropHead.egressLane k = s.egressLane k := by
  simp only [State.egressLane, State.dropHead_egress]
@[simp] theorem State.entry_answer (s : State) (o : Order) (status : Status) (results : List Byte) (q : Fin 16) :
    (s.answer o status results).entry q = s.entry q := by
  simp only [State.entry, State.answer_tables]
@[simp] theorem State.laneEntry_answer (s : State) (o : Order) (status : Status) (results : List Byte) (k : Fin 32) :
    (s.answer o status results).laneEntry k = s.laneEntry k := by
  simp only [State.laneEntry, State.answer_tables]
@[simp] theorem State.rule_answer (s : State) (o : Order) (status : Status) (results : List Byte) (q : Fin 64) :
    (s.answer o status results).rule q = s.rule q := by
  simp only [State.rule, State.answer_tables]
@[simp] theorem State.program_answer (s : State) (o : Order) (status : Status) (results : List Byte) (q : Fin 16) :
    (s.answer o status results).program q = s.program q := by
  simp only [State.program, State.answer_programs]
@[simp] theorem State.lane_answer (s : State) (o : Order) (status : Status) (results : List Byte) (k : Fin 32) :
    (s.answer o status results).lane k = s.lane k := by
  simp only [State.lane, State.answer_lanes]
@[simp] theorem State.record_answer (s : State) (o : Order) (status : Status) (results : List Byte) (q : Fin 64) :
    (s.answer o status results).record q = s.record q := by
  simp only [State.record, State.answer_alarm]
@[simp] theorem State.mapEntry_answer (s : State) (o : Order) (status : Status) (results : List Byte) (k : Fin 32) :
    (s.answer o status results).mapEntry k = s.mapEntry k := by
  simp only [State.mapEntry, State.answer_egress]
@[simp] theorem State.egressLane_answer (s : State) (o : Order) (status : Status) (results : List Byte) (k : Fin 32) :
    (s.answer o status results).egressLane k = s.egressLane k := by
  simp only [State.egressLane, State.answer_egress]
@[simp] theorem State.entry_recordOwing (s : State) (o : Order) (unit : UnitState) (q : Fin 16) :
    (s.recordOwing o unit).entry q = s.entry q := by
  simp only [State.entry, State.recordOwing_tables]
@[simp] theorem State.laneEntry_recordOwing (s : State) (o : Order) (unit : UnitState) (k : Fin 32) :
    (s.recordOwing o unit).laneEntry k = s.laneEntry k := by
  simp only [State.laneEntry, State.recordOwing_tables]
@[simp] theorem State.rule_recordOwing (s : State) (o : Order) (unit : UnitState) (q : Fin 64) :
    (s.recordOwing o unit).rule q = s.rule q := by
  simp only [State.rule, State.recordOwing_tables]
@[simp] theorem State.program_recordOwing (s : State) (o : Order) (unit : UnitState) (q : Fin 16) :
    (s.recordOwing o unit).program q = s.program q := by
  simp only [State.program, State.recordOwing_programs]
@[simp] theorem State.lane_recordOwing (s : State) (o : Order) (unit : UnitState) (k : Fin 32) :
    (s.recordOwing o unit).lane k = s.lane k := by
  simp only [State.lane, State.recordOwing_lanes]
@[simp] theorem State.record_recordOwing (s : State) (o : Order) (unit : UnitState) (q : Fin 64) :
    (s.recordOwing o unit).record q = s.record q := by
  simp only [State.record, State.recordOwing_alarm]
@[simp] theorem State.mapEntry_recordOwing (s : State) (o : Order) (unit : UnitState) (k : Fin 32) :
    (s.recordOwing o unit).mapEntry k = s.mapEntry k := by
  simp only [State.mapEntry, State.recordOwing_egress]
@[simp] theorem State.egressLane_recordOwing (s : State) (o : Order) (unit : UnitState) (k : Fin 32) :
    (s.recordOwing o unit).egressLane k = s.egressLane k := by
  simp only [State.egressLane, State.recordOwing_egress]
@[simp] theorem State.entry_writeWord (s : State) (l : Fin 32) (t : Stamp) (x : Sample) (suspect : Bool) (q : Fin 16) :
    (s.writeWord l t x suspect).entry q = s.entry q := by
  simp only [State.entry, State.writeWord_tables]
@[simp] theorem State.laneEntry_writeWord (s : State) (l : Fin 32) (t : Stamp) (x : Sample) (suspect : Bool) (k : Fin 32) :
    (s.writeWord l t x suspect).laneEntry k = s.laneEntry k := by
  simp only [State.laneEntry, State.writeWord_tables]
@[simp] theorem State.rule_writeWord (s : State) (l : Fin 32) (t : Stamp) (x : Sample) (suspect : Bool) (q : Fin 64) :
    (s.writeWord l t x suspect).rule q = s.rule q := by
  simp only [State.rule, State.writeWord_tables]
@[simp] theorem State.program_writeWord (s : State) (l : Fin 32) (t : Stamp) (x : Sample) (suspect : Bool) (q : Fin 16) :
    (s.writeWord l t x suspect).program q = s.program q := by
  simp only [State.program, State.writeWord_programs]
@[simp] theorem State.record_writeWord (s : State) (l : Fin 32) (t : Stamp) (x : Sample) (suspect : Bool) (q : Fin 64) :
    (s.writeWord l t x suspect).record q = s.record q := by
  simp only [State.record, State.writeWord_alarm]
@[simp] theorem State.mapEntry_writeWord (s : State) (l : Fin 32) (t : Stamp) (x : Sample) (suspect : Bool) (k : Fin 32) :
    (s.writeWord l t x suspect).mapEntry k = s.mapEntry k := by
  simp only [State.mapEntry, State.writeWord_egress]
@[simp] theorem State.egressLane_writeWord (s : State) (l : Fin 32) (t : Stamp) (x : Sample) (suspect : Bool) (k : Fin 32) :
    (s.writeWord l t x suspect).egressLane k = s.egressLane k := by
  simp only [State.egressLane, State.writeWord_egress]
@[simp] theorem State.entry_retireLane (s : State) (l : Fin 32) (old new : Stamp) (q : Fin 16) :
    (s.retireLane l old new).entry q = s.entry q := by
  simp only [State.entry, State.retireLane_tables]
@[simp] theorem State.laneEntry_retireLane (s : State) (l : Fin 32) (old new : Stamp) (k : Fin 32) :
    (s.retireLane l old new).laneEntry k = s.laneEntry k := by
  simp only [State.laneEntry, State.retireLane_tables]
@[simp] theorem State.rule_retireLane (s : State) (l : Fin 32) (old new : Stamp) (q : Fin 64) :
    (s.retireLane l old new).rule q = s.rule q := by
  simp only [State.rule, State.retireLane_tables]
@[simp] theorem State.program_retireLane (s : State) (l : Fin 32) (old new : Stamp) (q : Fin 16) :
    (s.retireLane l old new).program q = s.program q := by
  simp only [State.program, State.retireLane_programs]
@[simp] theorem State.record_retireLane (s : State) (l : Fin 32) (old new : Stamp) (q : Fin 64) :
    (s.retireLane l old new).record q = s.record q := by
  simp only [State.record, State.retireLane_alarm]
@[simp] theorem State.mapEntry_retireLane (s : State) (l : Fin 32) (old new : Stamp) (k : Fin 32) :
    (s.retireLane l old new).mapEntry k = s.mapEntry k := by
  simp only [State.mapEntry, State.retireLane_egress]
@[simp] theorem State.egressLane_retireLane (s : State) (l : Fin 32) (old new : Stamp) (k : Fin 32) :
    (s.retireLane l old new).egressLane k = s.egressLane k := by
  simp only [State.egressLane, State.retireLane_egress]
@[simp] theorem State.entry_flushLane (s : State) (l : Fin 32) (q : Fin 16) :
    (s.flushLane l).entry q = s.entry q := by
  simp only [State.entry, State.flushLane_tables]
@[simp] theorem State.laneEntry_flushLane (s : State) (l : Fin 32) (k : Fin 32) :
    (s.flushLane l).laneEntry k = s.laneEntry k := by
  simp only [State.laneEntry, State.flushLane_tables]
@[simp] theorem State.rule_flushLane (s : State) (l : Fin 32) (q : Fin 64) :
    (s.flushLane l).rule q = s.rule q := by
  simp only [State.rule, State.flushLane_tables]
@[simp] theorem State.program_flushLane (s : State) (l : Fin 32) (q : Fin 16) :
    (s.flushLane l).program q = s.program q := by
  simp only [State.program, State.flushLane_programs]
@[simp] theorem State.record_flushLane (s : State) (l : Fin 32) (q : Fin 64) :
    (s.flushLane l).record q = s.record q := by
  simp only [State.record, State.flushLane_alarm]
@[simp] theorem State.mapEntry_flushLane (s : State) (l : Fin 32) (k : Fin 32) :
    (s.flushLane l).mapEntry k = s.mapEntry k := by
  simp only [State.mapEntry, State.flushLane_egress]
@[simp] theorem State.egressLane_flushLane (s : State) (l : Fin 32) (k : Fin 32) :
    (s.flushLane l).egressLane k = s.egressLane k := by
  simp only [State.egressLane, State.flushLane_egress]

/-! ### Lookups after an update -/

@[simp] theorem State.lane_setLane_self (s : State) (l : Fin 32) (x : Lane) : (s.setLane l x).lane l = x := by
  simp [State.lane, State.setLane]

@[simp] theorem State.lane_setLane_ne (s : State) {l k : Fin 32} (x : Lane) (h : k ≠ l) :
    (s.setLane l x).lane k = s.lane k := by
  have : l.val ≠ k.val := fun e => h (Fin.ext e.symm)
  simp [State.lane, State.setLane, this]

@[simp] theorem State.lane_mapLanes (s : State) (f : Fin 32 → Lane → Lane) (l : Fin 32) :
    (s.mapLanes f).lane l = f l (s.lane l) := by
  simp [State.lane, State.mapLanes]

@[simp] theorem State.program_setProgram_self (s : State) (p : Fin 16) (x : Program) :
    (s.setProgram p x).program p = x := by
  simp [State.program, State.setProgram]

@[simp] theorem State.program_setProgram_ne (s : State) {p q : Fin 16} (x : Program) (h : q ≠ p) :
    (s.setProgram p x).program q = s.program q := by
  have : p.val ≠ q.val := fun e => h (Fin.ext e.symm)
  simp [State.program, State.setProgram, this]

@[simp] theorem State.program_mapPrograms (s : State) (f : Fin 16 → Program → Program) (p : Fin 16) :
    (s.mapPrograms f).program p = f p (s.program p) := by
  simp [State.program, State.mapPrograms]

@[simp] theorem State.record_setRecord_self (s : State) (r : Fin 64) (x : Record) :
    (s.setRecord r x).record r = x := by
  simp [State.record, State.setRecord]

@[simp] theorem State.record_setRecord_ne (s : State) {r k : Fin 64} (x : Record) (h : k ≠ r) :
    (s.setRecord r x).record k = s.record k := by
  have : r.val ≠ k.val := fun e => h (Fin.ext e.symm)
  simp [State.record, State.setRecord, this]

@[simp] theorem State.egressLane_mapEgressLanes (s : State) (f : Fin 32 → EgressLane → EgressLane)
    (e : Fin 32) : (s.mapEgressLanes f).egressLane e = f e (s.egressLane e) := by
  simp [State.egressLane, State.mapEgressLanes]

@[simp] theorem State.mapEntry_mapEgressLanes (s : State) (f : Fin 32 → EgressLane → EgressLane)
    (e : Fin 32) : (s.mapEgressLanes f).mapEntry e = s.mapEntry e := by
  dsimp only [State.mapEntry, State.mapEgressLanes]

@[simp] theorem State.record_driveLines (s : State) (r : Fin 64) : s.driveLines.record r = s.record r := by
  dsimp only [State.record, State.driveLines]

@[simp] theorem State.record_followThrough (s : State) (r : Fin 64) :
    s.followThrough.record r = s.record r := by
  dsimp only [State.record, State.followThrough, State.driveLines, State.mapPrograms]

@[simp] theorem State.entry_setEntry_self (s : State) (p : Fin 16) (e : ProgramEntry) :
    (s.setEntry p e).entry p = e := by
  simp [State.entry, State.setEntry]

@[simp] theorem State.entry_setEntry_ne (s : State) {p q : Fin 16} (e : ProgramEntry) (h : q ≠ p) :
    (s.setEntry p e).entry q = s.entry q := by
  have : p.val ≠ q.val := fun e => h (Fin.ext e.symm)
  simp [State.entry, State.setEntry, this]

@[simp] theorem State.laneEntry_setLaneEntry_self (s : State) (l : Fin 32) (e : LaneEntry) :
    (s.setLaneEntry l e).laneEntry l = e := by
  simp [State.laneEntry, State.setLaneEntry]

@[simp] theorem State.laneEntry_setLaneEntry_ne (s : State) {l k : Fin 32} (e : LaneEntry) (h : k ≠ l) :
    (s.setLaneEntry l e).laneEntry k = s.laneEntry k := by
  have : l.val ≠ k.val := fun e => h (Fin.ext e.symm)
  simp [State.laneEntry, State.setLaneEntry, this]

/-- What following a change through leaves of a program: its fade target re-evaluated and its changeover
state settled, and nothing else (R50, R154). -/
theorem State.program_followThrough (s : State) (p : Fin 16) :
    s.followThrough.program p =
      { (s.program p).retarget with
        change := (s.mapPrograms fun _ x => x.retarget).settleChange p } := by
  simp [State.followThrough]

end Sys2Proof.Machine
end

