-- ==== Sys2Proof/Laws/Arrivals.lean ====
section
/-! SUPPORT. What the operations of an arriving parcel can do, said once (R1, R25, R26, R29): a run of words moves
the delay memory and one lane's taint count alone. -/

namespace Sys2Proof.Machine

/-- A run of damaged bytes that is no line fault stays under 32 (R1). -/
theorem damagedRun_lt {n m : Nat} {l : List Bool} (hn : n < faultRun) (h : damagedRun n l = some m) :
    m < faultRun := by
  induction l generalizing n with
  | nil => simp only [damagedRun, Option.some.injEq] at h; exact h ▸ hn
  | cons b l ih =>
    cases b
    · exact ih (by decide) h
    · simp only [damagedRun] at h
      split at h
      · next hl => exact ih hl h
      · cases h

/-- The run over two stretches goes on from the first into the second (R1). -/
theorem damagedRun_append (n : Nat) (l k : List Bool) :
    damagedRun n (l ++ k) = (damagedRun n l).bind fun m => damagedRun m k := by
  induction l generalizing n with
  | nil => rfl
  | cons b l ih =>
    cases b
    · exact ih 0
    · simp only [List.cons_append, damagedRun]
      split
      · exact ih (n + 1)
      · rfl

theorem State.setLane_lane (s : State) (l : Fin 32) : s.setLane l (s.lane l) = s := by
  simp [State.setLane, State.lane]

theorem State.keeps_lane (s : State) (l : Fin 32) :
    s = { s.setLane l { s.lane l with taint := (s.lane l).taint } with mem := s.mem } := by
  have h := s.setLane_lane l
  exact (congrArg (fun u : State => { u with mem := s.mem }) h).symm

/-- A word written moves the memory and its lane's taint count (R17, R35). -/
theorem State.writeWord_eq (s : State) (l : Fin 32) (t : Stamp) (x : Sample) (suspect : Bool) :
    ∃ mem taint, s.writeWord l t x suspect = { s.setLane l { s.lane l with taint := taint } with mem := mem } :=
  ⟨_, _, rfl⟩

theorem State.taint_twice (s : State) (l : Fin 32) (m m' : DelayMem) (a b : Nat) :
    let u : State := { s.setLane l { s.lane l with taint := a } with mem := m }
    ({ u.setLane l { u.lane l with taint := b } with mem := m' } : State) =
      { s.setLane l { s.lane l with taint := b } with mem := m' } := by
  simp [State.setLane, State.lane]

/-- A run of words does the same (R25). -/
theorem State.writeRun_eq (s : State) (l : Fin 32) (t : Stamp) (suspect : Bool) (xs : List Sample) :
    ∃ mem taint, s.writeRun l t suspect xs = { s.setLane l { s.lane l with taint := taint } with mem := mem } := by
  induction xs generalizing s t with
  | nil => exact ⟨s.mem, (s.lane l).taint, s.keeps_lane l⟩
  | cons x xs ih =>
    obtain ⟨m, a, h⟩ := s.writeWord_eq l t x suspect
    obtain ⟨m', b, h'⟩ := ih (s.writeWord l t x suspect) (t + 1)
    exact ⟨m', b, by rw [State.writeRun, h', h, State.taint_twice]⟩

/-- So does a concealed gap (R26). -/
theorem State.concealRun_eq (s : State) (p : Fin 16) (l : Fin 32) (gap n : Nat) (t : Stamp) :
    ∃ mem taint, (s.concealRun p l gap n t).2 = { s.setLane l { s.lane l with taint := taint } with mem := mem } := by
  induction n generalizing s t with
  | zero => exact ⟨s.mem, (s.lane l).taint, s.keeps_lane l⟩
  | succ n ih =>
    unfold State.concealRun
    dsimp only
    cases s.edge p with
    | none => exact ih s (t + 1)
    | some e =>
      dsimp only
      split
      · obtain ⟨m, a, h⟩ := s.writeWord_eq l t (s.concealedSample p l gap t) true
        obtain ⟨m', b, h'⟩ := ih (s.writeWord l t (s.concealedSample p l gap t) true) (t + 1)
        exact ⟨m', b, h'.trans (by rw [h, State.taint_twice])⟩
      · exact ih s (t + 1)

/-- And so does the repair of late words, with at most one for each sample (R29). -/
theorem State.repairRun_eq (s : State) (p : Fin 16) (l : Fin 32) (suspect : Bool) (W : Stamp) (xs : List Sample)
    (t : Stamp) :
    (s.repairRun p l suspect W xs t).1 ≤ xs.length ∧ ∃ mem taint, (s.repairRun p l suspect W xs t).2 =
      { s.setLane l { s.lane l with taint := taint } with mem := mem } := by
  induction xs generalizing s t with
  | nil => exact ⟨Nat.le_refl 0, s.mem, (s.lane l).taint, s.keeps_lane l⟩
  | cons x xs ih =>
    unfold State.repairRun
    dsimp only
    split
    · obtain ⟨m, a, h⟩ := s.writeWord_eq l t x false
      obtain ⟨hc, m', b, h'⟩ := ih (s.writeWord l t x false) (t + 1)
      exact ⟨Nat.succ_le_succ hc, m', b, by rw [h', h, State.taint_twice]⟩
    · obtain ⟨hc, h⟩ := ih s (t + 1)
      exact ⟨Nat.le_succ_of_le hc, h⟩

/-- With no word to repair the memory and the lane stand (R29). -/
theorem State.repairRun_none (s : State) (p : Fin 16) (l : Fin 32) (suspect : Bool) (W : Stamp) (xs : List Sample)
    (t : Stamp) (h : ∀ i < xs.length, (behind (t + BitVec.ofNat 32 i) W &&
      s.repairs p l suspect (t + BitVec.ofNat 32 i)) = false) : s.repairRun p l suspect W xs t = (0, s) := by
  induction xs generalizing t with
  | nil => rfl
  | cons x xs ih =>
    have h0 := h 0 (Nat.succ_pos _)
    simp only [BitVec.add_zero] at h0
    rw [State.repairRun, h0, if_neg Bool.false_ne_true]
    refine ih (t + 1) fun i hi => ?_
    have := h (i + 1) (Nat.succ_lt_succ hi)
    rwa [show t + BitVec.ofNat 32 (i + 1) = t + 1 + BitVec.ofNat 32 i by
      rw [BitVec.ofNat_add, BitVec.add_comm (BitVec.ofNat 32 i), ← BitVec.add_assoc]; rfl] at this

end Sys2Proof.Machine
end

