-- ==== Sys2Proof/Laws/Cues.lean ====
section
/-! SUPPORT. What placing cues in the outbox can do, said once (R118): it moves the outbox, within its 8 places, and the
forward drops of programs. -/

namespace Sys2Proof.Machine

/-- Placing a parcel moves the outbox and the programs alone (R118). -/
theorem State.placeCue_eq (s : State) (c : CueOut) :
    s.placeCue c = { s with
      programs := (s.placeCue c).programs
      egress := { s.egress with outbox := (s.placeCue c).egress.outbox } } := by
  unfold State.placeCue
  split <;> rfl

/-- Placing a parcel keeps the outbox within its 8 places (R118). -/
theorem State.placeCue_length {s : State} (c : CueOut) (h : s.egress.outbox.length ≤ outboxSize) :
    (s.placeCue c).egress.outbox.length ≤ outboxSize := by
  unfold State.placeCue
  split
  · simp only [List.length_append, List.length_singleton]; omega
  · exact h

/-- Placing parcels one after another moves the outbox and the programs alone (R118). -/
theorem State.placeCues_eq (cs : List CueOut) (s : State) :
    cs.foldl State.placeCue s = { s with
      programs := (cs.foldl State.placeCue s).programs
      egress := { s.egress with outbox := (cs.foldl State.placeCue s).egress.outbox } } := by
  induction cs generalizing s with
  | nil => rfl
  | cons c cs ih => rw [List.foldl_cons, ih, State.placeCue_eq]

/-- Placing parcels one after another keeps the outbox within its 8 places (R118). -/
theorem State.placeCues_length (cs : List CueOut) {s : State} (h : s.egress.outbox.length ≤ outboxSize) :
    (cs.foldl State.placeCue s).egress.outbox.length ≤ outboxSize := by
  induction cs generalizing s with
  | nil => exact h
  | cons c cs ih => exact ih (State.placeCue_length c h)

/-- An effect taken in program order is the effect on the part with higher programs' cues of the house sample taken out,
with those cues placed behind it: besides what the effect moves, the outbox and the programs alone (R118). -/
theorem State.inProgramOrder_eq (s : State) (p : Fin 16) (effect : State → State) :
    ∃ t, t = effect { s with egress := { s.egress with
        outbox := s.egress.cuesBefore ++ s.egress.cuesSince.filter fun c => decide (c.program ≤ p) } } ∧
      s.inProgramOrder p effect = { t with
        programs := (s.inProgramOrder p effect).programs
        egress := { t.egress with outbox := (s.inProgramOrder p effect).egress.outbox } } :=
  ⟨_, rfl, State.placeCues_eq _ _⟩

end Sys2Proof.Machine
end

