-- ==== Sys2Proof/Laws/Memory.lean ====
section
/-! SUPPORT. The delay memory: a read after a write, a write and a clearing leave every other word, and every
operation keeps the canonical form (R17, R18). -/

namespace Sys2Proof.Machine

theorem DelayMem.find_insert_self (m : DelayMem) (i : Nat) (w : RingWord) : (DelayMem.insert m i w).find i = some w := by
  induction m with
  | nil => simp [DelayMem.insert, DelayMem.find]
  | cons c rest ih =>
    obtain ⟨j, v⟩ := c
    simp only [DelayMem.insert]
    split
    · simp [DelayMem.find]
    · split
      · simp [DelayMem.find]
      · rename_i h1 h2
        have : j ≠ i := fun e => h2 e.symm
        simp [DelayMem.find, this, ih]

theorem DelayMem.find_insert_ne (m : DelayMem) {i k : Nat} (w : RingWord) (h : k ≠ i) :
    (DelayMem.insert m i w).find k = DelayMem.find m k := by
  induction m with
  | nil => simp [DelayMem.insert, DelayMem.find, Ne.symm h]
  | cons c rest ih =>
    obtain ⟨j, v⟩ := c
    simp only [DelayMem.insert]
    split
    · simp [DelayMem.find, Ne.symm h]
    · split
      · rename_i h1 h2
        subst h2
        simp [DelayMem.find, Ne.symm h]
      · by_cases hj : j = k <;> simp [DelayMem.find, hj, ih]

/-- Reading a written word of the memory gives what was written. -/
theorem DelayMem.find_put_self (m : DelayMem) {i : Nat} (hi : i < memWords) (w : RingWord) :
    (DelayMem.put m i w).find i = some w := by
  simp [DelayMem.put, hi, DelayMem.find_insert_self]

/-- A write leaves every other word alone. -/
theorem DelayMem.find_put_ne (m : DelayMem) {i k : Nat} (w : RingWord) (h : k ≠ i) :
    (DelayMem.put m i w).find k = DelayMem.find m k := by
  simp only [DelayMem.put]
  split
  · exact DelayMem.find_insert_ne m w h
  · rfl

/-- A cleared word is EMPTY, and every other word is left alone. -/
theorem DelayMem.find_clear (m : DelayMem) (test : Nat → Bool) (k : Nat) :
    (DelayMem.clear m test).find k = if test k then none else DelayMem.find m k := by
  induction m with
  | nil => simp [DelayMem.clear, DelayMem.find]
  | cons c rest ih =>
    obtain ⟨j, v⟩ := c
    have e : DelayMem.clear ((j, v) :: rest) test =
        if test j then DelayMem.clear rest test else (j, v) :: DelayMem.clear rest test := by
      by_cases hj : test j <;> simp [DelayMem.clear, hj]
    rw [e]
    by_cases hj : test j
    · simp only [hj, if_true, ih]
      by_cases hk : j = k
      · subst hk; simp [hj]
      · simp [DelayMem.find, hk]
    · simp only [hj, DelayMem.find]
      by_cases hk : j = k
      · subst hk; simp [hj, DelayMem.find]
      · simp [DelayMem.find, hk, ih]

theorem DelayMem.wf_iff (m : DelayMem) :
    DelayMem.wf m = true ↔ m.Pairwise (fun a b => a.1 < b.1) ∧ ∀ c ∈ m, c.1 < memWords := by
  simp [DelayMem.wf]

theorem DelayMem.wf_nil : DelayMem.wf [] = true := by decide

theorem DelayMem.mem_insert_fst {m : DelayMem} {i : Nat} {w : RingWord} {c : Nat × RingWord}
    (h : c ∈ DelayMem.insert m i w) : c.1 = i ∨ c ∈ m := by
  induction m with
  | nil => simp [DelayMem.insert] at h; simp [h]
  | cons d rest ih =>
    obtain ⟨j, v⟩ := d
    simp only [DelayMem.insert] at h
    split at h
    · simp at h; rcases h with h | h | h <;> simp [h]
    · split at h
      · simp at h; rcases h with h | h <;> simp [h]
      · simp at h
        rcases h with h | h
        · simp [h]
        · rcases ih h with h | h <;> simp [h]

/-- A write keeps the canonical form. -/
theorem DelayMem.wf_put {m : DelayMem} (h : DelayMem.wf m = true) (i : Nat) (w : RingWord) :
    DelayMem.wf (DelayMem.put m i w) = true := by
  simp only [DelayMem.put]
  split
  case isFalse => exact h
  case isTrue hi =>
    rw [DelayMem.wf_iff] at h ⊢
    obtain ⟨hp, hb⟩ := h
    constructor
    · clear hb
      induction m with
      | nil => simp [DelayMem.insert]
      | cons c rest ih =>
        obtain ⟨j, v⟩ := c
        rw [List.pairwise_cons] at hp
        simp only [DelayMem.insert]
        split
        · rename_i hij
          refine List.pairwise_cons.2 ⟨?_, List.pairwise_cons.2 hp⟩
          intro a ha
          rcases List.mem_cons.1 ha with rfl | ha
          · exact hij
          · exact Nat.lt_trans hij (hp.1 a ha)
        · split
          · rename_i hij
            subst hij
            exact List.pairwise_cons.2 ⟨fun a ha => hp.1 a ha, hp.2⟩
          · rename_i h1 h2
            refine List.pairwise_cons.2 ⟨?_, ih hp.2⟩
            intro a ha
            rcases DelayMem.mem_insert_fst ha with h | h
            · simp only [h]; omega
            · exact hp.1 a h
    · intro c hc
      rcases DelayMem.mem_insert_fst hc with h | h
      · rw [h]; exact hi
      · exact hb c h

/-- A clearing keeps the canonical form. -/
theorem DelayMem.wf_clear {m : DelayMem} (h : DelayMem.wf m = true) (test : Nat → Bool) :
    DelayMem.wf (DelayMem.clear m test) = true := by
  rw [DelayMem.wf_iff] at h ⊢
  exact ⟨h.1.filter _, fun c hc => h.2 c (List.mem_of_mem_filter hc)⟩

/-! ### The operations of the Lane Store on the memory -/

theorem State.writeWord_wf {s : State} (h : s.mem.wf = true) (l : Fin 32) (t : Stamp) (x : Sample)
    (suspect : Bool) : (s.writeWord l t x suspect).mem.wf = true := by
  dsimp only [State.writeWord]
  exact DelayMem.wf_put h _ _

theorem State.writeRun_wf (l : Fin 32) (suspect : Bool) (xs : List Sample) :
    ∀ {s : State} (t : Stamp), s.mem.wf = true → (s.writeRun l t suspect xs).mem.wf = true := by
  induction xs with
  | nil => exact fun _ h => h
  | cons x rest ih => exact fun t h => ih (t + 1) (State.writeWord_wf h l t x suspect)

theorem State.retireLane_wf {s : State} (h : s.mem.wf = true) (l : Fin 32) (old new : Stamp) :
    (s.retireLane l old new).mem.wf = true := by
  dsimp only [State.retireLane]
  exact DelayMem.wf_clear h _

theorem State.flushLane_wf {s : State} (h : s.mem.wf = true) (l : Fin 32) :
    (s.flushLane l).mem.wf = true := by
  dsimp only [State.flushLane]
  exact DelayMem.wf_clear h _

theorem State.foldl_wf {α : Type} (f : State → α → State)
    (hf : ∀ s a, s.mem.wf = true → (f s a).mem.wf = true) (xs : List α) :
    ∀ s : State, s.mem.wf = true → (xs.foldl f s).mem.wf = true := by
  induction xs with
  | nil => exact fun _ h => h
  | cons x rest ih => exact fun s h => ih _ (hf s x h)

theorem State.retire_wf {s : State} (h : s.mem.wf = true) (p : Fin 16) (old new : Option Stamp) :
    (s.retire p old new).mem.wf = true := by
  unfold State.retire
  split
  · split
    · exact State.foldl_wf _ (fun _ l h => State.retireLane_wf h l _ _) _ s h
    · exact h
  · exact h

theorem State.flushMembers_wf {s : State} (h : s.mem.wf = true) (p : Fin 16) :
    (s.flushMembers p).mem.wf = true :=
  State.foldl_wf _ (fun _ l h => State.flushLane_wf h l) _ s h

end Sys2Proof.Machine
end

