-- ==== Sys2Proof/Laws/Notices.lean ====
section
/-! SUPPORT. What the notice operations can do, said once (R142 to R144): each moves the notice queue and the records
alone, and the marks of one rule at a time. -/

namespace Sys2Proof.Machine

theorem State.setRecord_eq (s : State) (r : Fin 64) (x : Record) :
    s.setRecord r x = { s with alarm := { s.alarm with records := (s.setRecord r x).alarm.records } } := rfl

/-- An update in place changes the queue alone, and not its length (R143). -/
theorem State.refreshNotice_eq (s : State) (r : Fin 64) :
    s.refreshNotice r = { s with alarm := { s.alarm with notices := (s.refreshNotice r).alarm.notices } } ∧
      (s.refreshNotice r).alarm.notices.length = s.alarm.notices.length := by
  simp [State.refreshNotice]

/-- Placing a notice moves the queue and the records alone (R143, R144). -/
theorem State.placeNotice_eq (s : State) (r : Fin 64) :
    s.placeNotice r = { s with alarm := { s.alarm with
      records := (s.placeNotice r).alarm.records, notices := (s.placeNotice r).alarm.notices } } := by
  unfold State.placeNotice
  dsimp only
  split
  · rw [(s.refreshNotice_eq r).1]
  · split
    · rfl
    · split <;> rfl

/-- A rule already owed stays owed: a notice made for it moves nothing, whatever places the queue has (R143, R144). -/
theorem State.placeNotice_of_owed {s : State} {r : Fin 64} (hq : (s.record r).queued = false)
    (ho : (s.record r).owed = true) : s.placeNotice r = s := by
  simp [State.placeNotice, hq, ho]

/-- A notice-making change moves the queue and the records alone (R142). -/
theorem State.noticeChange_eq (s : State) (r : Fin 64) (cause : Cause) (flagged : Bool) :
    s.noticeChange r cause flagged = { s with alarm := { s.alarm with
      records := (s.noticeChange r cause flagged).alarm.records
      notices := (s.noticeChange r cause flagged).alarm.notices } } := by
  unfold State.noticeChange
  dsimp only
  split
  · rw [State.placeNotice_eq]; rfl
  · rfl

/-- The promotion of an owed rule lengthens the queue by one notice and moves the records besides (R144). -/
theorem State.promoteOwed_eq (s : State) :
    s.promoteOwed = { s with alarm := { s.alarm with
      records := s.promoteOwed.alarm.records, notices := s.promoteOwed.alarm.notices } } := by
  unfold State.promoteOwed
  split <;> rfl

theorem State.promoteUpTo_eq (n : Nat) (s : State) :
    s.promoteUpTo n = { s with alarm := { s.alarm with
      records := (s.promoteUpTo n).alarm.records, notices := (s.promoteUpTo n).alarm.notices } } := by
  induction n generalizing s with
  | zero => rfl
  | succ n ih =>
    unfold State.promoteUpTo
    split
    · rw [ih, State.promoteOwed_eq]
    · rfl

theorem State.promoteAll_eq (s : State) :
    s.promoteAll = { s with alarm := { s.alarm with
      records := s.promoteAll.alarm.records, notices := s.promoteAll.alarm.notices } } :=
  s.promoteUpTo_eq noticeSize

/-- With no place to take, or no rule owed, nothing is promoted (R144). -/
theorem State.promoteAll_of_quiet {s : State} (h : s.promotionDue = false) : s.promoteAll = s := by
  unfold State.promoteAll noticeSize State.promoteUpTo
  simp [h]

theorem State.departed_eq (s : State) (n : Notice) (rest : List Notice) :
    s.departed n rest = { s with alarm := { s.alarm with
      records := (s.departed n rest).alarm.records, notices := rest } } := by
  cases n <;> rfl

/-- A departure takes the head of the queue and, but where a tick is due, queues an owed rule behind the rest; it moves
the queue and the records alone (R144). -/
theorem State.takeNotice_eq {s t : State} {n : Notice} (h : s.takeNotice = some (n, t)) :
    ∃ rest, s.alarm.notices = n :: rest ∧
      t = (if s.tickDue then s.departed n rest else (s.departed n rest).promoteUpTo 1) ∧
      t = { s with alarm := { s.alarm with records := t.alarm.records, notices := t.alarm.notices } } := by
  unfold State.takeNotice at h
  split at h
  · cases h
  · next m rest e =>
    cases h
    refine ⟨rest, e, rfl, ?_⟩
    split
    · rw [State.departed_eq]
    · rw [State.promoteUpTo_eq, State.departed_eq]

end Sys2Proof.Machine
end

