-- ==== Sys2Proof/Laws/PerInstr.lean ====
section
/-! SUPPORT. The family of LAWS.json, one lemma per command: a command is well formed exactly when the slot
it brings, if it brings one, has the 84 characters of a slot (R2, R7). -/

namespace Sys2Proof.Laws.WellFormed

/-- The slot a command brings. -/
def slotOf : Instr → Option Slot
  | .rejectedSlot slot => some slot
  | .audioParcel slot => some slot
  | .cueParcel slot => some slot
  | .pictureReport slot => some slot
  | .orderParcel slot => some slot
  | .passthroughParcel slot => some slot
  | _ => none

/-- A command is well formed exactly when the slot it brings has 84 characters. -/
def Statement (i : Instr) : Prop := i.wf = true ↔ ∀ slot ∈ slotOf i, slot.length = 84

/-- A command without a slot is well formed. -/
theorem of_none {i : Instr} (hs : slotOf i = none) (hw : i.wf = true) : Statement i :=
  ⟨fun _ slot h => (by rw [hs] at h; cases h), fun _ => hw⟩

/-- A command with a slot is well formed by its slot's length. -/
theorem of_slot {i : Instr} {slot : Slot} (hs : slotOf i = some slot) (hw : i.wf = Slot.wf slot) :
    Statement i := by
  unfold Statement
  rw [hs, hw]
  exact ⟨fun h x hx => (by cases hx; exact eq_of_beq h), fun h => beq_iff_eq.mpr (h slot rfl)⟩

theorem powerOn : Statement .powerOn := of_none rfl rfl
theorem powerOnResetEnd (straps : BitVec 6) : Statement (.powerOnResetEnd straps) := of_none rfl rfl
theorem resetLineLow : Statement .resetLineLow := of_none rfl rfl
theorem resetLineHigh (straps : BitVec 6) : Statement (.resetLineHigh straps) := of_none rfl rfl
theorem lineFault : Statement .lineFault := of_none rfl rfl
theorem syncFound (position : Nat) (head : FrameHead) : Statement (.syncFound position head) := of_none rfl rfl
theorem checkSync (head : FrameHead) : Statement (.checkSync head) := of_none rfl rfl
theorem receiverLocked : Statement .receiverLocked := of_none rfl rfl
theorem lockedSync (head : FrameHead) : Statement (.lockedSync head) := of_none rfl rfl
theorem rejectedSlot (slot : Slot) : Statement (.rejectedSlot slot) := of_slot rfl rfl
theorem audioParcel (slot : Slot) : Statement (.audioParcel slot) := of_slot rfl rfl
theorem cueParcel (slot : Slot) : Statement (.cueParcel slot) := of_slot rfl rfl
theorem pictureReport (slot : Slot) : Statement (.pictureReport slot) := of_slot rfl rfl
theorem orderParcel (slot : Slot) : Statement (.orderParcel slot) := of_slot rfl rfl
theorem passthroughParcel (slot : Slot) : Statement (.passthroughParcel slot) := of_slot rfl rfl
theorem referenceCycle (good : Bool) : Statement (.referenceCycle good) := of_none rfl rfl
theorem referenceLock : Statement .referenceLock := of_none rfl rfl
theorem houseSample : Statement .houseSample := of_none rfl rfl
theorem fillReached (p : Fin 16) : Statement (.fillReached p) := of_none rfl rfl
theorem warmUpEnd (p : Fin 16) : Statement (.warmUpEnd p) := of_none rfl rfl
theorem resyncFlush (p : Fin 16) : Statement (.resyncFlush p) := of_none rfl rfl
theorem parkingEnd (p : Fin 16) : Statement (.parkingEnd p) := of_none rfl rfl
theorem jumpFadeOutEnd (p : Fin 16) : Statement (.jumpFadeOutEnd p) := of_none rfl rfl
theorem jumpRelease (p : Fin 16) : Statement (.jumpRelease p) := of_none rfl rfl
theorem egressWarmUpEnd : Statement .egressWarmUpEnd := of_none rfl rfl
theorem autoStart : Statement .autoStart := of_none rfl rfl
theorem resetOrderDone : Statement .resetOrderDone := of_none rfl rfl
theorem alarmTick : Statement .alarmTick := of_none rfl rfl
theorem laneStalled (l : Fin 32) : Statement (.laneStalled l) := of_none rfl rfl
theorem laneLost (l : Fin 32) : Statement (.laneLost l) := of_none rfl rfl
theorem pictureTimeout (p : Fin 16) : Statement (.pictureTimeout p) := of_none rfl rfl
theorem recordRaised (r : Fin 64) : Statement (.recordRaised r) := of_none rfl rfl
theorem countWindowEnd (r : Fin 64) : Statement (.countWindowEnd r) := of_none rfl rfl
theorem releaseEnd (r : Fin 64) : Statement (.releaseEnd r) := of_none rfl rfl
theorem autoRevert (p : Fin 16) : Statement (.autoRevert p) := of_none rfl rfl
theorem egressFrameStart : Statement .egressFrameStart := of_none rfl rfl
theorem resetBegin (straps : BitVec 6) : Statement (.resetBegin straps) := of_none rfl rfl
theorem unknownOrder : Statement .unknownOrder := of_none rfl rfl
theorem writeLane : Statement .writeLane := of_none rfl rfl
theorem writeProgram : Statement .writeProgram := of_none rfl rfl
theorem writeProfile : Statement .writeProfile := of_none rfl rfl
theorem writeWeighting : Statement .writeWeighting := of_none rfl rfl
theorem writeCoefficients : Statement .writeCoefficients := of_none rfl rfl
theorem writeBandSet : Statement .writeBandSet := of_none rfl rfl
theorem writeRule : Statement .writeRule := of_none rfl rfl
theorem writeEgressMap : Statement .writeEgressMap := of_none rfl rfl
theorem writeSettings : Statement .writeSettings := of_none rfl rfl
theorem readLane : Statement .readLane := of_none rfl rfl
theorem readProgram : Statement .readProgram := of_none rfl rfl
theorem readProfile : Statement .readProfile := of_none rfl rfl
theorem readWeighting : Statement .readWeighting := of_none rfl rfl
theorem readCoefficients : Statement .readCoefficients := of_none rfl rfl
theorem readBandSet : Statement .readBandSet := of_none rfl rfl
theorem readRule : Statement .readRule := of_none rfl rfl
theorem readEgressMap : Statement .readEgressMap := of_none rfl rfl
theorem readSettings : Statement .readSettings := of_none rfl rfl
theorem statusPart : Statement .statusPart := of_none rfl rfl
theorem statusLane : Statement .statusLane := of_none rfl rfl
theorem statusRule : Statement .statusRule := of_none rfl rfl
theorem statusProgramPlay : Statement .statusProgramPlay := of_none rfl rfl
theorem statusProgramServo : Statement .statusProgramServo := of_none rfl rfl
theorem statusProgramMeter : Statement .statusProgramMeter := of_none rfl rfl
theorem statusProgramGain : Statement .statusProgramGain := of_none rfl rfl
theorem statusProgramChangeover : Statement .statusProgramChangeover := of_none rfl rfl
theorem statusProgramCounters : Statement .statusProgramCounters := of_none rfl rfl
theorem start : Statement .start := of_none rfl rfl
theorem park : Statement .park := of_none rfl rfl
theorem delay : Statement .delay := of_none rfl rfl
theorem changeover : Statement .changeover := of_none rfl rfl
theorem acknowledge : Statement .acknowledge := of_none rfl rfl
theorem cue : Statement .cue := of_none rfl rfl
theorem reset : Statement .reset := of_none rfl rfl

end Sys2Proof.Laws.WellFormed
end

