-- ==== Sys2Proof/Laws/Settle.lean ====
section
/-! SUPPORT. What the forms of a command answer: when nothing is due at once, a command from outside acts
on the part as it stands; a step of the part's own acts when it is due; an order's step acts when its
order is the one the Order Unit takes. And one induction over settling: what every own step and every
order keeps, settling keeps. -/

namespace Sys2Proof.Machine

/-! ### Rest and calm -/

theorem State.urgentStep_of_quiet {s : State} (h : s.quiet = true) : s.urgentStep = none := by
  simp only [State.quiet, State.urgent] at h
  cases hu : s.urgentStep with
  | none => rfl
  | some i => simp [hu] at h

theorem State.nextOrder_of_quiet {s : State} (h : s.quiet = true) : s.nextOrder = none := by
  have hu := State.urgentStep_of_quiet h
  simp only [State.quiet, State.urgent, hu] at h
  cases hn : s.nextOrder with
  | none => rfl
  | some o => simp [hn] at h

/-- Settling leaves a quiet state alone. -/
@[simp] theorem State.settle_of_quiet {s : State} (h : s.quiet = true) : s.settle = s := by
  simp only [State.settle, settleFuel, State.takeUrgent, State.urgentStep_of_quiet h,
    State.nextOrder_of_quiet h]

/-- Settling the part's own steps leaves a calm state alone. -/
@[simp] theorem State.settleOwn_of_calm {s : State} (h : s.calm = true) : s.settleOwn = s := by
  have hu : s.urgentStep = none := by
    simp only [State.calm, Bool.and_eq_true] at h
    simpa using h.1
  simp only [State.settleOwn, settleFuel, State.takeOwnSteps, hu]

/-- With no place for an owed rule to take, the head order just leaves the intake (R144, R166). -/
theorem State.takeHead_of_calm {s : State} (h : s.calm = true) : s.takeHead = s.dropHead := by
  have hp : s.promotionDue = false := by
    simp only [State.calm, Bool.and_eq_true] at h
    simpa using h.2
  rw [State.takeHead, State.promoteAll_of_quiet hp]

/-! ### The forms of a command -/

theorem State.outside_of_rest {s : State} (h : s.atRest) (f : State → State) : s.outside f = f s := by
  simp only [State.outside, h.1, State.settle_of_quiet h.2, if_true]

theorem State.outside_of_reset {s : State} (h : s.running = false) (f : State → State) :
    s.outside f = s := by
  simp [State.outside, h]

theorem State.clockCommand_of_rest {s : State} (h : s.atRest) (due : State → Bool) (f : State → State)
    (hd : due s = true) : s.clockCommand due f = f s := by
  simp only [State.clockCommand, State.outside_of_rest h, hd, if_true]

theorem State.ownCommand_of_due {s : State} (hr : s.running = true) {due : Bool} (hd : due = true)
    (f : State → State) : s.ownCommand due f = f s := by
  simp [State.ownCommand, hr, hd]

theorem State.orderCommand_of_takes {s : State} {o : Order} (h : s.takesNow o) {row : Instr}
    (hrow : o.row = row) (f : State → Order → State) : s.orderCommand row f = f s.dropHead o := by
  simp only [State.orderCommand, State.settleOwn_of_calm h.1, h.2, hrow, if_true, State.takeHead_of_calm h.1]

/-! ### Slots (R1, R2) -/

/-- A slot whose bytes are all sound is its bytes. -/
theorem slotBytes_eq_some {slot : Slot} {b : List Byte} (h : slotBytes slot = some b) :
    slot = b.map .data := by
  induction slot generalizing b with
  | nil => simp [slotBytes] at h; simp [h]
  | cons c rest ih =>
    cases c with
    | data x =>
      simp only [slotBytes, Option.map_eq_some_iff] at h
      obtain ⟨b', hb, rfl⟩ := h
      simp [ih hb]
    | sync => simp [slotBytes] at h
    | damaged => simp [slotBytes] at h

/-- Sound bytes end every run of damaged ones (R1). -/
theorem damagedRun_data (n : Nat) {b : List Byte} (h : b ≠ []) :
    damagedRun n (damagedBytes (b.map .data)) = some 0 := by
  induction b generalizing n with
  | nil => exact absurd rfl h
  | cons x rest ih =>
    simp only [damagedBytes, List.map_cons, damagedRun]
    cases rest with
    | nil => rfl
    | cons y r => exact ih 0 (by simp)

/-- A slot that passes its check has no damaged byte, and ends every run of them (R1, R9). -/
theorem damagedRun_of_checked (n : Nat) {slot : Slot} (hl : slot.length = 84)
    (h : slotContent slot ≠ .badCheck) : damagedRun n (damagedBytes slot) = some 0 := by
  cases hb : slotBytes slot with
  | none => simp [slotContent, checkedBytes, hb] at h
  | some b =>
    have hs := slotBytes_eq_some hb
    subst hs
    exact damagedRun_data n (by rintro rfl; simp at hl)

/-- What a slot command does with the slot next taken: a line fault when its bytes complete 32 damaged ones in
a row, otherwise its row's effect on the part with the slot taken (R1, R2). -/
theorem State.slotCommand_of_next {s : State} (h : s.slotNext) {slot : Slot} (hl : slot.length = 84)
    {row : SlotRow} (hrow : s.slotRow slot = row) (hfree : row ≠ .free) (f : State → State) :
    s.slotCommand slot row f = .next
      (match damagedRun s.rx.damaged (damagedBytes slot) with
        | none => { s with rx := s.rx.fault }
        | some run => f (s.slotTaken run)) := by
  have hr : s.running = true := h.1.1
  have ht : s.takesSlot = true := h.2
  cases hd : damagedRun s.rx.damaged (damagedBytes slot) <;>
    simp only [State.slotCommand, hl, if_true, State.outside_of_rest h.1, State.takeSlot, hr, ht, hrow,
      Bool.true_and, hfree, if_false, hd]

/-- What a slot command does with a slot that passes its check: its row's effect on the part with the slot
taken (R2). -/
theorem State.slotCommand_of_checked {s : State} (h : s.slotNext) {slot : Slot} (hl : slot.length = 84)
    (hc : slotContent slot ≠ .badCheck) {row : SlotRow} (hrow : s.slotRow slot = row)
    (hfree : row ≠ .free) (f : State → State) :
    s.slotCommand slot row f = .next (f (s.slotTaken 0)) := by
  rw [State.slotCommand_of_next h hl hrow hfree, damagedRun_of_checked _ hl hc]

/-- Nothing due on the house clock: settling the clock leaves the state alone. -/
theorem State.settleClock_of_quiet {s : State} (h : s.clockQuiet = true) : s.settleClock = s := by
  simp only [State.clockQuiet, Bool.and_eq_true, Bool.not_eq_true'] at h
  simp [State.settleClock, h.1.1.1, h.1.1.2, h.1.2, State.promoteAll_of_quiet h.2]

/-! ### One induction over settling -/

/-- What every step of the part's own and every order carried out keeps, settling keeps. -/
theorem State.takeUrgent_keeps {Q : State → Prop} (own : ∀ s i, Q s → Q (s.ownStep i))
    (order : ∀ s o, Q s → Q (s.takeHead.carryOut o)) (n : Nat) :
    ∀ s : State, Q s → Q (s.takeUrgent n) := by
  induction n with
  | zero => exact fun s h => h
  | succ n ih =>
    intro s h
    simp only [State.takeUrgent]
    split
    · exact ih _ (own s _ h)
    · split
      · exact ih _ (order s _ h)
      · exact h

theorem State.takeOwnSteps_keeps {Q : State → Prop} (own : ∀ s i, Q s → Q (s.ownStep i)) (n : Nat) :
    ∀ s : State, Q s → Q (s.takeOwnSteps n) := by
  induction n with
  | zero => exact fun s h => h
  | succ n ih =>
    intro s h
    simp only [State.takeOwnSteps]
    split
    · exact ih _ (own s _ h)
    · exact h

end Sys2Proof.Machine
end

