-- ==== Sys2Proof/Tests/Slice0.lean ====
section
/-! SUPPORT. Tests: the well-formedness smoke, the bytes of parcels and orders written out from Chapter 11,
and one small step each, by hand calculation from the manual; and for each obligation with hypotheses a
concrete state and operands that meet them. -/

namespace Sys2Proof.Tests

open Sys2Proof.Machine

set_option Elab.async false
set_option maxRecDepth 100000

/-! ## Helpers -/

/-- A slot with this content, filled with 0 and sealed. -/
def made (content : List Byte) : Slot := (sealSlot content).map .data

/-- Four bytes of a stamp. -/
def be4 (x : Nat) : List Byte := beBytes 4 x

/-- The part out of its warm-up, LOCKED, three slots of the taken frame still to come. -/
def ready : State :=
  { straps := 12, node := 12
    house := { warmUpLeft := 0, warmedUp := true, stamp := 3000, toTick := 24, toFrame := 6 }
    rx := { framing := .locked, expectedNum := 7, slotsLeft := 3, trunkSeen := false }
    orders := { autoStarted := true } }

/-- A lane of node 5 with its own tag and region. -/
def laneOf (tag : Byte) (page : Nat) : LaneEntry :=
  { defined := true, origin := 5, tag := tag, startPage := page, sizePages := 8 }

/-- Lanes 0 and 1 defined, program 0 of both with picture source (9, 4). -/
def tables : Tables :=
  { lanes := ((Vector.replicate 32 {}).set 0 (laneOf 1 0)).set 1 (laneOf 2 8)
    programs := (Vector.replicate 16 {}).set 0
      { defined := true, members := [0, 1], picture := some (9, 4), delayMode := .follow } }

def stocked : State := { ready with tables := tables }

/-- Program 0 in a play state at P = M = 1,000 with W = 1,100 on lane 0 and the rest as given. -/
def playing (st : PlayState) (x : Program) : State :=
  { stocked with
    lanes := ((Vector.replicate 32 {}).set 0 { status := .receiving, horizon := some 1100, lastSeq := some 9 }).set 1
      { status := .receiving, horizon := some 1050, lastSeq := some 3 }
    programs := (Vector.replicate 16 {}).set 0 { x with
      play := { x.play with state := st }
      conv := { x.conv with pos := some ⟨1000, 0⟩ }
      meter := { x.meter with pos := some 1040, boundary := 5800, members := [{}, {}] }
      servo := { x.servo with limit := 8000, fill := 200, delay := 152 } } }

/-- Program 0 in RUNNING. -/
def onAir : State := playing .running { play := { fade := 480, target := .opened, elapsed := true } }

/-- The state a command leads to, for looking at one of its fields. -/
def after (c : Instr) (s : State) : State :=
  match exec c s with
  | .next t => t
  | _ => {}

/-- An order waiting alone at the head of the intake. -/
def asked (s : State) (o : Order) : State := { s with orders := { s.orders with intake := [o] } }

def order (kind : Byte) (args : List Byte) : Order := ⟨30, 77, kind, args⟩

/-- The reply an order's step makes, as kind, status and results. -/
def answerOf (c : Instr) (s : State) (o : Order) : Option (Status × List Byte) :=
  (after c (asked s o)).orders.replies.getLast?.map fun r => (r.status, r.results)

/-! ## Well-formedness: an ill-formed command for each check, refused -/

theorem smoke_rejected : Instr.wf (.rejectedSlot (List.replicate 83 .damaged)) = false := by decide
theorem smoke_audio : Instr.wf (.audioParcel (List.replicate 85 (.data 0))) = false := by decide
theorem smoke_cue : Instr.wf (.cueParcel []) = false := by decide
theorem smoke_picture : Instr.wf (.pictureReport (List.replicate 83 (.data 3))) = false := by decide
theorem smoke_order : Instr.wf (.orderParcel (List.replicate 10 .sync)) = false := by decide
theorem smoke_passthrough : Instr.wf (.passthroughParcel (List.replicate 85 .damaged)) = false := by decide

/-! ## Bytes (Chapter 11) -/

/-- R179 gives 0x29B1 for the characters 123456789. -/
theorem test_crc : crc16 [0x31, 0x32, 0x33, 0x34, 0x35, 0x36, 0x37, 0x38, 0x39] = 0x29B1 := by decide +kernel

/-- An AUDIO slot (11.3): node 5, kind 1, tag 1, sequence 10, count 2, SUSPECT, stamp 1,100, two samples. -/
def audioSlot : Slot :=
  made [5, 1, 1, 10, 2, 1, 0, 0, 0x04, 0x4C, 0x00, 0x00, 0x05, 0xFF, 0xFF, 0xFE]

theorem test_audio_bytes : slotContent audioSlot = .audio 5 1 10 true false 1100 [5, 0xFFFFFE] := by
  decide +kernel

/-- A CUE slot: node 5, kind 2, tag 1, stamp 1,200, USER_MARK 0x1234. -/
def cueSlot : Slot := made [5, 2, 1, 0, 0, 0, 0, 0, 0x04, 0xB0, 2, 0x12, 0x34]

theorem test_cue_bytes : slotContent cueSlot = .cue 5 1 1200 .userMark 0x1234 := by decide +kernel

/-- A PICTURE slot: node 9, kind 3, tag 4, 40,000 µs = 0x9C40, valid. -/
def pictureSlot : Slot := made [9, 3, 4, 0, 0, 0, 0, 0, 0, 0, 0, 0, 0x9C, 0x40, 1]

theorem test_picture_bytes : slotContent pictureSlot = .picture 9 4 40000 true := by decide +kernel

/-- A report above 10,000,000 µs = 0x989680 arrives invalid (R8). -/
theorem test_picture_late : slotContent (made [9, 3, 4, 0, 0, 0, 0, 0, 0, 0, 0, 0x98, 0x96, 0x81, 1]) =
    .picture 9 4 10000001 false := by decide +kernel

/-- An ORDER slot: node 12, kind 4, sub-kind 0, reply to 30, tag 77, READ of the settings. -/
def orderSlot : Slot := made [12, 4, 0, 0, 0, 0, 0, 0, 0, 0, 0, 30, 0, 77, 1, 8, 0]

theorem test_order_bytes :
    slotContent orderSlot = .order 12 (order 1 ([8, 0] ++ List.replicate 65 0)) := by decide +kernel

/-- A REPLY of another node, which passes through. -/
def passSlot : List Byte := sealSlot [13, 4, 0, 0, 0, 0, 0, 0, 0, 0, 1, 7]

theorem test_pass_bytes : slotContent (passSlot.map .data) = .otherControl := by decide +kernel

/-- A slot of all zeros but its check is free; with a damaged byte it fails its check (R9). -/
theorem test_free_and_damaged : slotContent (made []) = .free ∧
    slotContent ((made []).set 40 .damaged) = .badCheck := by decide +kernel

/-- An unknown kind and a bad count (R10). -/
def kindSlot : Slot := made [5, 9]
def countSlot : Slot := made [5, 1, 1, 0, 25]
def badSlot : Slot := (made []).set 83 (.data 1)

theorem test_rejects : slotContent kindSlot = .unknownKind ∧ slotContent countSlot = .badCount ∧
    slotContent badSlot = .badCheck := by decide +kernel

/-- The rows of the ten order kinds, by table, target and view (11.4). -/
theorem test_rows :
    ([(order 0 [0]).row, (order 0 [4]).row, (order 0 [8]).row, (order 0 [9]).row, (order 1 [1]).row,
      (order 1 [6]).row, (order 2 [0]).row, (order 2 [1]).row, (order 2 [2, 0, 4]).row,
      (order 2 [2, 0, 6]).row, (order 2 [3]).row, (order 2 [4]).row] =
      [.writeLane, .writeCoefficients, .writeSettings, .unknownOrder, .readProgram, .readRule, .statusPart,
        .statusLane, .statusProgramChangeover, .unknownOrder, .statusRule, .unknownOrder]) ∧
    ([3, 4, 5, 6, 7, 8, 9, 10].map fun k => (order k []).row) =
      [.start, .park, .delay, .changeover, .acknowledge, .cue, .reset, .unknownOrder] := by decide +kernel

/-- A program entry as 11.4 lays it out: 59 bytes, member count third in the order. -/
theorem test_program_bytes : (tables.programs[0]).bytes.take 12 = [1, 2, 0, 1, 0, 0, 0, 0, 0, 0, 0x03, 0xE8] ∧
    (tables.programs[0]).bytes.length = 59 ∧ (laneOf 1 8).bytes = [1, 5, 1, 2, 0, 8, 0, 8, 0, 0, 100] := by
  decide +kernel

/-! ## Resets (R11, R150, R175, R180) -/

theorem test_powerOn : (after .powerOn stocked).running = false ∧ (after .powerOn stocked).rx.slotsLeft = 0 := by
  decide +kernel

theorem test_powerOnResetEnd :
    (after (.powerOnResetEnd 12) { stocked with powerReset := true }).house.warmUpLeft = 3072 ∧
      (after (.powerOnResetEnd 12) { stocked with powerReset := true }).tables.lanes[0].defined = false := by
  decide +kernel

/-- Straps that read 0 are a strap fault, with MAJOR active (R12). -/
theorem test_powerOnResetEnd_strapFault :
    (after (.powerOnResetEnd 0) { stocked with powerReset := true }).alarm.majorLine = true := by
  decide +kernel

theorem test_resetLineLow : (after .resetLineLow onAir).resetLow = true ∧
    (after .resetLineLow onAir).rx.framing = .hunt := by decide +kernel

theorem test_resetLineHigh :
    (after (.resetLineHigh 3) { onAir with resetLow := true }).tables.lanes[1].tag = 2 ∧
      (after (.resetLineHigh 3) { onAir with resetLow := true }).playState 0 = .parked ∧
      (after (.resetLineHigh 3) { onAir with resetLow := true }).house.warmUpLeft = 192 := by decide +kernel

def resetting : State :=
  { stocked with orders := { unit := .resetPending, owing := some ⟨30, 5, 9⟩, autoStarted := true } }

theorem test_resetBegin : (after (.resetBegin 12) resetting).orders.cause = .order ∧
    (after (.resetBegin 12) resetting).orders.owing = some ⟨30, 5, 9⟩ := by decide +kernel

theorem test_resetOrderDone :
    (after .resetOrderDone { resetting with orders :=
      { resetting.orders with resetDone := true } }).orders.replies = [⟨30, 5, 9, .done, []⟩] := by
  decide +kernel

/-- An auto-start program starts, and with a management node STARTED names it (R52, R177). -/
def starting : State :=
  { stocked with
    tables := { tables with
      programs := (Vector.replicate 16 {}).set 0 { defined := true, members := [0, 1], autoStart := true }
      settings := { node := 40 } }
    orders := { cause := .line } }

theorem test_autoStart : (after .autoStart starting).playState 0 = .priming ∧
    (after .autoStart starting).alarm.notices = [.started .line [0] 0] := by decide +kernel

/-! ## The trunk (R1 to R14) -/

theorem test_lineFault : (after .lineFault ready).rx.lockLosses = 1 ∧
    (after .lineFault ready).rx.framing = .hunt := by decide +kernel

/-- The number 65,535 is followed by 0 (R3). -/
theorem test_syncFound :
    (after (.syncFound 100 ⟨.sync, .data 0xC5, .data 0xFF, .data 0xFF⟩)
      { ready with rx := {} }).rx.expectedNum = 0 ∧
    (after (.syncFound 100 ⟨.sync, .data 0xC5, .data 0xFF, .data 0xFF⟩)
      { ready with rx := {} }).rx.expectedPos = 10856 := by decide +kernel

def checking : State := { ready with rx := { framing := .check, goodSyncs := 2, expectedNum := 258 } }

theorem test_checkSync :
    (after (.checkSync ⟨.sync, .data 0xC5, .data 1, .data 2⟩) checking).rx.goodSyncs = 3 ∧
    (after (.checkSync ⟨.sync, .data 0xC5, .data 1, .data 3⟩) checking).rx.framing = .hunt := by
  decide +kernel

theorem test_receiverLocked :
    (after .receiverLocked { checking with rx := { checking.rx with goodSyncs := 3 } }).rx.slotsLeft = 128 := by
  decide +kernel

/-- One bad sync keeps LOCKED and drops the frame, a second loses the lock (R5). -/
theorem test_lockedSync :
    (after (.lockedSync ⟨.damaged, .damaged, .damaged, .damaged⟩) ready).rx.misses = 1 ∧
    (after (.lockedSync ⟨.damaged, .damaged, .damaged, .damaged⟩)
      { ready with rx := { ready.rx with misses := 1 } }).rx.lockLosses = 1 := by decide +kernel

theorem test_rejectedSlot : (after (.rejectedSlot countSlot) ready).rx.countErrors = 1 := by decide +kernel

/-- In order on the leader: W 1,102, two SUSPECT words, M to 1,102 − 48 = 1,054 (R25, R91). -/
theorem test_audioParcel :
    (fun t : State => (t.lane 0).horizon = some 1102 ∧ (t.lane 0).taint = 2 ∧
      (t.program 0).meter.pos = some 1054 ∧ t.mem = [(1100, ⟨5, true⟩), (1101, ⟨0xFFFFFE, true⟩)])
      (after (.audioParcel audioSlot) onAir) := by decide +kernel

theorem test_cueParcel :
    ((after (.cueParcel cueSlot) onAir).program 0).gain.schedule = [.cue 1200 .userMark 0x1234] := by
  decide +kernel

/-- 40,000 µs are 1,920 house samples, and F* is 1,920 + 48 (R72, R87). -/
theorem test_pictureReport :
    ((after (.pictureReport pictureSlot) onAir).program 0).servo.delay = 1920 ∧
      ((after (.pictureReport pictureSlot) onAir).program 0).servo.fill = 1968 := by decide +kernel

theorem test_orderParcel :
    (after (.orderParcel orderSlot) ready).orders.intake = [order 1 ([8, 0] ++ List.replicate 65 0)] := by
  decide +kernel

theorem test_passthroughParcel :
    (after (.passthroughParcel (passSlot.map .data)) ready).egress.passthrough = [passSlot] := by
  decide +kernel

/-- A slot of another row is not this command's (log entry 2). -/
theorem test_otherRow : (after (.orderParcel audioSlot) onAir).rx.slotsLeft = 3 := by decide +kernel

/-! ## House Timing and the egress (R149, R150, R156) -/

theorem test_referenceCycle : (after (.referenceCycle true) ready).house.goodCycles = 1 ∧
    (after (.referenceCycle false)
      { ready with house := { ready.house with reference := .locked } }).house.reference = .holdover := by
  decide +kernel

theorem test_referenceLock :
    (after .referenceLock { ready with house := { ready.house with goodCycles := 48 } }).house.reference =
      .locked := by decide +kernel

/-- A RUNNING program with fill advances one stamp a house sample at C48 (R59). -/
theorem test_houseSample : ((after .houseSample onAir).program 0).conv.pos = some ⟨1001, 0⟩ ∧
    (after .houseSample onAir).house.stamp = 3001 := by decide +kernel

/-- floor(P + R) + 16 is not behind W: the advance is withheld (R60). -/
theorem test_houseSample_held :
    ((after .houseSample (onAir.setLane 0 { onAir.lane 0 with horizon := some 1017 })).program 0).conv.hold =
      true := by decide +kernel

theorem test_alarmTick :
    ((after .alarmTick { onAir with house := { onAir.house with toTick := 0 } }).lane 0).idle = 1 ∧
    ((after .alarmTick { onAir with house := { onAir.house with toTick := 0 } }).lane 5).idle = 0 := by
  decide +kernel

theorem test_egressWarmUpEnd :
    (after .egressWarmUpEnd { ready with house :=
      { ready.house with warmedUp := false, toFrame := 12 } }).house.warmedUp = true := by decide +kernel

theorem test_egressFrameStart :
    (after .egressFrameStart { ready with house := { ready.house with toFrame := 0 } }).egress.number = 1 ∧
    (after .egressFrameStart { ready with house := { ready.house with toFrame := 0 } }).house.toFrame = 12 := by
  decide +kernel

/-! ## Lanes and programs of themselves (Chapters 2, 3, 5 and 9) -/

/-- Lane 0 with an idle time. -/
def quietFor (n : Nat) (s : State) : State :=
  s.setLane 0 { s.lane 0 with idle := n }

theorem test_laneStalled : ((after (.laneStalled 0) (quietFor 2 onAir)).lane 0).status = .stalled ∧
    ((after (.laneStalled 0) (quietFor 1 onAir)).lane 0).status = .receiving := by decide +kernel

/-- The leader LOST takes RUNNING to HOLDOVER (R44). -/
theorem test_laneLost : ((after (.laneLost 0) (quietFor 100 onAir)).lane 0).status = .lost ∧
    (after (.laneLost 0) (quietFor 100 onAir)).playState 0 = .holdover := by decide +kernel

theorem test_pictureTimeout :
    ((after (.pictureTimeout 0) (playing .running { servo := { pictureDue := true } })).program 0).servo.pictureLate
      = true ∧
    ((after (.pictureTimeout 0) onAir).program 0).servo.pictureLate = false := by decide +kernel

/-- PRIMING with F* = 100 = W − P: P = 1,100 − 100, and 100 ms of warm-up are 4,800 house samples (R42, R43). -/
def filled : State :=
  let s := playing .priming { play := { warmUpSet := 100 } }
  s.setProgram 0 { s.program 0 with servo := { (s.program 0).servo with fill := 100 } }

theorem test_fillReached : ((after (.fillReached 0) filled).program 0).conv.pos = some ⟨1000, 0⟩ ∧
    ((after (.fillReached 0) filled).program 0).play.warmUpLeft = 4800 := by decide +kernel

theorem test_warmUpEnd : (after (.warmUpEnd 0) (playing .warming {})).playState 0 = .running ∧
    ((after (.warmUpEnd 0) (playing .warming {})).program 0).play.target = .opened := by decide +kernel

theorem test_resyncFlush : (after (.resyncFlush 0) (playing .resyncing {})).playState 0 = .priming ∧
    ((after (.resyncFlush 0) (playing .resyncing {})).lane 1).horizon = none ∧
    ((after (.resyncFlush 0) (playing .resyncing {})).lane 1).status = .receiving := by decide +kernel

def parking : State :=
  { playing .parking {} with orders := { unit := .parkPending, owing := some ⟨30, 6, 4⟩, autoStarted := true } }

theorem test_parkingEnd : (after (.parkingEnd 0) parking).playState 0 = .parked ∧
    ((after (.parkingEnd 0) parking).lane 0).status = .parked ∧
    (after (.parkingEnd 0) parking).orders.replies = [⟨30, 6, 4, .done, []⟩] := by decide +kernel

/-- A jump whose fill, 100, is below F*, 200, holds; with F* at 100 it moves (R82, R83). -/
def jumping (phase : JumpPhase) (fill : Nat) : State :=
  let s := playing .running {}
  s.setProgram 0 { s.program 0 with servo :=
    { (s.program 0).servo with mode := .jump, phase := some phase, fill := fill } }

theorem test_jumpFadeOutEnd :
    ((after (.jumpFadeOutEnd 0) (jumping .fadeOut 200)).program 0).servo.phase = some .hold ∧
    ((after (.jumpFadeOutEnd 0) (jumping .fadeOut 60)).program 0).conv.pos = some ⟨1040, 0⟩ := by
  decide +kernel

theorem test_jumpRelease : ((after (.jumpRelease 0) (jumping .hold 100)).program 0).servo.mode = .track ∧
    ((after (.jumpRelease 0) (jumping .hold 100)).program 0).servo.phase = none := by decide +kernel

def reverting : State :=
  stocked.setProgram 0 { change := { state := .reverting, revertDue := true, revert := 5000 } }

theorem test_autoRevert : ((after (.autoRevert 0) reverting).program 0).change.state = .primary := by
  decide +kernel

/-! ## Records (Chapter 8) -/

/-- Rule 3 on program 0, MAJOR with MUTE and a notice, its record as given. -/
def ruled (x : Record) : State :=
  { onAir with
    tables := { tables with
      rules := (Vector.replicate 64 {}).set 3
        { enabled := true, severity := .major, actions := { mute := true }, notice := true, stretch := 7 }
      settings := { node := 40 } }
    alarm := { records := (Vector.replicate 64 {}).set 3 x } }

/-- A raise holds MUTE, drives MAJOR and makes its notice (R134, R139, R141, R142). -/
theorem test_recordRaised :
    (fun t : State => (t.program 0).holds.mute = 1 ∧ (t.program 0).play.target = .silent ∧
      t.alarm.majorLine = true ∧ t.alarm.notices = [.rule 3 .raised false (some .raised) 3000 1] ∧
      (t.record 3).stretch = 7)
      (after (.recordRaised 3) (ruled { state := .qualifying, qual := 1, due := some .raise })) := by
  decide +kernel

theorem test_countWindowEnd :
    ((after (.countWindowEnd 3) (ruled { state := .qualifying, window := 9, due := some .windowEnd })).record
      3).state = .clear := by decide +kernel

theorem test_releaseEnd :
    ((after (.releaseEnd 3) (ruled { state := .releasing, due := some .release })).record 3).state = .clear := by
  decide +kernel

/-! ## Orders (Chapter 10) -/

theorem test_unknownOrder : answerOf .unknownOrder stocked (order 10 []) = some (.refusedUnknown, []) := by
  decide +kernel

/-- A lane write: node 5, tag 9, C44, page 16, 8 pages, ZERO, lost time 2 clamped to 5 (R16). -/
def laneOrder : Order := order 0 [0, 2, 1, 5, 9, 1, 0, 16, 0, 8, 1, 0, 2]

theorem test_writeLane : answerOf .writeLane stocked laneOrder = some (.clamped, []) ∧
    (after .writeLane (asked stocked laneOrder)).laneEntry 2 =
      { laneOf 9 16 with rateClass := .c44, conceal := .zero, lostTime := 5 } := by decide +kernel

/-- A key already defined is refused (R16). -/
theorem test_writeLane_conflict :
    answerOf .writeLane stocked (order 0 [0, 2, 1, 5, 2, 1, 0, 16, 0, 8, 1, 0, 20]) =
      some (.refusedConflict, []) := by decide +kernel

/-- The stored entry written back while PARKED is DONE; with another member list while it runs, refused (R39). -/
theorem test_writeProgram :
    answerOf .writeProgram stocked (order 0 ([1, 0] ++ (stocked.entry 0).bytes)) = some (.done, []) ∧
    answerOf .writeProgram onAir (order 0 ([1, 0] ++ ({ stocked.entry 0 with members := [0] } :
      ProgramEntry).bytes)) = some (.refusedState, []) := by decide +kernel

/-- A manual delay of 12 written while the program runs is put in force: F* = 12 + 48 at C48 (R73 to R75). -/
theorem test_writeProgram_delay :
    ((after .writeProgram (asked onAir (order 0 ([1, 0] ++ ({ onAir.entry 0 with delayMode := .manual, manualDelay := 12 } :
      ProgramEntry).bytes)))).program 0).servo.fill = 60 := by decide +kernel

/-- A target of −40.00 LU is clamped to −36.00 (R110). -/
def profileOrder : Order := order 0 [2, 1, 0xF0, 0x60, 0, 1, 0, 2, 0, 3, 0, 4, 0xF0, 0x60, 0xF0, 0x60, 0xFC, 0x18]

theorem test_writeProfile : answerOf .writeProfile stocked profileOrder = some (.clamped, []) ∧
    (after .writeProfile (asked stocked profileOrder)).tables.profiles[1].target = -3600 := by decide +kernel

theorem test_writeWeighting :
    answerOf .writeWeighting onAir (order 0 [3, 2]) = some (.refusedInUse, []) ∧
    answerOf .writeWeighting onAir (order 0 [3, 1]) = some (.done, []) := by decide +kernel

/-- Two taps from tap 30 on fit a phase, three do not (R68). -/
theorem test_writeCoefficients :
    answerOf .writeCoefficients stocked (order 0 [4, 1, 64, 30, 2, 0, 0, 1, 0, 0, 2]) = some (.done, []) ∧
    answerOf .writeCoefficients stocked (order 0 [4, 1, 64, 30, 3]) = some (.refusedValue, []) := by
  decide +kernel

/-- b2 is brought to b1 + 1 (R77). -/
theorem test_writeBandSet :
    (after .writeBandSet (asked stocked (order 0 [5, 3, 0, 100, 0, 5]))).tables.band3 = ⟨100, 101⟩ ∧
    answerOf .writeBandSet stocked (order 0 [5, 2, 0, 100, 0, 5]) = some (.refusedIndex, []) := by decide +kernel

/-- Under COUNT n is lowered to w, and TRUNK scoped to a program is refused (R129). -/
theorem test_writeRule :
    (fun r : Rule => r.n = 5 ∧ r.w = 5 ∧ r.kind = .trunk ∧ r.scope = none)
      ((after .writeRule (asked stocked (order 0
        [6, 9, 1, 9, 16, 0, 0, 1, 0, 9, 0, 5, 0, 0, 0, 0, 0, 1, 0, 1, 0]))).rule 9) ∧
    answerOf .writeRule stocked (order 0 [6, 9, 1, 9, 15, 0, 0, 1, 0, 9, 0, 5, 0, 0, 0, 0, 0, 1, 0, 1, 0]) =
      some (.refusedValue, []) := by decide +kernel

theorem test_writeEgressMap :
    (after .writeEgressMap (asked stocked (order 0 [7, 31, 1, 8, 127, 15, 7]))).tables.map[31] =
      ⟨true, 8, 127, 15, 7⟩ ∧
    (after .writeEgressMap (asked stocked (order 0 [7, 31, 1, 8, 127, 15, 7]))).mapEntry 31 = {} := by
  decide +kernel

theorem test_writeSettings :
    (after .writeSettings (asked stocked (order 0 [8, 0, 63, 1]))).house.reference = .locked ∧
    answerOf .writeSettings stocked (order 0 [8, 0, 64, 1]) = some (.refusedValue, []) := by decide +kernel

theorem test_readLane : answerOf .readLane stocked (order 1 [0, 1]) =
    some (.done, [0, 1, 1, 5, 2, 2, 0, 8, 0, 8, 0, 0, 100]) := by decide +kernel

theorem test_readProgram : (answerOf .readProgram stocked (order 1 [1, 0])).map (fun x => x.2.take 6) =
    some [1, 0, 1, 2, 0, 1] := by decide +kernel

/-- The power-on profile (R110). -/
theorem test_readProfile : answerOf .readProfile stocked (order 1 [2, 7]) =
    some (.done, [2, 7, 0xF7, 0x04, 0x02, 0x58, 0x04, 0xB0, 0, 50, 0, 20, 0xF0, 0x60, 0xE4, 0xA8, 0xFC, 0x18]) := by
  decide +kernel

theorem test_readWeighting : (answerOf .readWeighting stocked (order 1 [3, 4])).map (fun x => x.2.take 7) =
    some [3, 4, 0x10, 0, 0, 0, 0] := by decide +kernel

/-- Tap 15 of the identity bank is 4,194,304 = 0x400000 (R67). -/
theorem test_readCoefficients : answerOf .readCoefficients stocked (order 1 [4, 3, 64, 14, 2]) =
    some (.done, [4, 3, 64, 14, 2, 0, 0, 0, 0x40, 0, 0]) := by decide +kernel

theorem test_readBandSet : answerOf .readBandSet stocked (order 1 [5, 2]) =
    some (.done, [5, 2, 0, 12, 0, 192]) := by decide +kernel

theorem test_readRule : answerOf .readRule stocked (order 1 [6, 64]) = some (.refusedIndex, []) ∧
    (answerOf .readRule stocked (order 1 [6, 63])).map (fun x => x.2.length) = some 21 := by decide +kernel

theorem test_readEgressMap : answerOf .readEgressMap stocked (order 1 [7, 31]) =
    some (.done, [7, 31, 0, 0, 0, 0, 0]) := by decide +kernel

theorem test_readSettings : answerOf .readSettings stocked (order 1 [8, 0]) = some (.done, [8, 0, 0, 0]) := by
  decide +kernel

theorem test_statusPart : (answerOf .statusPart stocked (order 2 [0])).map (fun x => x.2.take 3) =
    some [12, 0, 2] := by decide +kernel

theorem test_statusLane : (answerOf .statusLane onAir (order 2 [1, 0])).map (fun x => x.2.take 8) =
    some [2, 1, 0, 0, 0x04, 0x4C, 1, 9] := by decide +kernel

theorem test_statusRule : (answerOf .statusRule (ruled { state := .ackWait, qual := 3 }) (order 2 [3, 3])).map
    (fun x => x.2.take 3) = some [4, 0, 3] := by decide +kernel

theorem test_statusProgramPlay :
    (answerOf .statusProgramPlay onAir (order 2 [2, 0, 0])).map (fun x => x.2.take 4) = some [3, 1, 0xE0, 1] ∧
    answerOf .statusProgramPlay onAir (order 2 [2, 0, 0, 1]) = some (.refusedValue, []) := by decide +kernel

theorem test_statusProgramServo :
    (answerOf .statusProgramServo onAir (order 2 [2, 0, 1])).map (fun x => x.2.take 9) =
      some [0, 0, 152, 0, 0, 200, 0, 0x1F, 0x40] := by decide +kernel

theorem test_statusProgramMeter :
    (answerOf .statusProgramMeter onAir (order 2 [2, 0, 2])).map (fun x => x.2.take 5) =
      some [1, 0, 0, 0x04, 0x10] := by decide +kernel

theorem test_statusProgramGain :
    (answerOf .statusProgramGain onAir (order 2 [2, 0, 3])).map (fun x => x.2.take 7) =
      some [0, 0, 0, 0, 0x10, 0, 0] := by decide +kernel

theorem test_statusProgramChangeover :
    answerOf .statusProgramChangeover onAir (order 2 [2, 0, 4, 0, 32]) = some (.refusedValue, []) ∧
    answerOf .statusProgramChangeover onAir (order 2 [2, 0, 4, 0, 31]) =
      some (.done, [0, 0, 0, 0, 0, 0, 0]) := by decide +kernel

theorem test_statusProgramCounters :
    (after .statusProgramCounters (asked (playing .running { play := { resyncs := 9 } })
      (order 2 [2, 0, 5, 1]))).orders.replies.map (fun r => r.results.take 2) = [[0, 9]] ∧
    ((after .statusProgramCounters (asked (playing .running { play := { resyncs := 9 } })
      (order 2 [2, 0, 5, 1]))).program 0).play.resyncs = 0 := by decide +kernel

theorem test_start : (after .start (asked stocked (order 3 [0]))).playState 0 = .priming ∧
    ((after .start (asked stocked (order 3 [0]))).lane 1).status = .armed := by decide +kernel

theorem test_start_refused : answerOf .start onAir (order 3 [0]) = some (.refusedState, []) ∧
    answerOf .start stocked (order 3 [16]) = some (.refusedIndex, []) := by decide +kernel

theorem test_park : (after .park (asked onAir (order 4 [0]))).playState 0 = .parking ∧
    (after .park (asked onAir (order 4 [0]))).orders.replies = [] := by decide +kernel

/-- 9,000 house samples are limited to D_max, 8,000 here (R74, R75). -/
theorem test_delay : answerOf .delay onAir (order 5 [0, 0, 0, 0x23, 0x28]) = some (.clamped, []) ∧
    ((after .delay (asked onAir (order 5 [0, 0, 0, 0x23, 0x28]))).program 0).servo.delay = 8000 := by
  decide +kernel

theorem test_changeover :
    ((after .changeover (asked onAir (order 6 [0, 1]))).program 0).change.state = .wanted := by decide +kernel

theorem test_acknowledge :
    ((after .acknowledge (asked (ruled { state := .ackWait }) (order 7 [3]))).record 3).state = .clear ∧
    ((after .acknowledge (asked (ruled { state := .raised }) (order 7 [255]))).record 3).acked = true := by
  decide +kernel

/-- The cue enters at M = 1,040 (R115). -/
theorem test_cue :
    ((after .cue (asked onAir (order 8 [0, 1, 0, 0]))).program 0).gain.schedule = [.cue 1040 .segmentEnd 0] ∧
    ((after .cue (asked onAir (order 8 [0, 1, 0, 0]))).program 0).meter.cues = [(1040, .segmentEnd)] := by
  decide +kernel

theorem test_reset : (after .reset (asked onAir (order 9 []))).orders.unit = .resetPending := by decide +kernel


/-! ## Witnesses: concrete states that meet the hypotheses of the obligations

Each theorem is named after the obligation it serves; where an obligation has several clauses, each has a
conjunct, at a boundary value where there is one. -/

theorem rest_of {s : State} (h : (s.running && s.quiet) = true) : s.atRest := by
  simpa [State.atRest] using h

theorem slotNext_of {s : State} (h : (s.running && s.quiet && s.takesSlot) = true) : s.slotNext := by
  simpa [State.slotNext, State.atRest, and_assoc] using h

theorem takesNow_of {s : State} {o : Order} (h : (s.calm && s.nextOrder == some o) = true) : s.takesNow o := by
  simpa [State.takesNow] using h

/-- One defined program alone, its members the lanes that are not PARKED. -/
theorem started_of {s : State} (p : Fin 16) (hd : (s.entry p).defined = true)
    (ho : ∀ q, q ≠ p → (s.entry q).defined = false ∧ s.active q = false)
    (hl : ∀ l, (s.lane l).status ≠ .parked ↔ l ∈ (s.entry p).members ∧ s.active p = true) : s.startedOk := by
  refine ⟨fun a b l hab ha hb => ?_, fun a ha => ?_, fun l => (hl l).trans ⟨fun h => ⟨p, hd, h⟩, ?_⟩⟩
  · by_cases h : a = p
    · have := (ho b fun e => hab (h.trans e.symm)).1
      simp [this] at hb
    · simp [(ho a h).1] at ha
  · by_cases h : a = p
    · exact h ▸ hd
    · simp [(ho a h).2] at ha
  · rintro ⟨q, hq, h⟩
    by_cases e : q = p
    · exact e ▸ h
    · simp [(ho q e).1] at hq

theorem onAir_lanes : onAir.lanesOk := by unfold State.lanesOk; decide +kernel
theorem onAir_started : onAir.startedOk :=
  started_of 0 (by decide +kernel) (by decide +kernel) (by decide +kernel)

/-- As onAir in any play state and with any positions: the tables and lanes are the same. -/
theorem lanes_of {s : State} (h : s.tables = tables) : s.lanesOk := by
  have := onAir_lanes
  unfold State.lanesOk State.laneEntry at this ⊢
  rw [h]
  exact this

theorem witness_FrontCommandRuns : State.reset.pending = [] := rfl

theorem witness_CommandsCompleteAndLeaveQueue :
    Instr.wf (.audioParcel audioSlot) = true ∧ Instr.wf (.audioParcel []) = false := by decide +kernel

theorem witness_ResetsHoldThePart : ready.resetLow = false ∧
    ({ ready with powerReset := true } : State).running = false ∧
    ({ ready with resetLow := true } : State).running = false := by decide +kernel

/-- With RESET_N high, and still low. -/
theorem witness_PowerOnLeavesPowerOnValues :
    (fun s : State => s.powerReset = true ∧ s.resetLow = false) { onAir with powerReset := true } ∧
    (fun s : State => s.powerReset = true ∧ s.resetLow = true)
      { onAir with powerReset := true, resetLow := true } := by decide +kernel

theorem witness_LineResetKeepsTables :
    (fun s : State => s.resetLow = true ∧ s.powerReset = false) { onAir with resetLow := true } := by
  decide +kernel

theorem witness_OrderResetKeepsPendingOrder : resetting.running = true ∧
    resetting.orders.unit = .resetPending ∧ resetting.orders.resetDone = false ∧
    resetting.orders.replies = [] := by decide +kernel

theorem endsPower : EndsPower { onAir with powerReset := true }
    (State.afterPower { onAir with powerReset := true } 12) := ⟨rfl, 12, rfl⟩

theorem endsLine : EndsLine { onAir with resetLow := true }
    (State.afterLine { onAir with resetLow := true } 12) := ⟨rfl, rfl, 12, rfl⟩

theorem endsOrder : EndsOrder resetting (resetting.afterOrder 12) := ⟨by decide, by decide, 12, rfl⟩

theorem witness_GainResetValues : (∃ s t, EndsPower s t) ∧ (∃ s t, EndsLine s t) ∧ ∃ s t, EndsOrder s t :=
  ⟨⟨_, _, endsPower⟩, ⟨_, _, endsLine⟩, ⟨_, _, endsOrder⟩⟩

theorem witness_AlarmResetValues :
    (∃ s t, EndsPower s t ∧ s.resetLow = false) ∧ (∃ s t, EndsLine s t) ∧ ∃ s t, EndsOrder s t :=
  ⟨⟨_, _, endsPower, rfl⟩, ⟨_, _, endsLine⟩, ⟨_, _, endsOrder⟩⟩

theorem witness_ProgramResetValues : (∃ s t, EndsPower s t) ∧ (∃ s t, EndsLine s t) ∧ ∃ s t, EndsOrder s t :=
  witness_GainResetValues

theorem ready_rest : ready.atRest := rest_of (by decide +kernel)

theorem witness_GoodSyncsLeadToLock :
    (({ ready with rx := {} } : State).atRest ∧ ({ ready with rx := {} } : State).rx.framing = .hunt) ∧
    (checking.atRest ∧ checking.rx.framing = .check ∧ (1 : Byte) ++ (2 : Byte) = checking.rx.expectedNum) ∧
    (fun s : State => s.running = true ∧ s.rx.framing = .check ∧ 3 ≤ s.rx.goodSyncs)
      { checking with rx := { checking.rx with goodSyncs := 3 } } :=
  ⟨⟨rest_of (by decide +kernel), rfl⟩, ⟨rest_of (by decide +kernel), rfl, by decide⟩, by decide +kernel⟩

theorem witness_LockedSyncTakesOrDiscards :
    (ready.atRest ∧ ready.rx.framing = .locked ∧ ready.rx.misses = 0 ∧
      (0 : Byte) ++ (7 : Byte) = ready.rx.expectedNum) ∧
    (fun s : State => s.atRest ∧ s.rx.framing = .locked ∧ s.rx.misses ≠ 0)
      { ready with rx := { ready.rx with misses := 1 } } :=
  ⟨⟨ready_rest, rfl, rfl, by decide⟩, ⟨rest_of (by decide +kernel), rfl, by decide⟩⟩

theorem witness_LineFaultHunts : ready.atRest ∧ ready.rx.framing = .locked := ⟨ready_rest, rfl⟩

theorem witness_CheckDecidesSlots : audioSlot.length = 84 := by decide +kernel

theorem ready_slotNext : ready.slotNext := slotNext_of (by decide +kernel)

theorem witness_RejectedSlotsAreCounted : ready.slotNext ∧
    (badSlot.length = 84 ∧ slotContent badSlot = .badCheck) ∧
    (kindSlot.length = 84 ∧ slotContent kindSlot = .unknownKind) ∧
    (countSlot.length = 84 ∧ slotContent countSlot = .badCount) :=
  ⟨ready_slotNext, ⟨by decide +kernel, test_rejects.2.2⟩, ⟨by decide +kernel, test_rejects.1⟩,
    ⟨by decide +kernel, test_rejects.2.1⟩⟩

theorem witness_SentParcelsReadBack : 1 ≤ [(5 : Int)].length ∧ (List.replicate 24 (-1 : Int)).length ≤ 24 := by
  decide

/-- A full intake while a PARK is pending: nothing is due, and the next order is dropped. -/
def crowded (n : Nat) : State :=
  { ready with orders :=
    { autoStarted := true, unit := .parkPending, intake := List.replicate n (order 3 [0]) } }

theorem witness_OrdersJoinIntake :
    ((crowded 3).slotNext ∧ (crowded 3).orders.intake.length = 3) ∧
    ((crowded 4).slotNext ∧ (crowded 4).orders.intake.length = 4) ∧
    ready.strapFault = false ∧ orderSlot.length = 84 ∧
    slotContent orderSlot = .order ready.nodeByte (order 1 ([8, 0] ++ List.replicate 65 0)) :=
  ⟨⟨slotNext_of (by decide +kernel), by decide⟩, ⟨slotNext_of (by decide +kernel), by decide⟩, by decide,
    by decide +kernel, test_order_bytes⟩

def backed (n : Nat) : State :=
  { ready with egress := { passthrough := List.replicate n emptySlot } }

theorem witness_OtherParcelsPassThrough :
    ((backed 95).slotNext ∧ (backed 95).egress.passthrough.length = 95) ∧
    ((backed 96).slotNext ∧ (backed 96).egress.passthrough.length = 96) ∧
    passSlot.length = 84 ∧ (backed 96).passes (slotContent (passSlot.map .data)) :=
  ⟨⟨slotNext_of (by decide +kernel), by decide⟩, ⟨slotNext_of (by decide +kernel), by decide⟩,
    by decide +kernel, by rw [test_pass_bytes]; exact ⟨rfl, .inr trivial⟩⟩

/-- Program 0 with a changeover state; its alternate, program 2, is defined and RUNNING. -/
def switching (c : Change) : State :=
  { stocked with
    tables := { tables with programs := (tables.programs.set 0
      { defined := true, members := [0, 1], alternate := some 2 }).set 2 { defined := true, members := [2] } }
    programs := ((Vector.replicate 16 {}).set 0 { change := c }).set 2 { play := { state := .running } } }

theorem witness_ChangesAreHandedOn :
    ((switching { force := .forceAlternate }).wanted 0 = true ∧
      ((switching { force := .forceAlternate }).program 0).change.state = .primary ∧
      (((switching { force := .forceAlternate }).program 0).change.latch.or
        ((switching { force := .forceAlternate }).entry 0).alternate) = some 2 ∧
      (switching { force := .forceAlternate }).healthy 2 = true) ∧
    ((switching { force := .forceAlternate, state := .wanted, latch := some 2 }).wanted 0 = true ∧
      (switching { force := .forceAlternate, state := .wanted, latch := some 2 }).healthy 2 = true) ∧
    (switching { force := .forceAlternate, state := .alternate, latch := some 2 }).wanted 0 = true ∧
    (switching { force := .forceAlternate, state := .reverting, latch := some 2 }).wanted 0 = true ∧
    (switching { state := .alternate, latch := some 2 }).wanted 0 = false ∧
    (switching { state := .reverting, latch := some 2, revert := 5 }).wanted 0 = false ∧
    (switching { state := .wanted, latch := some 2 }).wanted 0 = false := by decide +kernel

/-- The parcel of audioSlot. -/
def audioIn : AudioIn := ⟨10, true, false, 1100, [5, 0xFFFFFE]⟩

theorem onAir_slotNext : onAir.slotNext := slotNext_of (by decide +kernel)

theorem audioNext_of {s : State} (h : (s.running && s.quiet && s.takesSlot && !s.strapFault) = true)
    (ht : s.tables = tables) (hl : (s.lane 0).status ≠ .parked) : s.audioNext audioSlot 0 audioIn := by
  simp only [Bool.and_eq_true, Bool.not_eq_true'] at h
  refine ⟨⟨⟨h.1.1.1, h.1.1.2⟩, h.1.2⟩, lanes_of ht, h.2, by decide +kernel, 5, 1, ?_, test_audio_bytes⟩
  refine ⟨?_, ?_, ?_, hl⟩ <;> (unfold State.laneEntry; rw [ht]; decide +kernel)

/-- A RESYNCING program whose fade is still falling. -/
def fading : State := playing .resyncing { play := { fade := 100 } }

/-- PRIMING without a read position: lane 0 leads, lane 1 follows, neither has a horizon. -/
def priming : State :=
  { stocked with
    lanes := ((Vector.replicate 32 {}).set 0 { status := .armed }).set 1 { status := .lost, idle := 200 }
    programs := (Vector.replicate 16 {}).set 0 { play := { state := .priming } } }

/-- A parcel of 24 samples for lane 1 in order at 1,050. -/
def followerSlot : Slot :=
  made ([5, 1, 2, 200, 24, 0, 0, 0, 0x04, 0x1A] ++ (List.range 72).map (BitVec.ofNat 8))

def followerIn : AudioIn := ⟨200, false, false, 1050, (List.range 24).map fun i =>
  BitVec.ofNat 24 ((3 * i) * 65536 + (3 * i + 1) * 256 + 3 * i + 2)⟩

theorem followerNext_of {s : State} (h : (s.running && s.quiet && s.takesSlot && !s.strapFault) = true)
    (ht : s.tables = tables) (hl : (s.lane 1).status ≠ .parked) : s.audioNext followerSlot 1 followerIn := by
  simp only [Bool.and_eq_true, Bool.not_eq_true'] at h
  refine ⟨⟨⟨h.1.1.1, h.1.1.2⟩, h.1.2⟩, lanes_of ht, h.2, by decide +kernel, 5, 2, ?_, by decide +kernel⟩
  refine ⟨?_, ?_, ?_, hl⟩ <;> (unfold State.laneEntry; rw [ht]; decide +kernel)

theorem fading_started : fading.startedOk :=
  started_of 0 (by decide +kernel) (by decide +kernel) (by decide +kernel)

theorem priming_started : priming.startedOk :=
  started_of 0 (by decide +kernel) (by decide +kernel) (by decide +kernel)

theorem witness_AudioRestartsIdle :
    onAir.audioNext audioSlot 0 audioIn ∧
    (fading.audioNext audioSlot 0 audioIn ∧ fading.memberOf 0 0 ∧ fading.playState 0 = .resyncing) ∧
    (priming.audioNext followerSlot 1 followerIn ∧ priming.memberOf 1 0 ∧ priming.leader 0 ≠ some 1 ∧
      (priming.program 0).conv.pos = none ∧ (priming.lane 1).horizon = none) :=
  ⟨audioNext_of (by decide +kernel) rfl (by decide +kernel),
    ⟨audioNext_of (by decide +kernel) rfl (by decide +kernel),
      ⟨fading_started, by decide +kernel, by decide +kernel⟩, by decide +kernel⟩,
    ⟨followerNext_of (by decide +kernel) rfl (by decide +kernel),
      ⟨priming_started, by decide +kernel, by decide +kernel⟩, by decide +kernel, by decide +kernel,
      by decide +kernel⟩⟩

/-- The retired edge is 985; the parcel's stamps 1,050 to 1,073 lie in the window. -/
theorem witness_FollowerAudioWritesInOrder :
    onAir.audioNext followerSlot 1 followerIn ∧ onAir.memberOf 1 0 ∧ onAir.leader 0 ≠ some 1 ∧
    onAir.playState 0 ≠ .resyncing ∧ (onAir.program 0).conv.pos = some ⟨1000, 0⟩ ∧ onAir.edge 0 = some 985 ∧
    (onAir.lane 1).horizon = some followerIn.stamp ∧ followerIn.discontinuity = false ∧
    ∀ i < followerIn.samples.length, inWindow 985 (onAir.laneEntry 1).ringSize
      (followerIn.stamp + BitVec.ofNat 32 i) = true :=
  ⟨followerNext_of (by decide +kernel) rfl (by decide +kernel), ⟨onAir_started, by decide +kernel, by decide +kernel⟩,
    by decide +kernel⟩

/-- PRIMING and PARKING without a read position, with nothing stored and with cues that the position reaches. -/
def opening (st : PlayState) (entries : List Entry) : State :=
  priming.setProgram 0 { play := { state := st, fade := 9 }, gain := { schedule := entries } }

theorem opening_started (st : PlayState) (h : st = .priming ∨ st = .parking) (entries : List Entry) :
    (opening st entries).startedOk := by
  obtain ⟨a, b, c⟩ := priming_started
  have ha : ∀ q, (opening st entries).active q = priming.active q := fun q => by
    by_cases e : q = 0
    · subst e; rcases h with rfl | rfl <;> rfl
    · have e' : ¬ 0 = (q : Nat) := fun k => e (Fin.ext k.symm)
      simp [opening, State.setProgram, State.active, State.playState, State.program, e']
  exact ⟨a, fun q hq => by rw [ha] at hq; exact b q hq, fun l => (c l).trans (by simp only [ha]; rfl)⟩

theorem witness_LeaderAudioOpensProgram :
    ∀ u : State, u = opening .priming [] ∨ u = opening .priming [.cue 1100 .userMark 3, .cue 1101 .userMark 4] ∨
        u = opening .parking [] →
      u.audioNext audioSlot 0 audioIn ∧ u.memberOf 0 0 ∧ u.leader 0 = some 0 ∧
      (u.playState 0 = .priming ∨ u.playState 0 = .parking) ∧ (u.lane 0).horizon = none ∧
      (u.program 0).conv.pos = none := by
  rintro u (rfl | rfl | rfl) <;>
    exact ⟨audioNext_of (by decide +kernel) rfl (by decide +kernel),
      ⟨opening_started _ (by simp) _, by decide +kernel, by decide +kernel⟩, by decide +kernel⟩

/-- The stored cue that P reaches leaves the schedule; egress lane 0 is not enabled, so it is a forward drop (R118). -/
theorem test_opening :
    (fun t : State => (t.program 0).conv.pos = some ⟨1100, 0⟩ ∧ (t.program 0).gain.schedule = [.cue 1101 .userMark 4] ∧
      (t.program 0).gain.forwardDrops = 1 ∧ (t.lane 0).taint = 2)
      (after (.audioParcel audioSlot) (opening .priming [.cue 1100 .userMark 3, .cue 1101 .userMark 4])) := by
  decide +kernel

/-- A CUE of lane 1, a follower. -/
def followerCue : Slot := made [5, 2, 2, 0, 0, 0, 0, 0, 0x04, 0xB0, 1]

/-- A SEGMENT_END of the leader at 1,200. -/
def segmentCue : Slot := made [5, 2, 1, 0, 0, 0, 0, 0, 0x04, 0xB0, 1]

/-- onAir with 127 entries at 1,200 in the schedule and n cues listed. -/
def busy (n : Nat) : State :=
  onAir.setProgram 0 { onAir.program 0 with
    gain := { schedule := List.replicate 127 (.gain 1200 5) }
    meter := { (onAir.program 0).meter with cues := List.replicate n (1100, .segmentStart) } }

theorem cueNext_of {s : State} {slot : Slot} {l : Fin 32} {t : Stamp} {k : CueType} {m : BitVec 16} {tag : Byte}
    (h : (s.running && s.quiet && s.takesSlot && !s.strapFault) = true) (ht : s.tables = tables)
    (hs : slot.length = 84)
    (hh : (laneOf tag 0).tag = (s.laneEntry l).tag ∧ (s.laneEntry l).defined = true ∧
      (s.laneEntry l).origin = 5 ∧ (s.lane l).status ≠ .parked)
    (hc : slotContent slot = .cue 5 tag t k m) : s.cueNext slot l t k m := by
  simp only [Bool.and_eq_true, Bool.not_eq_true'] at h
  exact ⟨⟨⟨h.1.1.1, h.1.1.2⟩, h.1.2⟩, lanes_of ht, h.2, hs, 5, tag, ⟨hh.2.1, hh.2.2.1, hh.1.symm, hh.2.2.2⟩, hc⟩

theorem busy_started (n : Nat) (h : n = 15 ∨ n = 16) : (busy n).startedOk := by
  rcases h with rfl | rfl <;>
    exact started_of 0 (by decide +kernel) (by decide +kernel) (by decide +kernel)

theorem witness_CuesAreEntered :
    (onAir.cueNext followerCue 1 1200 .segmentEnd 0 ∧ onAir.memberOf 1 0 ∧ onAir.leader 0 ≠ some 1) ∧
    (fading.cueNext segmentCue 0 1200 .segmentEnd 0 ∧ fading.memberOf 0 0 ∧ fading.playState 0 = .resyncing) ∧
    (∀ n, n = 15 ∨ n = 16 → (busy n).cueNext segmentCue 0 1200 .segmentEnd 0 ∧ (busy n).memberOf 0 0 ∧
      (busy n).leader 0 = some 0 ∧ (busy n).playState 0 ≠ .resyncing ∧
      ((busy n).program 0).gain.schedule.length = 127 ∧ ahead (1200 : Stamp) 1000 = true ∧
      ((busy n).program 0).conv.pos = some ⟨1000, 0⟩ ∧ ((busy n).program 0).meter.pos ≠ none ∧
      ((busy n).program 0).meter.cues.length = n) ∧
    (priming.cueNext segmentCue 0 1200 .segmentEnd 0 ∧ priming.leader 0 = some 0 ∧
      (priming.program 0).conv.pos = none ∧ (priming.program 0).meter.pos = none) := by
  refine ⟨⟨cueNext_of (tag := 2) (by decide +kernel) rfl (by decide +kernel) (by decide +kernel)
      (by decide +kernel), ⟨onAir_started, by decide +kernel, by decide +kernel⟩, by decide +kernel⟩,
    ⟨cueNext_of (tag := 1) (by decide +kernel) rfl (by decide +kernel) (by decide +kernel)
      (by decide +kernel), ⟨fading_started, by decide +kernel, by decide +kernel⟩, by decide +kernel⟩, ?_,
    ⟨cueNext_of (tag := 1) (by decide +kernel) rfl (by decide +kernel) (by decide +kernel)
      (by decide +kernel), by decide +kernel⟩⟩
  rintro n hn
  have hs := busy_started n hn
  rcases hn with rfl | rfl <;>
    exact ⟨cueNext_of (tag := 1) (by decide +kernel) rfl (by decide +kernel) (by decide +kernel)
      (by decide +kernel), ⟨hs, by decide +kernel, by decide +kernel⟩, by decide +kernel⟩

theorem witness_PictureReportsAreFollowed : onAir.slotNext ∧ onAir.strapFault = false ∧
    pictureSlot.length = 84 ∧ slotContent pictureSlot = .picture 9 4 40000 true ∧ onAir.sourceHeard 9 4 :=
  ⟨onAir_slotNext, by decide +kernel, by decide +kernel, test_picture_bytes, 0, by decide +kernel⟩

def internal : State := { ready with tables := { settings := { select := .internal } } }
def lockedRef : State := { ready with house := { ready.house with reference := .locked } }

theorem witness_ReferenceCyclesAreCounted :
    (internal.atRest ∧ internal.tables.settings.select = .internal) ∧
    (lockedRef.atRest ∧ lockedRef.tables.settings.select = .external ∧ lockedRef.house.reference = .locked) ∧
    (fun s : State => s.atRest ∧ s.tables.settings.select = .external ∧ s.house.reference ≠ .locked ∧
      s.house.goodCycles = 47) { ready with house := { ready.house with goodCycles := 47 } } ∧
    (fun s : State => s.running = true ∧ s.tables.settings.select = .external ∧ s.house.reference ≠ .locked ∧
      48 ≤ s.house.goodCycles) { ready with house := { ready.house with goodCycles := 48 } } :=
  ⟨⟨rest_of (by decide +kernel), rfl⟩, ⟨rest_of (by decide +kernel), rfl, rfl⟩,
    ⟨rest_of (by decide +kernel), rfl, by decide, rfl⟩, by decide +kernel⟩

/-- onAir one sample before a tick and a frame start, with an egress lane one step from the alternate's end. -/
def sampling (st : PlayState) (c : ChangeoverState) (x : Nat) : State :=
  let s := playing st { play := { fade := 479, target := .opened, elapsed := true, warmUpLeft := 2 } }
  let s := { s with
    house := { s.house with toTick := 1, toFrame := 1 }
    egress := { map := (Vector.replicate 32 ({} : MapEntry)).set 5 { enabled := true, slot := 9 }
                lanes := (Vector.replicate 32 ({} : EgressLane)).set 5 { x := x } } }
  s.setProgram 0 { s.program 0 with change := { state := c } }

theorem witness_HouseSampleAdvances :
    (∀ st ∈ [PlayState.holdover, .resyncing, .parking, .warming, .running],
      ((sampling st .alternate 959).running && (sampling st .alternate 959).quiet &&
        (sampling st .alternate 959).clockQuiet) = true) ∧
    ((sampling .running .primary 1).running && (sampling .running .primary 1).quiet &&
        (sampling .running .primary 1).clockQuiet) = true ∧
    (sampling .running .alternate 959).leaderHorizon 0 = some 1100 ∧
    ((sampling .running .alternate 959).program 0).conv.pos = some ⟨1000, 0⟩ ∧
    behind ((1083 : Stamp) + 16) 1100 = true ∧ behind ((1084 : Stamp) + 16) 1100 = false ∧
    ((jumping .hold 200).running && (jumping .hold 200).quiet && (jumping .hold 200).clockQuiet) = true ∧
    ((sampling .running .alternate 959).mapEntry 5).enabled = true ∧
    (sampling .running .alternate 959).house.warmedUp = true ∧
    (sampling .running .alternate 959).strapFault = false := by decide +kernel

theorem apart_of {s : State} (ht : s.tables = tables) (h : ∀ l, 2 ≤ l.val → (s.lane l).status = .parked) :
    s.ringsApart := by
  have hr : ∀ l k : Fin 32, l.val < 2 → k.val < 2 → l ≠ k →
      (tables.lanes[l]).startPage + (tables.lanes[l]).sizePages ≤ (tables.lanes[k]).startPage ∨
      (tables.lanes[k]).startPage + (tables.lanes[k]).sizePages ≤ (tables.lanes[l]).startPage := by decide +kernel
  intro l k e hl hk
  unfold State.laneEntry
  rw [ht]
  exact hr l k (Nat.lt_of_not_le fun g => hl (h l g)) (Nat.lt_of_not_le fun g => hk (h k g)) e

/-- A program at 1,000 with a cue and a gain that its next position reaches, a cue ahead of it, a ramp under way, and at
the edge, 985, a SUSPECT word, with a GOOD one after it; egress lane 5 crosses to the alternate. -/
def moving (st : PlayState) (c : Change) (n : Nat) : State :=
  let s := sampling st c.state 959
  { s.setProgram 0 { s.program 0 with
      change := c
      gain := { schedule := [.cue 1001 .userMark 7, .gain 1001 100, .cue 1002 .segmentEnd 0]
                rampEnd := 1053376, rampStep := 0 } } with
    mem := [(985, ⟨3, true⟩), (986, ⟨4, false⟩), (1000, ⟨960, false⟩), (9192, ⟨1, false⟩)]
    lanes := s.lanes.set 0 { s.lane 0 with taint := 1 }
    egress := { s.egress with outbox := List.replicate n ⟨0, 0, .userMark, 0, 0⟩ } }

theorem witness_HouseSampleAdvances_moves :
    ∀ u : State, u = moving .holdover { state := .alternate } 7 ∨ u = moving .running { state := .alternate } 8 ∨
        u = moving .warming { state := .primary, latch := some 2 } 0 →
      (u.running && u.quiet && u.clockQuiet) = true ∧ u.lanesOk ∧ u.startedOk ∧ u.ringsApart ∧
      (u.program 0).sounds = true ∧ u.edge 0 = some 985 ∧ u.nextPos 0 = some ⟨1001, 0⟩ ∧
      (u.dueCues 0 1001).length = 1 ∧ u.wanted 0 = false ∧ (u.mapEntry 5).enabled = true := by
  rintro u (rfl | rfl | rfl) <;>
    exact ⟨by decide +kernel, lanes_of rfl, started_of 0 (by decide +kernel) (by decide +kernel) (by decide +kernel),
      apart_of rfl (by decide +kernel), by decide +kernel⟩

/-- The word at 985 is retired with its taint, the cue leaves under the tag 0 stamped 3,001, the gain's ramp begins where
one step of ten has left it, and the sample, EMPTY around 1,000 and so SUSPECT, is wholly the alternate's 0 at 960
(R33, R117 to R119, R153). -/
theorem test_houseSample_moves :
    (fun t : State => t.mem.find 985 = none ∧ t.mem.find 986 = some ⟨4, false⟩ ∧ (t.lane 0).taint = 0 ∧
      t.egress.outbox.getLast? = some ⟨0, 3001, .userMark, 7, 0⟩ ∧ (t.program 0).gain.applied = 100 ∧
      (t.program 0).gain.rampStart = 1048586 ∧ (t.program 0).gain.schedule = [.cue 1002 .segmentEnd 0] ∧
      (t.egressLane 5).samples = [(0, false)] ∧ (t.program 0).conv.starved = 1)
      (after .houseSample (moving .holdover { state := .alternate } 7)) := by decide +kernel

/-- With 8 parcels waiting the cue is a forward drop (R118); WARMING's remaining falls by one (R43). -/
theorem test_houseSample_drops :
    ((after .houseSample (moving .running { state := .alternate } 8)).program 0).gain.forwardDrops = 1 ∧
    ((after .houseSample (moving .warming { state := .primary, latch := some 2 } 0)).program 0).play.warmUpLeft = 1 := by
  decide +kernel

/-- A lane at 1 comes home to 0 and lets the latch clear (R157); the primary at 0 is the house-locked word (R66, R153). -/
def homing : State :=
  let s := sampling .running .primary 1
  let locked : ProgramEntry := { defined := true, members := [0, 1], houseLocked := true }
  { s.setProgram 0 { s.program 0 with change := { latch := some 2 } } with
    mem := [(1000, ⟨960, false⟩)], tables := { tables with programs := (Vector.replicate 16 {}).set 0 locked } }

theorem test_houseSample_home :
    ((after .houseSample homing).program 0).change.latch = none ∧
    ((after .houseSample homing).egressLane 5).samples = [(960, false)] := by decide +kernel

theorem witness_UnityIsExact :
    (fun s : State => (s.entry 0).houseLocked = true) { stocked with tables := { tables with
      programs := (Vector.replicate 16 {}).set 0 { defined := true, members := [0], houseLocked := true } } } ∧
    stocked.tables.banks[(stocked.entry 3).bank] = Vector.replicate 65 identityPhase := by decide +kernel

def ticking : State := { onAir with house := { onAir.house with toTick := 0 } }

theorem witness_AlarmTickCounts : ticking.atRest ∧ ticking.house.toTick = 0 ∧
    (ticking.active 0 = true ∧ (ticking.entry 0).delayMode = .follow) ∧
    (reverting.program 0).change.state = .reverting ∧ (reverting.entry 0).revertMode = .auto :=
  ⟨rest_of (by decide +kernel), by decide +kernel⟩

def framing : State :=
  { onAir with
    house := { onAir.house with toFrame := 0 }
    tables := { tables with map := (Vector.replicate 32 ({} : MapEntry)).set 5 { enabled := true, slot := 127, tag := 3 } }
    egress := { map := (Vector.replicate 32 ({} : MapEntry)).set 5 { enabled := true, slot := 127, tag := 3 }
                passthrough := [passSlot] } }

theorem witness_FramesAreSent :
    (fun s : State => s.atRest ∧ s.house.warmedUp = false ∧ s.house.warmUpLeft = 0)
      { ready with house := { ready.house with warmedUp := false, toFrame := 12 }, orders := {} } ∧
    (framing.atRest ∧ framing.house.warmedUp = true ∧ framing.house.toFrame = 0 ∧ framing.slotsOk ∧
      framing.parcelsOk ∧ framing.noticesOk ∧ framing.strapFault = false ∧ (framing.mapEntry 5).enabled = true) :=
  ⟨⟨rest_of (by decide +kernel), rfl, rfl⟩, ⟨rest_of (by decide +kernel), by decide +kernel, by decide +kernel,
    by unfold State.slotsOk; decide +kernel,
    fun b hb => by
      have : b = passSlot := by simpa [framing] using hb
      rw [this]; decide +kernel, by unfold State.noticesOk; decide +kernel, by decide +kernel,
    by decide +kernel⟩⟩

/-- After a reset by the line with a management node, before auto-start. -/
def unstarted (auto : Bool) (cause : ResetCause) (node : BitVec 6) : State :=
  { stocked with
    node := node
    tables := { tables with
      programs := (Vector.replicate 16 {}).set 0 { defined := true, members := [0, 1], autoStart := auto }
      settings := { node := 40 } }
    orders := { cause := cause } }

/-- Three auto-start programs, the last on a lane whose region the first takes, and so many notices waiting. -/
def unstartedAll (cause : ResetCause) (n : Nat) : State :=
  let s := unstarted true cause 12
  { s with
    tables := { s.tables with
      lanes := s.tables.lanes.set 2 (laneOf 3 4)
      programs := ((s.tables.programs.set 0 { defined := true, members := [0], autoStart := true }).set 1
        { defined := true, members := [1], autoStart := true }).set 2
        { defined := true, members := [2], autoStart := true } }
    alarm := {
      notices := List.replicate (n - 1) (.started .line [] 0) ++ [.rule 9 .raised false (some .raised) 5 2]
      records := (Vector.replicate 64 {}).set 9 { state := .raised, changes := 2, queued := true } } }

theorem witness_ResetsEndInOrder :
    (∀ c : State, c = unstarted false .power 0 ∨ c = unstarted false .power 12 ∨ c = unstarted false .line 12 ∨
        c = unstarted true .power 12 ∨ c = unstarted true .line 12 ∨ c = unstartedAll .line 15 ∨
        c = unstartedAll .line 16 ∨ c = unstartedAll .power 16 →
      c.running = true ∧ c.house.warmedUp = true ∧ c.orders.autoStarted = false) ∧
    (unstarted false .power 0).strapFault = true ∧ (unstarted false .line 12).strapFault = false ∧
    (unstarted true .line 12).startRefusal 0 = none ∧
    ((unstartedAll .line 15).alarm.notices.length = 15 ∧ (unstartedAll .line 16).alarm.notices.length = 16 ∧
      (unstartedAll .line 16).orders.cause ≠ .power ∧ (unstartedAll .line 16).tables.settings.node ≠ 0 ∧
      (unstartedAll .line 16).startRefusal 2 = none ∧
      ((unstartedAll .line 16).startProgram 0).startRefusal 2 ≠ none) ∧
    (fun s : State => s.running = true ∧ s.orders.unit = .resetPending ∧ s.orders.resetDone = true ∧
      s.orders.autoStarted = true ∧ s.strapFault = false ∧ s.orders.owing = some ⟨30, 5, 9⟩)
      { resetting with orders := { resetting.orders with resetDone := true } } ∧
    (fun s : State => s.running = true ∧ s.orders.unit = .resetPending ∧ s.orders.resetDone = true ∧
      s.orders.autoStarted = true ∧ s.strapFault = true)
      { resetting with node := 0, orders := { resetting.orders with resetDone := true } } := by
  refine ⟨?_, by decide +kernel⟩
  rintro c (rfl | rfl | rfl | rfl | rfl | rfl | rfl | rfl) <;> decide +kernel

/-- Programs 0 and 1 start, program 2 fails against the first's region; the 16th notice leaves, its rule owed (R52, R146,
R177). -/
theorem test_autoStart_all :
    (fun t : State => t.playState 1 = .priming ∧ t.playState 2 = .parked ∧ t.alarm.notices.length = 16 ∧
      t.alarm.notices.head? = some (.started .line [0, 1] 1) ∧
      t.record 9 = { state := .raised, changes := 2, owed := true })
      (after .autoStart (unstartedAll .line 16)) := by decide +kernel

/-- Lane 0 idle for its lost time, leading program 0 in a play state. -/
def losing (st : PlayState) : State := quietFor 100 (playing st { play := { fade := 10 } })

theorem losing_started (st : PlayState) (h : st ≠ .parked) : (losing st).startedOk := by
  cases st <;> first
    | exact absurd rfl h
    | exact started_of 0 (by decide +kernel) (by decide +kernel) (by decide +kernel)

theorem witness_TimeoutsTakeEffect :
    (fun s : State => s.running = true ∧ (s.program 0).servo.pictureDue = true)
      (playing .running { servo := { pictureDue := true } }) ∧
    (reverting.running = true ∧ (reverting.program 0).change.revertDue = true) ∧
    ((quietFor 2 onAir).running = true ∧ ((quietFor 2 onAir).lane 0).status = .receiving ∧
      ((quietFor 2 onAir).lane 0).idle = 2) ∧
    (∀ st, st ≠ .parked → (losing st).memberOf 0 0 ∧ (losing st).leader 0 = some 0 ∧
      ((losing st).laneEntry 0).lostTime = ((losing st).lane 0).idle ∧
      ((losing st).program 0).play.state = st ∧ ((losing st).program 0).conv.pos ≠ none) := by
  refine ⟨by decide +kernel, by decide +kernel, by decide +kernel, fun st h =>
    ⟨⟨losing_started st h, ?_, ?_⟩, ?_⟩⟩ <;> cases st <;> decide +kernel

/-- As filled, with a LOST leader. -/
def filledLost : State := filled.setLane 0 { filled.lane 0 with status := .lost }

theorem witness_FillAndWarmUpComplete :
    (∀ s : State, s = filled ∨ s = filledLost → s.running = true ∧ (s.program 0).play.state = .priming ∧
      (s.program 0).conv.pos = some ⟨1000, 0⟩ ∧ s.leaderHorizon 0 = some 1100 ∧
      (((s.program 0).servo.fill : Int)) * 16777216 = stampDiff 1100 1000 * 16777216) ∧
    filled.leaderLost 0 = false ∧ filledLost.leaderLost 0 = true ∧
    (playing .warming {}).running = true ∧ ((playing .warming {}).program 0).play.warmUpLeft = 0 := by
  refine ⟨?_, by decide +kernel⟩
  rintro s (rfl | rfl) <;> decide +kernel

theorem witness_ResyncFlushes : (playing .resyncing {}).running = true ∧
    (playing .resyncing {}).playState 0 = .resyncing ∧ ((playing .resyncing {}).program 0).play.fade = 0 := by
  decide +kernel

theorem witness_ParkingEnds : parking.running = true ∧ parking.playState 0 = .parking ∧
    (parking.program 0).play.fade = 0 ∧ parking.orders.unit = .parkPending ∧
    parking.orders.owing = some ⟨30, 6, 4⟩ := by decide +kernel

theorem witness_JumpsMoveOrHold :
    (∀ s : State, s = jumping .fadeOut 101 ∨ s = jumping .fadeOut 100 ∨ s = jumping .hold 100 →
      s.running = true ∧ s.playState 0 = .running ∧ (s.program 0).conv.pos = some ⟨1000, 0⟩ ∧
      s.leaderHorizon 0 = some 1100 ∧ (s.program 0).play.fade = 0) ∧
    stampDiff 1100 1000 = 100 := by
  refine ⟨?_, by decide +kernel⟩
  rintro s (rfl | rfl | rfl) <;> decide +kernel

/-- As given, P to be set from 1,000 to 1,040 past a gain of 100 and a cue of mark 7, words of both members behind and at
the new retired edge 1,025, and so many parcels in the outbox. -/
def goingTo1040 (s : State) (n : Nat) : State :=
  let x := s.program 0
  { s.setProgram 0 { x with
      servo := { x.servo with fill := 60 }
      gain := { schedule := [.gain 1020 100, .cue 1040 .userMark 7, .cue 1041 .userMark 8] } } with
    mem := [(985, ⟨3, true⟩), (1024, ⟨4, false⟩), (1025, ⟨5, true⟩), (9192, ⟨1, false⟩), (9217, ⟨2, false⟩)]
    lanes := s.lanes.set 0 { s.lane 0 with taint := 2 }
    egress := { map := (Vector.replicate 32 ({} : MapEntry)).set 5 { enabled := true, slot := 9 }
                outbox := List.replicate n ⟨0, 0, .userMark, 0, 0⟩ } }

theorem witness_MovesTo :
    ∀ u : State, u = goingTo1040 (jumping .fadeOut 60) 7 ∨ u = goingTo1040 (jumping .hold 60) 8 ∨
        u = goingTo1040 filled 7 ∨ u = goingTo1040 filledLost 8 →
      u.running = true ∧ u.lanesOk ∧ u.startedOk ∧ u.ringsApart ∧ (u.program 0).conv.pos = some ⟨1000, 0⟩ ∧
      u.leaderHorizon 0 = some 1100 ∧ (u.program 0).servo.fill = 60 ∧ (u.program 0).play.fade = 0 ∧
      u.edge 0 = some 985 ∧ u.edgeAt 0 ⟨1040, 0⟩ = 1025 ∧ (u.dueCues 0 1040).length = 1 ∧ u.feeds 0 5 = true := by
  rintro u (rfl | rfl | rfl | rfl) <;>
    exact ⟨by decide +kernel, lanes_of rfl, started_of 0 (by decide +kernel) (by decide +kernel) (by decide +kernel),
      apart_of rfl (by decide +kernel), by decide +kernel⟩

/-- Words up to the new edge are EMPTY, one of them SUSPECT, the cue leaves under the tag 0 stamped 3,000, the gain begins
its ramp, and the lane fed owes a discontinuity (R33, R83, R117, R118, R160). -/
theorem test_jumpMoves :
    (fun t : State => t.mem = [(1025, ⟨5, true⟩), (9217, ⟨2, false⟩)] ∧ (t.lane 0).taint = 1 ∧
      t.egress.outbox.getLast? = some ⟨0, 3000, .userMark, 7, 0⟩ ∧ (t.program 0).gain.applied = 100 ∧
      (t.program 0).gain.rampStep = 0 ∧ (t.program 0).gain.schedule = [.cue 1041 .userMark 8] ∧
      (t.egressLane 5).owed = true)
      (after (.jumpFadeOutEnd 0) (goingTo1040 (jumping .fadeOut 60) 7)) := by decide +kernel

/-- As goingTo1040 at the end of a fade, with a cue of program 1 placed at the same house sample, behind n parcels. -/
def sameSample (n : Nat) : State :=
  let s := goingTo1040 (jumping .fadeOut 60) n
  { s with egress := { s.egress with
      outbox := s.egress.outbox ++ [⟨5, 3000, .userMark, 9, 1⟩], sampleFrom := some n } }

theorem witness_JumpsMoveOrHold_sameSample :
    ∀ n ∈ [0, 7], (sameSample n).running = true ∧ ((sameSample n).program 0).servo.phase = some .fadeOut ∧
      (((sameSample n).egress.outbox.drop n).filter fun c => decide (0 < c.program)).length = 1 := by decide +kernel

/-- The cue that the jump of program 0 passes stands ahead of program 1's of the same house sample, which with 7 parcels
before them is the one a full outbox loses (R118). -/
theorem test_jump_programOrder :
    (after (.jumpFadeOutEnd 0) (sameSample 1)).egress.outbox =
      [⟨0, 0, .userMark, 0, 0⟩, ⟨0, 3000, .userMark, 7, 0⟩, ⟨5, 3000, .userMark, 9, 1⟩] ∧
    (after (.jumpFadeOutEnd 0) (sameSample 7)).egress.outbox.getLast? = some ⟨0, 3000, .userMark, 7, 0⟩ ∧
    ((after (.jumpFadeOutEnd 0) (sameSample 7)).program 1).gain.forwardDrops = 1 ∧
    ((after (.jumpFadeOutEnd 0) (sameSample 7)).program 0).gain.forwardDrops = 0 := by decide +kernel

/-- With 8 parcels waiting the cue passed on entering WARMING is a forward drop (R118). -/
theorem test_fillReached_drops :
    ((after (.fillReached 0) (goingTo1040 filledLost 8)).program 0).gain.forwardDrops = 1 ∧
    (after (.fillReached 0) (goingTo1040 filledLost 8)).mem.find 1024 = none := by decide +kernel

theorem witness_RecordsMove :
    (∀ x ∈ [({ state := .qualifying, qual := 1, due := some .raise } : Record),
        { state := .ackWait, due := some .raise }, { state := .releasing, due := some .raise },
        { state := .qualifying, due := some .windowEnd }, { state := .releasing, due := some .release },
        { state := .releasing, acked := true, due := some .release }],
      (ruled x).running = true ∧ (ruled x).record 3 = x) ∧
    ∀ k, k < 3 → ((ruled { state := .releasing, due := some .release }).record k).due = none := by
  decide +kernel

theorem witness_PersistRaisesAtNth :
    (fun rl : Rule => rl.qualify = .persist ∧ 1 ≤ rl.n) {} ∧
    (fun rl : Rule => rl.qualify = .persist ∧ 1 ≤ rl.n) { n := 60000 } ∧
    ({} : Record).state = .clear ∧ ({ state := .raised, stretch := 7 } : Record).stretch = 7 := by decide

/-! ### Orders: the order that the unit takes now, its row, and its index at the ends of the range -/

/-- The unit takes this order now, and it is of this row. -/
def serves (s : State) (o : Order) (row : Instr) : Bool :=
  (asked s o).calm && (asked s o).nextOrder == some o && o.row == row

theorem takesNow_of_serves {s : State} {o : Order} {row : Instr} (h : serves s o row = true) :
    (asked s o).takesNow o ∧ o.row = row := by
  simpa [serves, State.takesNow, and_assoc] using h

theorem witness_ReadsReturnEntries :
    serves stocked (order 1 [0, 31]) .readLane = true ∧ serves stocked (order 1 [0, 32]) .readLane = true ∧
    serves stocked (order 1 [1, 15]) .readProgram = true ∧ serves stocked (order 1 [1, 16]) .readProgram = true ∧
    serves stocked (order 1 [3, 4]) .readWeighting = true ∧ serves stocked (order 1 [3, 5]) .readWeighting = true ∧
    serves stocked (order 1 [5, 0]) .readBandSet = true ∧ serves stocked (order 1 [5, 4]) .readBandSet = true ∧
    serves stocked (order 1 [6, 63]) .readRule = true ∧ serves stocked (order 1 [6, 64]) .readRule = true ∧
    serves stocked (order 1 [7, 31]) .readEgressMap = true ∧ serves stocked (order 1 [7, 32]) .readEgressMap = true ∧
    serves stocked (order 1 [8, 0]) .readSettings = true ∧ serves stocked (order 1 [8, 1]) .readSettings = true := by
  decide +kernel

theorem witness_StatusReturnsViews :
    serves onAir (order 2 [0, 0, 0, 0]) .statusPart = true ∧ serves onAir (order 2 [0, 0, 0, 1]) .statusPart = true ∧
    serves onAir (order 2 [1, 31]) .statusLane = true ∧ serves onAir (order 2 [1, 32]) .statusLane = true ∧
    serves onAir (order 2 [3, 63]) .statusRule = true ∧ serves onAir (order 2 [3, 64]) .statusRule = true ∧
    serves onAir (order 2 [2, 15, 0]) .statusProgramPlay = true ∧
    serves onAir (order 2 [2, 16, 0]) .statusProgramPlay = true ∧
    serves onAir (order 2 [2, 15, 1]) .statusProgramServo = true ∧
    serves onAir (order 2 [2, 16, 1]) .statusProgramServo = true ∧
    serves onAir (order 2 [2, 15, 2]) .statusProgramMeter = true ∧
    serves onAir (order 2 [2, 16, 2]) .statusProgramMeter = true ∧
    serves onAir (order 2 [2, 15, 3]) .statusProgramGain = true ∧
    serves onAir (order 2 [2, 16, 3]) .statusProgramGain = true ∧
    serves onAir (order 2 [2, 15, 4, 0, 31]) .statusProgramChangeover = true ∧
    serves onAir (order 2 [2, 16, 4, 0, 32]) .statusProgramChangeover = true ∧
    serves onAir (order 2 [2, 15, 5, 1]) .statusProgramCounters = true ∧
    serves onAir (order 2 [2, 16, 5]) .statusProgramCounters = true := by decide +kernel

/-- The Gain Law of a program after reset is idle: its short-term value is below the hold gate. -/
theorem witness_ProfilesAndTapsAnswer :
    (stocked.program 0).meter.shortTerm < stocked.tables.profiles[(stocked.entry 0).profile].holdGate ∧
    serves onAir (order 0 [2, 7]) .writeProfile = true ∧ serves onAir (order 0 [2, 8]) .writeProfile = true ∧
    serves stocked (order 1 [2, 7]) .readProfile = true ∧ serves stocked (order 1 [2, 8]) .readProfile = true ∧
    serves stocked (order 1 [4, 3, 64, 31, 1]) .readCoefficients = true ∧
    serves stocked (order 1 [4, 3, 64, 31, 2]) .readCoefficients = true ∧
    serves stocked (order 1 [4, 4, 0, 0, 1]) .readCoefficients = true := by
  decide +kernel

theorem witness_SharedTablesAreWritten :
    (serves onAir (order 0 [3, 2]) .writeWeighting = true ∧ onAir.classInUse .c48 = true) ∧
    (serves onAir (order 0 [3, 4]) .writeWeighting = true ∧ onAir.classInUse .c96 = false) ∧
    serves onAir (order 0 [3, 5]) .writeWeighting = true ∧
    (serves onAir (order 0 [4, 0, 0, 0, 1]) .writeCoefficients = true ∧ onAir.bankInUse 0 = true) ∧
    (serves onAir (order 0 [4, 3, 64, 16, 16]) .writeCoefficients = true ∧ onAir.bankInUse 3 = false) ∧
    serves onAir (order 0 [4, 3, 64, 16, 17]) .writeCoefficients = true ∧
    serves onAir (order 0 [4, 3, 65, 0, 1]) .writeCoefficients = true ∧
    serves onAir (order 0 [5, 3]) .writeBandSet = true ∧ serves onAir (order 0 [5, 2]) .writeBandSet = true := by
  decide +kernel

/-- framing with an order at the head of its intake: map entry 5 is enabled at slot 127. -/
theorem witness_MapAndSettingsAreWritten :
    serves framing (order 0 [7, 31, 1, 0, 128, 0, 0]) .writeEgressMap = true ∧
    (serves framing (order 0 [7, 31, 1, 0, 127, 0, 0]) .writeEgressMap = true ∧
      framing.tables.map[5].enabled = true ∧ framing.tables.map[5].slot.val = 127) ∧
    serves framing (order 0 [7, 31, 1, 0, 126, 15, 7]) .writeEgressMap = true ∧
    serves framing (order 0 [7, 32]) .writeEgressMap = true ∧
    serves framing (order 0 [8, 1, 0, 0]) .writeSettings = true ∧
    serves framing (order 0 [8, 0, 64, 0]) .writeSettings = true ∧
    serves framing (order 0 [8, 0, 0, 2]) .writeSettings = true ∧
    serves framing (order 0 [8, 0, 63, 1]) .writeSettings = true ∧
    (serves starting (order 0 [8, 0, 0, 0]) .writeSettings = false ∧
      serves { starting with orders := { autoStarted := true } } (order 0 [8, 0, 0, 0]) .writeSettings = true ∧
      starting.tables.settings.node ≠ 0) := by decide +kernel

theorem witness_LaneEntriesAreWritten :
    serves stocked (order 0 [0, 32]) .writeLane = true ∧
    (serves onAir (order 0 [0, 0]) .writeLane = true ∧ (onAir.lane 0).status ≠ .parked) ∧
    (serves stocked (order 0 [0, 31, 1, 64]) .writeLane = true ∧ (stocked.lane 31).status = .parked) ∧
    serves stocked (order 0 [0, 31, 1, 5, 2, 4, 0x0C, 0, 4, 0, 1, 7, 0xD0]) .writeLane = true ∧
    (serves stocked (order 0 [0, 31, 1, 63, 255, 4, 0x0C, 0, 4, 0, 1, 7, 0xD0]) .writeLane = true ∧
      (fun w : LaneWrite => w.rateClass = RateClass.c96.code ∧ w.conceal = ConcealMode.zero.code ∧
        w.startPage + w.sizePages = 4096 ∧ w.lostTime = 2000 ∧ w.origin = 63)
        (laneWrite (order 0 [0, 31, 1, 63, 255, 4, 0x0C, 0, 4, 0, 1, 7, 0xD0]).args)) := by decide +kernel

theorem witness_ProgramEntriesAreWritten :
    serves stocked (order 0 [1, 16]) .writeProgram = true ∧
    (serves onAir (order 0 ([1, 0] ++ ({ stocked.entry 0 with members := [0] } : ProgramEntry).bytes))
      .writeProgram = true ∧ onAir.active 0 = true) ∧
    (serves stocked (order 0 [1, 0, 1, 0]) .writeProgram = true ∧ stocked.active 0 = false) ∧
    serves stocked (order 0 ([1, 15] ++ (stocked.entry 0).bytes)) .writeProgram = true ∧
    serves onAir (order 0 ([1, 0] ++ (onAir.entry 0).bytes)) .writeProgram = true ∧
    (onAir.entry 0).delayMode = .follow ∧
    serves onAir (order 0 ([1, 0] ++ ({ onAir.entry 0 with delayMode := .manual, manualDelay := 12 } :
      ProgramEntry).bytes)) .writeProgram = true := by decide +kernel

theorem witness_RulesAreWritten :
    serves stocked (order 0 [6, 64]) .writeRule = true ∧
    serves stocked (order 0 [6, 63, 1, 12]) .writeRule = true ∧
    (serves (ruled { state := .raised }) (order 0 [6, 3, 1, 11, 16]) .writeRule = true ∧
      (fun w : RuleWrite => w.kind = 11 ∧ w.scope = 16 ∧ w.actions = {})
        (ruleWrite (order 0 [6, 3, 1, 11, 16]).args)) := by decide +kernel

/-- Lane 2, not PARKED, on the pages of lane 1. -/
def overlapping : State :=
  { stocked with
    tables := { tables with lanes := tables.lanes.set 2 (laneOf 3 15) }
    lanes := (Vector.replicate 32 {}).set 2 { status := .armed } }

theorem witness_StartsBegin :
    serves stocked (order 3 [16]) .start = true ∧ serves onAir (order 3 [0]) .start = true ∧
    serves stocked (order 3 [15]) .start = true ∧ (stocked.entry 15).defined = false ∧
    (serves overlapping (order 3 [0]) .start = true ∧ overlapping.startRefusal 0 = some .refusedConflict) ∧
    (serves stocked (order 3 [0]) .start = true ∧ stocked.startRefusal 0 = none) := by decide +kernel

theorem witness_ParksAndResetsAreOwed :
    serves onAir (order 4 [16]) .park = true ∧ serves onAir (order 4 [15]) .park = true ∧
    (onAir.program 15).play.state = .parked ∧ serves onAir (order 4 [0]) .park = true ∧
    serves onAir (order 9 []) .reset = true ∧ serves onAir (order 10 []) .unknownOrder = true ∧
    serves onAir (order 1 [9]) .unknownOrder = true ∧ serves onAir (order 2 [4]) .unknownOrder = true ∧
    serves onAir (order 2 [2, 0, 6]) .unknownOrder = true := by decide +kernel

theorem witness_DelaysAreSet :
    serves onAir (order 5 [16]) .delay = true ∧ serves onAir (order 5 [15]) .delay = true ∧
    serves onAir (order 5 [0, 2]) .delay = true ∧
    (serves onAir (order 5 [0, 0, 7, 0x53, 0x00]) .delay = true ∧ onAir.active 0 = true) ∧
    (serves stocked (order 5 [0, 0, 7, 0x53, 0x01]) .delay = true ∧ stocked.active 0 = false) ∧
    (serves onAir (order 5 [0, 1]) .delay = true ∧ (onAir.entry 0).delayMode = .follow) ∧
    (fun s : State => serves s (order 5 [0, 1]) .delay = true ∧ s.active 0 = true ∧
      (s.entry 0).delayMode = .manual) { onAir with tables := { tables with
        programs := (Vector.replicate 16 {}).set 0 { defined := true, members := [0, 1] } } } := by decide +kernel

theorem witness_ChangeoversAreForced :
    serves onAir (order 6 [16]) .changeover = true ∧ serves onAir (order 6 [15, 3]) .changeover = true ∧
    (∀ c ∈ [({} : Change), { state := .wanted }, { state := .alternate, latch := some 2 },
        { state := .reverting, latch := some 2 }],
      serves (switching c) (order 6 [0, 0]) .changeover = true ∧
      serves (switching c) (order 6 [0, 1]) .changeover = true ∧
      serves (switching c) (order 6 [0, 2]) .changeover = true) ∧
    (switching {}).healthy 2 = true ∧ ((switching {}).entry 0).alternate = some 2 ∧
    ((switching {}).entry 1).alternate = none := by decide +kernel

theorem witness_AcknowledgesReachRecords :
    serves stocked (order 7 [64]) .acknowledge = true ∧ serves stocked (order 7 [254]) .acknowledge = true ∧
    serves stocked (order 7 [255]) .acknowledge = true ∧
    ∀ x ∈ [({} : Record), { state := .qualifying }, { state := .raised }, { state := .releasing },
        { state := .raised, acked := true }, { state := .ackWait }],
      serves (ruled x) (order 7 [3]) .acknowledge = true ∧ (ruled x).record 3 = x := by decide +kernel

/-- Rules 3 to 6 waiting for an acknowledgement, rule 3's notice in the queue, one place left. -/
def ringing : State :=
  let s := ruled {}
  let rl : Rule := s.rule 3
  { s with
    tables := { s.tables with rules := (((s.tables.rules.set 4 rl).set 5 rl).set 6 rl).set 7 { rl with notice := false } }
    alarm := {
      notices := List.replicate 14 (.started .line [] 0) ++ [.rule 3 .raised false (some .raised) 5 1]
      records := ((((Vector.replicate 64 {}).set 3 { state := .raised, queued := true, changes := 1 }).set 4
        { state := .ackWait, changes := 255 }).set 5 { state := .releasing, release := 2 }).set 6
        { state := .raised } |>.set 7 { state := .ackWait } } }

theorem witness_AcknowledgesReachRecords_all :
    serves ringing (order 7 [255]) .acknowledge = true ∧ ringing.alarm.notices.length = 15 ∧
    ringing.tables.settings.node ≠ 0 ∧ ∀ r ∈ [(3 : Fin 64), 4, 5, 6], (ringing.rule r).notice = true := by
  decide +kernel

/-- Rule 3's notice is brought up to date, rule 4 takes the last place, rules 5 and 6 are owed, rule 7 makes no notice
(R137, R142, R143). -/
theorem test_acknowledge_all :
    (fun t : State => t.alarm.notices.drop 14 = [.rule 3 .raised true (some .acknowledged) 3000 2,
        .rule 4 .clear true (some .acknowledged) 3000 255] ∧
      (t.record 4).queued = true ∧ (t.record 5).owed = true ∧ (t.record 5).state = .releasing ∧
      (t.record 6).owed = true ∧ (t.record 6).changes = 1 ∧ (t.record 7).last = some .acknowledged ∧
      (t.record 7).changes = 0)
      (after .acknowledge (asked ringing (order 7 [255]))) := by decide +kernel

theorem witness_CueOrdersEnterAtMeter :
    serves onAir (order 8 [16]) .cue = true ∧ serves onAir (order 8 [15, 3]) .cue = true ∧
    serves onAir (order 8 [0, 1, 0, 1]) .cue = true ∧
    (serves onAir (order 8 [15, 1]) .cue = true ∧ (onAir.program 15).play.state = .parked) ∧
    (serves fading (order 8 [0, 1]) .cue = true ∧ (fading.program 0).play.state = .resyncing) ∧
    (serves priming (order 8 [0, 1]) .cue = true ∧ (priming.program 0).meter.pos = none) ∧
    (serves (busy 15) (order 8 [0, 2, 255, 255]) .cue = true ∧ ((busy 15).program 0).meter.pos = some 1040 ∧
      ((busy 15).program 0).conv.pos = some ⟨1000, 0⟩ ∧ ahead (1040 : Stamp) 1000 = true ∧
      ((busy 15).program 0).gain.schedule.length = 127 ∧ ((busy 15).program 0).meter.cues.length = 15) ∧
    (serves (busy 16) (order 8 [0, 1]) .cue = true ∧ ((busy 16).program 0).meter.cues.length = 16) := by
  decide +kernel

theorem witness_RefusedOrdersChangeNothing :
    (asked onAir (order 3 [0])).takesNow (order 3 [0]) ∧
    (after (order 3 [0]).row (asked onAir (order 3 [0]))).orders.replies =
      (asked onAir (order 3 [0])).orders.replies ++ [⟨30, 77, 3, .refusedState, []⟩] :=
  ⟨takesNow_of (by decide +kernel), by decide +kernel⟩

theorem witness_EntriesReadBackAsWritten :
    (fun e : LaneEntry => e.startPage ≤ 4095 ∧ e.sizePages ≤ 1024 ∧ 5 ≤ e.lostTime ∧ e.lostTime ≤ 2000)
      { laneOf 1 4088 with lostTime := 2000 } ∧
    (stocked.entry 0).members.length ≤ 8 ∧ (∀ w ∈ (stocked.entry 0).weights.toList, w ≤ 2000) ∧
    ({} : Profile).clamp = {} ∧
    (fun e : Rule => e.qualify = .count ∧ e.n = e.w ∧ e.level = -7000)
      { qualify := .count, n := 60000, w := 60000, level := -7000 } ∧
    15 < (List.replicate 16 (0x800000 : Sample)).length := by decide +kernel

/-- Tap 1 behind the five leading bytes, −2 as FFFFFE (11.4). -/
theorem test_tap : tapValue [4, 3, 64, 14, 2, 0, 0, 5, 0xFF, 0xFF, 0xFE, 9] 1 = -2 := by decide +kernel

/-! ### Invariants: a program on air with its rule raised meets them, with a command waiting -/

/-- onAir with rule 3 RAISED and holding MUTE, and its lines and fade target as they follow. -/
def alarmed : State :=
  let s := ruled { state := .raised, stretch := 7 }
  { (s.setProgram 0 { s.program 0 with holds := { mute := 1 } }).followThrough with pending := [.houseSample] }

theorem alarmed_rules (r : Fin 64) : (alarmed.record r).due = none ∧
    ((alarmed.rule r).enabled = false → (alarmed.record r).state = .clear) := by
  have h : ∀ r, (alarmed.record r).due = none ∧
    ((alarmed.rule r).enabled = false → (alarmed.record r).state = .clear) := by decide +kernel
  exact h r

theorem witness_StepsKeepMemory :
    (fun s : State => s.memOk) { onAir with mem := [(0, ⟨5, true⟩), (4194303, ⟨6, false⟩)] } := by
  unfold State.memOk; decide +kernel

theorem witness_StepsKeepQueues :
    alarmed.queuesOk ∧ alarmed.repliesOk ∧ alarmed.parcelsOk ∧ alarmed.noticesOk := by
  refine ⟨by unfold State.queuesOk; decide +kernel, by unfold State.repliesOk; decide +kernel, ?_,
    by unfold State.noticesOk; decide +kernel⟩
  intro b hb
  have : alarmed.egress.passthrough = [] := by decide +kernel
  rw [this] at hb
  cases hb

theorem witness_StepsKeepRanges : alarmed.positionsOk ∧ alarmed.trimsOk ∧ alarmed.countersOk :=
  ⟨by unfold State.positionsOk; decide +kernel, by unfold State.trimsOk; decide +kernel,
    by unfold State.countersOk; decide +kernel⟩

theorem witness_StepsKeepTables : onAir.lanesOk ∧ onAir.slotsOk :=
  ⟨onAir_lanes, by unfold State.slotsOk; decide +kernel⟩

theorem witness_StepsKeepStarted : onAir.startedOk ∧ onAir.ringsApart :=
  ⟨onAir_started, apart_of rfl (by decide +kernel)⟩

theorem witness_StepsKeepHolds : alarmed.holdsOk := by
  refine ⟨fun p a => ?_, fun r h => ⟨(alarmed_rules r).2 h, (alarmed_rules r).1⟩, fun r => ?_⟩
  · cases a <;> revert p <;> decide +kernel
  · rw [(alarmed_rules r).1]; trivial

theorem witness_StepsKeepDerived : alarmed.holdsOk ∧ alarmed.linesOk ∧ alarmed.fadesOk :=
  ⟨witness_StepsKeepHolds, by unfold State.linesOk; decide +kernel, by unfold State.fadesOk; decide +kernel⟩

/-! ### Further clauses: the damaged run, the arrival cases, the servo, the schedule, the notices

Each theorem is named after the obligation whose further clauses it meets. -/

/-- A slot of 84 characters, the first `n` of them damaged. -/
def torn (n : Nat) : Slot := List.replicate n .damaged ++ audioSlot.drop n

def tornHead : FrameHead := ⟨.damaged, .damaged, .damaged, .damaged⟩

/-- A run that 31 bytes and one more complete, and one that 31 bytes and a whole one do not (R1). -/
theorem test_damagedRun : (after (.rejectedSlot (torn 1)) { ready with rx := { ready.rx with damaged := 31 } }).rx.framing
      = .hunt ∧
    (after (.rejectedSlot (torn 31)) ready).rx.checkFails = 1 ∧
    (after (.rejectedSlot (torn 32)) ready).rx.lockLosses = 1 ∧
    (after (.rejectedSlot (torn 32)) ready).rx.checkFails = 0 := by decide +kernel

theorem witness_RejectedSlotsAreCounted_run :
    ((torn 31).length = 84 ∧ slotContent (torn 31) = .badCheck ∧ damagedRun 0 (damagedBytes (torn 31)) = some 0) ∧
    ((torn 32).length = 84 ∧ ∀ x ∈ ((damagedBytes (torn 32)).drop 0).take 32, x = true) ∧
    (fun s : State => s.running && s.quiet && s.takesSlot)
      { ready with rx := { ready.rx with damaged := 31 } } = true ∧
    (∀ x ∈ (damagedBytes (torn 1)).take 1, x = true) ∧
    ((made []).length = 84 ∧ slotContent (made []) = .free) := by decide +kernel

theorem witness_LockedSyncTakesOrDiscards_run :
    (∀ n ∈ [27, 28], (fun s : State => s.running && s.quiet && s.rx.framing == .locked && s.rx.misses == 0)
      { ready with rx := { ready.rx with slotsLeft := 0, damaged := n } } = true) ∧
    (∀ x ∈ (headDamaged tornHead).take 4, x = true) ∧ tornHead.c0 ≠ .sync := by decide +kernel

/-- As switching, but program 2 is PARKED and not healthy. -/
def unfit (c : Change) : State := (switching c).setProgram 2 {}

theorem witness_ChangesAreHandedOn_unhealthy :
    (∀ c ∈ [({ force := .forceAlternate } : Change), { force := .forceAlternate, state := .wanted }],
      (unfit c).wanted 0 = true ∧ (((unfit c).program 0).change.latch.or ((unfit c).entry 0).alternate) = some 2 ∧
      (unfit c).healthy 2 = false) ∧
    (unfit {}).lanesHome 0 = true ∧
    ((switching { force := .forceAlternate, state := .wanted, latch := some 7 }).healthy 7 = false ∧
      (switching { force := .forceAlternate, state := .wanted, latch := some 7 }).healthy 2 = true) := by
  decide +kernel

theorem witness_ChangeoversAreForced_unhealthy :
    serves (unfit {}) (order 6 [0, 1]) .changeover = true ∧
    serves (unfit { state := .wanted }) (order 6 [0, 1]) .changeover = true ∧
    ((unfit {}).program 0).change.latch.or ((unfit {}).entry 0).alternate = some 2 ∧
    (unfit {}).healthy 2 = false := by decide +kernel

/-- onAir with lane 1 as given. -/
def behindAt (x : Lane) : State := onAir.setLane 1 { x with status := .receiving }

theorem behindAt_started (x : Lane) : (behindAt x).startedOk := by
  have h : ∀ l, ((behindAt x).lane l).status = (onAir.lane l).status := fun l => by
    by_cases e : l = 1
    · subst e; rfl
    · have e' : ¬ 1 = (l : Nat) := fun k => e (Fin.ext k.symm)
      simp [behindAt, State.setLane, State.lane, e']
  obtain ⟨a, b, c⟩ := onAir_started
  exact ⟨a, b, fun l => by rw [h]; exact c l⟩

/-- A gap of 10, a discontinuity, a late parcel with 14 new samples and one with none, W on either side (R26 to R29). -/
theorem witness_FollowerAudioWritesInOrder_cases :
    (∀ x ∈ [({ horizon := some 1040, lastSeq := some 3 } : Lane), { horizon := some 1040, lastSeq := some 199 },
        { horizon := some 1060, lastSeq := some 199 }, { horizon := some 1074, lastSeq := some 199 }, {}],
      (behindAt x).audioNext followerSlot 1 followerIn ∧ (behindAt x).memberOf 1 0 ∧
      (behindAt x).leader 0 ≠ some 1 ∧ (behindAt x).playState 0 ≠ .resyncing ∧
      ((behindAt x).program 0).conv.pos = some ⟨1000, 0⟩ ∧ (behindAt x).edge 0 = some 985 ∧
      ∀ i < followerIn.samples.length, inWindow 985 ((behindAt x).laneEntry 1).ringSize
        (followerIn.stamp + BitVec.ofNat 32 i) = true) ∧
    (ahead followerIn.stamp 1040 = true ∧ followerIn.discontinuity = false ∧
      (some 3 : Option Byte) ≠ some (followerIn.seq - 1) ∧ (some 199 : Option Byte) = some (followerIn.seq - 1)) ∧
    (ahead followerIn.stamp 1060 = false ∧ ((1060 : Stamp) - followerIn.stamp).toNat = 10 ∧
      ((1074 : Stamp) - followerIn.stamp).toNat = followerIn.samples.length) := by
  refine ⟨fun x hx => ?_, by decide +kernel⟩
  refine ⟨followerNext_of ?_ rfl ?_, ⟨behindAt_started x, ?_, ?_⟩, ?_, ?_, ?_, ?_, ?_⟩ <;>
    (revert x; decide +kernel)

/-- Words 1,050 and 1,060 of lane 1 are SUSPECT, at their places 8,192 + 1,050 and + 1,060; W on either side. -/
def scarred (W : Stamp) : State :=
  { behindAt { horizon := some W, lastSeq := some 199, taint := 2 } with
    mem := [(9242, ⟨7, true⟩), (9252, ⟨7, true⟩)] }

/-- Both are repaired by a late parcel that ends at W; one that starts at 1,055 less 5 with W there repairs the first
and writes over the second; the taint count falls by both (R18, R29). -/
theorem test_taint : ((after (.audioParcel followerSlot) (scarred 1074)).lane 1).taint = 0 ∧
    ((after (.audioParcel followerSlot) (scarred 1074)).lane 1).late = 0 ∧
    ((after (.audioParcel followerSlot) (scarred 1055)).lane 1).taint = 0 ∧
    ((after (.audioParcel followerSlot) (scarred 1055)).lane 1).horizon = some 1074 ∧
    (after (.audioParcel followerSlot) (scarred 1074)).mem.length = 2 := by decide +kernel

theorem witness_FollowerAudioWritesInOrder_repairs :
    (scarred 1074).audioNext followerSlot 1 followerIn ∧ (scarred 1074).memberOf 1 0 ∧
    (scarred 1074).lateRepairs 985 1 ⟨1000, 0⟩ 1074 followerIn = [0, 10] ∧
    followerIn.samples.length ≤ ((1074 : Stamp) - followerIn.stamp).toNat ∧
    (scarred 1055).lateRepairs 985 1 ⟨1000, 0⟩ 1055 followerIn = [0] :=
  ⟨followerNext_of (by decide +kernel) rfl (by decide +kernel),
    ⟨behindAt_started _, by decide +kernel, by decide +kernel⟩, by decide +kernel⟩

/-- P moved to 20,000: the parcels of 1,050 and 1,100 lie behind the retired edge. -/
def movedOn : State :=
  onAir.setProgram 0 { onAir.program 0 with
    conv := { (onAir.program 0).conv with pos := some ⟨20000, 0⟩ }
    meter := { (onAir.program 0).meter with pos := some 20040, boundary := 24840 } }

theorem movedOn_started : movedOn.startedOk :=
  started_of 0 (by decide +kernel) (by decide +kernel) (by decide +kernel)

theorem witness_FollowerAudioWritesInOrder_outside :
    (movedOn.audioNext followerSlot 1 followerIn ∧ movedOn.memberOf 1 0 ∧ movedOn.edge 0 = some 19985 ∧
      ¬ movedOn.inside 19985 1 followerIn) ∧
    (movedOn.audioNext audioSlot 0 audioIn ∧ movedOn.memberOf 0 0 ∧ movedOn.leader 0 = some 0 ∧
      ¬ movedOn.inside 19985 0 audioIn ∧ (movedOn.program 0).conv.pos ≠ none) :=
  ⟨⟨followerNext_of (by decide +kernel) rfl (by decide +kernel), ⟨movedOn_started, by decide +kernel, by decide +kernel⟩,
      by decide +kernel, by unfold State.inside; decide +kernel⟩,
    ⟨audioNext_of (by decide +kernel) rfl (by decide +kernel), ⟨movedOn_started, by decide +kernel, by decide +kernel⟩,
      by decide +kernel, by unfold State.inside; decide +kernel, by decide +kernel⟩⟩

/-- HOLDOVER at a read position: from 1,085 the parcel's end, 1,102, is 17 ahead of P, from 1,086 it is 16 (R46). -/
def returning (P : Stamp) : State :=
  let s := playing .holdover { play := { fade := 480, target := .opened, elapsed := true } }
  s.setProgram 0 { s.program 0 with conv := { (s.program 0).conv with pos := some ⟨P, 0⟩ } }

theorem returning_started (P : Stamp) : (returning P).startedOk := by
  have h := onAir_started
  have ha : ∀ q, (returning P).active q = onAir.active q := fun q => by
    by_cases e : q = 0
    · subst e; rfl
    · have e' : ¬ 0 = (q : Nat) := fun k => e (Fin.ext k.symm)
      simp [returning, onAir, playing, State.setProgram, State.active, State.playState, State.program,
        e']
  obtain ⟨a, b, c⟩ := h
  exact ⟨a, fun q hq => by rw [ha] at hq; exact b q hq, fun l => (c l).trans (by simp only [ha]; rfl)⟩

theorem returning_next (P : Stamp) (h : P = 1085 ∨ P = 1086) : (returning P).audioNext audioSlot 0 audioIn := by
  refine audioNext_of ?_ rfl ?_ <;> (rcases h with rfl | rfl <;> decide +kernel)

/-- In HOLDOVER the parcel ends 17 samples ahead of P, and 16, and onAir takes it in order (R25, R46). -/
theorem witness_LeaderAudioOpensProgram_returns :
    (∀ P, P = 1085 ∨ P = 1086 → (returning P).audioNext audioSlot 0 audioIn ∧ (returning P).startedOk ∧
      (returning P).leader 0 = some 0 ∧ ((returning P).lane 0).horizon = some audioIn.stamp ∧
      ((returning P).program 0).meter.pos = some 1040 ∧ (returning P).edge 0 = some 1040 ∧
      (returning P).inside 1040 0 audioIn) ∧
    (onAir.audioNext audioSlot 0 audioIn ∧ onAir.startedOk ∧ onAir.leader 0 = some 0 ∧
      (onAir.lane 0).horizon = some audioIn.stamp ∧ onAir.edge 0 = some 985 ∧ onAir.inside 985 0 audioIn) ∧
    audioIn.discontinuity = false ∧
    behind ((1085 : Stamp) + 16) 1102 = true ∧ behind ((1086 : Stamp) + 16) 1102 = false := by
  refine ⟨fun P h => ⟨returning_next P h, returning_started P, ?_⟩,
    ⟨audioNext_of (by decide +kernel) rfl (by decide +kernel), onAir_started, ?_⟩, by decide +kernel⟩
  · unfold State.inside
    rcases h with rfl | rfl <;> decide +kernel
  · unfold State.inside
    decide +kernel

/-- Program 0 in a play state with lane 0, its leader, as given. -/
def leading (st : PlayState) (x : Lane) : State :=
  (playing st { play := { fade := 480, warmUpLeft := 9 } }).setLane 0 { x with status := .receiving }

/-- RESYNC requests: by a discontinuity with a P and without one (R28, R47). -/
theorem witness_LeaderAudioOpensProgram_breaks :
    ∀ u : State, u = leading .running { horizon := some 1090, lastSeq := some 9 } ∨
        u = (opening .priming []).setLane 0 { status := .receiving, horizon := some 1090, lastSeq := some 9 } →
      u.audioNext audioSlot 0 audioIn ∧ u.memberOf 0 0 ∧ u.leader 0 = some 0 ∧
      (u.lane 0).horizon = some 1090 ∧ u.playState 0 ≠ .resyncing ∧ u.playState 0 ≠ .parking ∧
      (u.lane 0).lastSeq = some (audioIn.seq - 1) ∧ ahead audioIn.stamp 1090 = true := by
  rintro u (rfl | rfl) <;>
    exact ⟨audioNext_of (by decide +kernel) rfl (by decide +kernel),
      ⟨started_of 0 (by decide +kernel) (by decide +kernel) (by decide +kernel), by decide +kernel, by decide +kernel⟩,
      by decide +kernel⟩

/-- The leader's other parcels: the first in the window with a P, a gap of 10, a late one that extends and one that does
not, in PARKING a discontinuity, and in HOLDOVER a gap (R24, R26, R28, R29, R46). -/
theorem witness_LeaderAudioOpensProgram_cases :
    ∀ u : State, u = leading .running {} ∨ u = leading .running { horizon := some 1090, lastSeq := some 3 } ∨
        u = leading .warming { horizon := some 1101, lastSeq := some 3 } ∨
        u = leading .running { horizon := some 1102, lastSeq := some 3 } ∨
        u = leading .parking { horizon := some 1090, lastSeq := some 9 } ∨
        u = leading .holdover { horizon := some 1090, lastSeq := some 3 } →
      u.audioNext audioSlot 0 audioIn ∧ u.memberOf 0 0 ∧ u.leader 0 = some 0 ∧
      (u.program 0).conv.pos = some ⟨1000, 0⟩ ∧ u.edge 0 = some 985 ∧ u.playState 0 ≠ .resyncing ∧
      ∀ i < audioIn.samples.length,
        inWindow 985 (u.laneEntry 0).ringSize (audioIn.stamp + BitVec.ofNat 32 i) = true := by
  rintro u (rfl | rfl | rfl | rfl | rfl | rfl) <;>
    exact ⟨audioNext_of (by decide +kernel) rfl (by decide +kernel),
      ⟨started_of 0 (by decide +kernel) (by decide +kernel) (by decide +kernel), by decide +kernel, by decide +kernel⟩,
      by decide +kernel⟩

/-- In PARKING the leader's ring is flushed and the parcel taken as the first; a gap of 10 is concealed; out of the
window it is dropped in PARKING (R26, R28, R31). -/
theorem test_leaderCases :
    (fun t : State => (t.lane 0).taint = 2 ∧ t.mem.length = 2 ∧ t.playState 0 = .parking)
      (after (.audioParcel audioSlot) { leading .parking { horizon := some 1090, lastSeq := some 9, taint := 1 } with
        mem := [(1080, ⟨7, true⟩)] }) ∧
    (fun t : State => (t.lane 0).taint = 12 ∧ (t.lane 0).concealed = 10 ∧ (t.program 0).meter.pos = some 1054)
      (after (.audioParcel audioSlot) (leading .running { horizon := some 1090, lastSeq := some 3 })) ∧
    ((after (.audioParcel audioSlot) (movedOn.setProgram 0 { movedOn.program 0 with
      play := { (movedOn.program 0).play with state := .parking } })).lane 0).dropped = 1 := by decide +kernel

/-- The meter moves when W less the cushion, 48, is ahead of M, and stands when it is not; the return test at the fill
of 17, of 16, and without a horizon (R46, R91). -/
theorem witness_LeaderAudioOpensProgram_follows :
    (onAir.program 0).meter.pos = some 1040 ∧ (onAir.entry 0).cushion = 48 ∧ onAir.edge 0 = some 985 ∧
    ahead (1041 : Stamp) 1040 = true ∧ ahead (1040 : Stamp) 1040 = false ∧
    (∀ P : Stamp, P = 1083 ∨ P = 1084 → (returning P).playState 0 = .holdover ∧
      (returning P).leaderHorizon 0 = some 1100 ∧ ((returning P).program 0).conv.pos = some ⟨P, 0⟩) ∧
    behind ((1083 : Stamp) + 16) 1100 = true ∧ behind ((1084 : Stamp) + 16) 1100 = false ∧
    (leading .holdover {}).leaderHorizon 0 = none ∧ (leading .holdover {}).playState 0 = .holdover := by
  refine ⟨by decide +kernel, by decide +kernel, by decide +kernel, by decide, by decide, ?_, by decide +kernel⟩
  rintro P (rfl | rfl) <;> decide +kernel

/-- onAir at P = 1,200 with egress lane 4 taking member 0 and n cues in the outbox; or with 128 entries stored. -/
def passing (n : Nat) (on : Bool) : State :=
  let s := onAir.setProgram 0 { onAir.program 0 with conv := { (onAir.program 0).conv with pos := some ⟨1200, 0⟩ } }
  { s with
    egress := { map := (Vector.replicate 32 ({} : MapEntry)).set 4 { enabled := on, slot := 9 }
                outbox := List.replicate n ⟨0, 0, .userMark, 0, 0⟩ } }

def full : State :=
  onAir.setProgram 0 { onAir.program 0 with gain := { schedule := List.replicate 128 (.gain 1200 5) } }

theorem witness_CuesAreEntered_atOnce :
    (∀ s : State, s = passing 7 true ∨ s = passing 8 true ∨ s = passing 0 false ∨ s = full →
      s.cueNext segmentCue 0 1200 .segmentEnd 0 ∧ s.memberOf 0 0 ∧ s.leader 0 = some 0 ∧ s.playState 0 ≠ .resyncing) ∧
    ((passing 7 true).program 0).conv.pos = some ⟨1200, 0⟩ ∧ ahead (1200 : Stamp) 1200 = false ∧
    (((passing 7 true).mapEntry 4).enabled = true ∧ ((passing 7 true).mapEntry 4).program = 0 ∧
      ((passing 7 true).mapEntry 4).member = 0) ∧
    (∀ e, ((passing 0 false).mapEntry e).enabled = false) ∧
    (full.program 0).gain.schedule.length = 128 ∧ (full.program 0).conv.pos = some ⟨1000, 0⟩ := by
  refine ⟨?_, by decide +kernel⟩
  rintro s (rfl | rfl | rfl | rfl) <;>
    exact ⟨cueNext_of (tag := 1) (by decide +kernel) rfl (by decide +kernel) (by decide +kernel) (by decide +kernel),
      ⟨started_of 0 (by decide +kernel) (by decide +kernel) (by decide +kernel), by decide +kernel, by decide +kernel⟩,
      by decide +kernel, by decide +kernel⟩

/-- A CUE order at M = 1,040 with P at 1,200, with 128 entries stored, and with M but no P (R113 to R118). -/
theorem witness_CueOrdersEnterAtMeter_atOnce :
    (∀ s : State, s = passing 7 true ∨ s = passing 8 true ∨ s = passing 0 false ∨ s = full ∨
        s = onAir.setProgram 0 { onAir.program 0 with conv := {} } →
      serves s (order 8 [0, 1]) .cue = true ∧ (s.program 0).meter.pos = some 1040) ∧
    ahead (1040 : Stamp) 1200 = false ∧ ahead (1040 : Stamp) 1000 = true := by
  refine ⟨?_, by decide⟩
  rintro s (rfl | rfl | rfl | rfl | rfl) <;> decide +kernel

/-- It takes effect at once, stamped 3,000, or is a forward drop; at a full schedule it is a cue drop; and the meter lists
it each time (R101, R114 to R118). -/
theorem test_cue_atOnce :
    ((after .cue (asked (passing 7 true) (order 8 [0, 1]))).egress.outbox.getLast? = some ⟨0, 3000, .segmentEnd, 0, 0⟩) ∧
    ((after .cue (asked (passing 8 true) (order 8 [0, 1]))).program 0).gain.forwardDrops = 1 ∧
    ((after .cue (asked full (order 8 [0, 1]))).program 0).gain.cueDrops = 1 ∧
    ((after .cue (asked full (order 8 [0, 1]))).program 0).meter.cues = [(1040, .segmentEnd)] := by decide +kernel

/-- A segment end with three segments of energy 1 behind it and one in it: −69 cLU at short term (R98). -/
def closing : State :=
  onAir.setProgram 0 { onAir.program 0 with
    meter := { (onAir.program 0).meter with
      history := List.replicate 3 (4800 * 1000 * 2 ^ 46), members := [{ sum := 4800 * 2 ^ 46 }, {}] } }

theorem test_endSegment :
    (fun m : Meter => m.segments = 1 ∧ m.boundary = 10600 ∧ m.momentary = -69 ∧ m.shortTerm = -69 ∧
      m.history.length = 4 ∧ m.members = [{}, {}])
      ((closing.endSegment 0).program 0).meter := by decide +kernel

theorem witness_UnityIsExact_segment :
    (fun f : Profile => 0 ≤ f.maxBoost ∧ 0 ≤ f.maxCut ∧ f.holdGate ≤ -69)
      closing.tables.profiles[(closing.entry 0).profile] ∧
    (closing.program 0).holds.freeze = 0 ∧ (closing.program 0).meter.integration = .opened ∧
    (∀ g ∈ [(-3000 : Int), 2000], -3000 ≤ g ∧ g ≤ 2000) ∧ 0 < (1 : Nat) := by decide +kernel

/-- A frame start with program 0 RUNNING in band set 0, fill 100, its fill target and servo as given. -/
def judging (fill : Nat) (mode : ServoMode) (e : ProgramEntry) : State :=
  let s := { onAir with
    house := { onAir.house with toFrame := 0 }
    tables := { tables with programs := (Vector.replicate 16 ({} : ProgramEntry)).set 0 { e with defined := true, members := [0, 1], bandSet := 0 } } }
  s.setProgram 0 { s.program 0 with servo := { (s.program 0).servo with fill := fill, mode := mode } }

/-- E = 2 in TRACK moves nothing, E = 3 one unit of trim, E = −17 the first glide; at 16,777,216 / 1,024 (R78, R79, R86). -/
theorem test_servo :
    (after .egressFrameStart (judging 98 .track {}) |>.program 0).conv.trim = 0 ∧
    (after .egressFrameStart (judging 97 .track {}) |>.program 0).conv.trim = 1 ∧
    (after .egressFrameStart (judging 117 .track { glideRate := .medium }) |>.program 0).conv.glide = -16384 ∧
    (after .egressFrameStart (judging 117 .track { jumpThreshold := 16 }) |>.program 0).servo.mode = .jump := by
  decide +kernel

theorem witness_JumpsMoveOrHold_servo :
    (∀ s ∈ [judging 98 .track {}, judging 97 .track {}, judging 84 .track {}, judging 83 .track {},
        judging 98 .glide {}, judging 97 .glide {}, judging 98 .jump {}, judging 117 .track { jumpThreshold := 16 },
        (judging 98 .track {}).setLane 0 { onAir.lane 0 with horizon := some 9129 }],
      (s.running && s.quiet && s.house.warmedUp && s.house.toFrame == 0) = true ∧
      (s.program 0).play.state = .running ∧ (s.program 0).conv.pos = some ⟨1000, 0⟩ ∧
      (s.leaderHorizon 0).isSome = true) ∧
    (judging 98 .track {}).leaderHorizon 0 = some 1100 ∧ stampDiff (1100 : Stamp) 1000 = 100 ∧
    stampDiff (9129 : Stamp) 1000 = 8129 ∧ (judging 98 .track {}).smallestRing 0 = 8192 ∧
    (fun s : State => s.running && s.quiet && !s.house.warmedUp && s.house.warmUpLeft == 0)
      { onAir with house := { onAir.house with warmedUp := false, toFrame := 12 }, orders := {} } = true := by
  decide +kernel

/-- The worked sequence of Chapter 8: the notices of rules 0 to 15 wait, rules 22 and 40 are owed, and replies leave
two places of the frame to notices. -/
def departing (toTick : Nat) : State :=
  { ready with
    house := { ready.house with toFrame := 0, toTick := toTick }
    orders := { ready.orders with replies := [⟨30, 1, 9, .done, []⟩, ⟨30, 2, 9, .done, []⟩] }
    alarm := {
      notices := ((List.finRange 64).take 16).map fun r => .rule r .raised false (some .raised) 5 1
      records := Vector.ofFn fun r =>
        if r < 16 then { state := .raised, queued := true, changes := 1, last := some .raised, lastStamp := 5 }
        else { owed := r == 22 || r == 40, changes := if r = 40 then 2 else 1 } } }

/-- The notices of rules 0 and 1 leave, and rule 22, then rule 40 is queued (R144, its worked sequence). -/
theorem test_promotion : (fun t : State =>
    t.alarm.notices.map (fun n => (List.finRange 64).find? n.isOf) = (((List.finRange 64).take 16).drop 2 ++ [22, 40]).map some ∧
    (t.record 0).changes = 0 ∧ (t.record 0).queued = false ∧ (t.record 40).queued = true ∧ (t.record 40).owed = false ∧
    (t.record 40).changes = 2)
    (after .egressFrameStart (departing 24)) := by decide +kernel

/-- Taken ahead of a tick that is due, the frame start leaves its places to the tick's notices (R144, R150). -/
theorem test_promotion_tick : (fun t : State => t.alarm.notices.length = 14 ∧ (t.record 22).owed = true)
    (after .egressFrameStart (departing 0)) := by decide +kernel

/-- A frame start and its tick have been taken, 15 notices wait and two rules are owed. -/
def owing : State :=
  { ready with
    house := { ready.house with toTick := 48, toFrame := 12 }
    alarm := {
      notices := List.replicate 15 (.started .line [] 0)
      records := ((Vector.replicate 64 {}).set 9 { owed := true, changes := 2 }).set 4 { owed := true, changes := 1 } } }

theorem witness_FramesAreSent_owed :
    (∀ n ∈ [24, 0], ((departing n).running && (departing n).quiet) = true ∧ (departing n).noticesOk) ∧
    (owing.running && owing.quiet) = true ∧ (owing.record 4).owed = true ∧ owing.promotionDue = true ∧
    (asked owing (order 9 [])).urgentStep = none ∧
    (asked owing (order 9 [])).nextOrder = some (order 9 []) := by
  unfold State.noticesOk; decide +kernel

/-- As owing, with a move due of rule 9, which is owed, and of rule 12, which is not. -/
def owedMove : State :=
  let x : Record := { state := .qualifying, qual := 1, due := some .raise }
  { owing with
    tables := { owing.tables with
      settings := { owing.tables.settings with node := 30 }
      rules := (owing.tables.rules.set 9 { enabled := true, notice := true }).set 12 { enabled := true, notice := true } }
    alarm := { owing.alarm with records := owing.alarm.records.set 9 { x with owed := true, changes := 2 } |>.set 12 x } }

/-- One place is left: rule 9, already owed, waits for its turn behind rule 4 (R143, R144). -/
theorem test_owed_turn : (fun t : State => t.alarm.notices = owing.alarm.notices ∧
      (t.record 9).owed = true ∧ (t.record 9).changes = 3 ∧ (t.record 9).state = .raised ∧
      t.promoteAll.alarm.notices.drop 15 = [.rule 4 .clear false none 0 1])
    (after (.recordRaised 9) owedMove) := by decide +kernel

/-- Rule 12, not owed, takes the place ahead of rules 4 and 9 (R144). -/
theorem test_place_ahead_of_owed : (fun t : State => (t.alarm.notices.drop 15).map (·.isOf 12) = [true] ∧
      (t.record 4).owed = true ∧ (t.record 9).owed = true ∧ t.promotionDue = false)
    (after (.recordRaised 12) (after (.recordRaised 9) owedMove)) := by decide +kernel

theorem witness_RecordsMove_owed : owedMove.running = true ∧ (owedMove.record 9).due = some .raise ∧
    (owedMove.record 9).queued = false ∧ (owedMove.record 9).owed = true ∧ owedMove.alarm.notices.length < 16 ∧
    (owedMove.rule 9).notice = true ∧ owedMove.tables.settings.node ≠ 0 ∧
    ∀ k, k < 9 → (owedMove.record k).due = none := by decide +kernel

/-- Program 2, the latched alternate of program 0, at the end of its PARKING. -/
def alternateParking (c : Change) : State :=
  let s := (switching c).setProgram 2 { play := { state := .parking } }
  { s with orders := { s.orders with unit := .parkPending, owing := some ⟨30, 6, 4⟩ } }

theorem witness_ParkingEnds_latched :
    (∀ c ∈ [({ state := .alternate, latch := some 2, force := .forceAlternate } : Change),
        { state := .reverting, latch := some 2 }],
      (alternateParking c).running = true ∧ (alternateParking c).playState 2 = .parking ∧
      ((alternateParking c).program 2).play.fade = 0 ∧ (alternateParking c).orders.unit = .parkPending ∧
      (alternateParking c).orders.owing = some ⟨30, 6, 4⟩ ∧ ((alternateParking c).program 0).change.latch = some 2) ∧
    (alternateParking { state := .alternate, latch := some 2, force := .forceAlternate }).wanted 0 = true ∧
    (alternateParking { state := .reverting, latch := some 2 }).wanted 0 = false := by decide +kernel

theorem witness_PersistRaisesAtNth_count :
    (fun (rl : Rule) (ticks : List Bool) => rl.qualify = .count ∧ 1 ≤ rl.n ∧ 1 ≤ rl.w ∧ ticks ≠ [] ∧
      ticks.length = rl.w ∧ ticks.dropLast.count true < rl.n ∧ ticks.head? = some true)
      { qualify := .count, n := 2, w := 3 } [true, false, true] ∧
    ({ state := .qualifying } : Record).window = 0 ∧ ({ state := .releasing, release := 5 } : Record).release = 5 ∧
    ({ state := .ackWait } : Record).state = .ackWait := by decide

/-- Rule 3 RAISED and rewritten: its notice joins, is owed, or stands in place (R130, R142 to R144). -/
theorem test_rewritten :
    (after .writeRule (asked (ruled { state := .raised }) (order 0 [6, 3, 1, 11, 16]))).alarm.notices =
      [.rule 3 .clear false (some .rewritten) 3000 1] := by decide +kernel

theorem witness_RulesAreWritten_notice :
    (∀ x ∈ [({ state := .raised } : Record), { state := .raised, queued := true }],
      serves (ruled x) (order 0 [6, 3, 1, 11, 16]) .writeRule = true ∧ (ruled x).record 3 = x ∧
      ((ruled x).rule 3).notice = true ∧ (ruled x).tables.settings.node ≠ 0 ∧
      (ruled x).alarm.notices.length < 16) ∧
    (fun s : State => serves s (order 0 [6, 3, 1, 11, 16]) .writeRule = true ∧ (s.record 3).owed = true ∧
      s.alarm.notices.length = 16)
      { ruled {} with alarm := {
          notices := List.replicate 16 (.started .line [] 0)
          records := (Vector.replicate 64 {}).set 3 { state := .raised, owed := true } } } := by decide +kernel

/-- The T fixed at a frame start governs the house sample there, whatever T the servo has written (R57). -/
theorem test_fixedRatio :
    let s := playing .holdover { conv := { trim := 50, fixed := some (7, 0) } }
    ((after .houseSample s).program 0).conv.pos = some ⟨1001, 7⟩ := by decide +kernel

/-- Every stored entry that is not ahead of floor(P) acts when P comes there, behind one that is ahead too (R117). -/
theorem test_playOut :
    let s := onAir.setProgram 0 { onAir.program 0 with
      gain := { schedule := [.cue 0 .userMark 1, .cue 0x70000000 .userMark 2, .cue 0xB0000000 .userMark 3] } }
    ((s.setPos 0 0xA0000000).program 0).gain.schedule =
      [.cue 0 .userMark 1, .cue 0xB0000000 .userMark 3] := by
  decide +kernel

/-- The egress frame stands behind the sync character, 0xC5 and its number (R150, R163). -/
theorem test_frameHead :
    (after .egressFrameStart framing).egress.sent.map (·.head) = some ⟨.sync, .data 0xC5, .data 0, .data 0⟩ := by
  decide +kernel

/-- A parcel exactly 2^31 behind W is late as a whole (R29). -/
theorem test_latest : ((after (.audioParcel followerSlot) (behindAt { horizon := some 0x8000041A })).lane 1).late = 1 ∧
    ((after (.audioParcel followerSlot) (behindAt { horizon := some 0x8000041A })).lane 1).horizon =
      some 0x8000041A := by decide +kernel

/-- WARMING sets its warm-up also where the LOST leader ends it at once (R43). -/
theorem test_fillReachedLost : ((after (.fillReached 0) filledLost).program 0).play.warmUpLeft = 4800 ∧
    (after (.fillReached 0) filledLost).playState 0 = .resyncing := by decide +kernel

end Sys2Proof.Tests
end

section
/-! SUPPORT. What the three resets leave of the programs, the program table, the notices and the Order Unit
(R37, R38, R53, R148, R164, R175), and every program after a reset (R53). -/

namespace Sys2Proof.Machine

/-! ### The state in which each reset ends -/

theorem EndsPower.eq_afterPower {s t : State} (h : EndsPower s t) : ∃ straps, t = s.afterPower straps := by
  obtain ⟨hpower, straps, hexec⟩ := h
  have hrun : exec (.powerOnResetEnd straps) s = .next (s.afterPower straps) := by
    simp only [exec, execPowerOnResetEnd, hpower, if_true]
  exact ⟨straps, Host.Outcome.next.inj (hexec.symm.trans hrun)⟩

theorem EndsLine.eq_afterLine {s t : State} (h : EndsLine s t) : ∃ straps, t = s.afterLine straps := by
  obtain ⟨hlow, hpower, straps, hexec⟩ := h
  have hrun : exec (.resetLineHigh straps) s = .next (s.afterLine straps) := by
    simp only [exec, execResetLineHigh, hlow, if_true, State.lineRises, hpower, Bool.false_eq_true, if_false]
  exact ⟨straps, Host.Outcome.next.inj (hexec.symm.trans hrun)⟩

theorem EndsOrder.eq_afterOrder {s t : State} (h : EndsOrder s t) : ∃ straps, t = s.afterOrder straps := by
  obtain ⟨hrunning, hdue, straps, hexec⟩ := h
  have hrun : exec (.resetBegin straps) s = .next (s.afterOrder straps) := by
    simp only [exec, execResetBegin, State.ownCommand_of_due hrunning hdue]
  exact ⟨straps, Host.Outcome.next.inj (hexec.symm.trans hrun)⟩

/-! ### State.afterPower -/

@[simp] theorem State.afterPower_programs (s : State) (straps : BitVec 6) :
    (s.afterPower straps).programs = Vector.replicate 16 {} := by
  dsimp only [State.afterPower, State.driveLines]
@[simp] theorem State.afterPower_tables (s : State) (straps : BitVec 6) : (s.afterPower straps).tables = {} := by
  dsimp only [State.afterPower, State.driveLines]
@[simp] theorem State.afterPower_notices (s : State) (straps : BitVec 6) :
    (s.afterPower straps).alarm.notices = [] := by
  dsimp only [State.afterPower, State.driveLines]
@[simp] theorem State.afterPower_orders (s : State) (straps : BitVec 6) : (s.afterPower straps).orders = {} := by
  dsimp only [State.afterPower, State.driveLines]

/-! ### State.afterLine -/

@[simp] theorem State.afterLine_programs (s : State) (straps : BitVec 6) :
    (s.afterLine straps).programs = Vector.replicate 16 {} := by
  dsimp only [State.afterLine, State.driveLines]
@[simp] theorem State.afterLine_tables (s : State) (straps : BitVec 6) :
    (s.afterLine straps).tables = s.tables := by
  dsimp only [State.afterLine, State.driveLines]
@[simp] theorem State.afterLine_notices (s : State) (straps : BitVec 6) :
    (s.afterLine straps).alarm.notices = [] := by
  dsimp only [State.afterLine, State.driveLines]
@[simp] theorem State.afterLine_orders (s : State) (straps : BitVec 6) :
    (s.afterLine straps).orders = { cause := .line } := by
  dsimp only [State.afterLine, State.driveLines]

/-! ### State.afterOrder: as after the line, but for the egress frame and the Order Unit -/

@[simp] theorem State.afterOrder_programs (s : State) (straps : BitVec 6) :
    (s.afterOrder straps).programs = Vector.replicate 16 {} := by
  simp only [State.afterOrder, State.afterLine_programs]
@[simp] theorem State.afterOrder_tables (s : State) (straps : BitVec 6) :
    (s.afterOrder straps).tables = s.tables := by
  simp only [State.afterOrder, State.afterLine_tables]
@[simp] theorem State.afterOrder_notices (s : State) (straps : BitVec 6) :
    (s.afterOrder straps).alarm.notices = [] := by
  simp only [State.afterOrder, State.afterLine_notices]
@[simp] theorem State.afterOrder_orders (s : State) (straps : BitVec 6) :
    (s.afterOrder straps).orders =
      { cause := .order, unit := .resetPending, owing := s.orders.owing, resetDone := true } := by
  dsimp only [State.afterOrder]

/-! ### Every program after a reset (R53) -/

/-- Whichever reset ends, every program, the notices and the queues of the Order Unit are at their reset values,
and no PARK is pending. -/
theorem reset_leaves {s t : State} (h : EndsPower s t ∨ EndsLine s t ∨ EndsOrder s t) :
    t.programs = Vector.replicate 16 {} ∧ t.orders.intake = [] ∧ t.orders.replies = [] ∧
      t.orders.unit ≠ .parkPending ∧ t.alarm.notices = [] := by
  rcases h with hpower | hline | horder
  · obtain ⟨straps, rfl⟩ := hpower.eq_afterPower
    simp
  · obtain ⟨straps, rfl⟩ := hline.eq_afterLine
    simp
  · obtain ⟨straps, rfl⟩ := horder.eq_afterOrder
    simp

/-- The reset line and the RESET order keep every table (R37). -/
theorem tables_of_line_or_order {s t : State} (h : EndsLine s t ∨ EndsOrder s t) : t.tables = s.tables := by
  rcases h with hline | horder
  · obtain ⟨straps, rfl⟩ := hline.eq_afterLine
    exact State.afterLine_tables s straps
  · obtain ⟨straps, rfl⟩ := horder.eq_afterOrder
    exact State.afterOrder_tables s straps

theorem State.program_of_programs {t : State} (h : t.programs = Vector.replicate 16 {}) (p : Fin 16) :
    t.program p = {} := by
  simp [State.program, h]

/-- After power-on every program table entry is at its power-on values (R38). -/
theorem EndsPower.entry {s t : State} (h : EndsPower s t) (p : Fin 16) : t.entry p = {} := by
  obtain ⟨straps, rfl⟩ := h.eq_afterPower
  simp [State.entry]

/-- Settles O9: each reset leaves every program at the defaults of its blocks, and the table of programs is kept
except by power-on. -/
theorem programResetValues : Obligations.ProgramResetValues := by
  intro s t h
  obtain ⟨hprograms, hintake, hreplies, hunit, hnotices⟩ := reset_leaves h
  refine ⟨fun p => ?_, hintake, hreplies, hunit, hnotices,
    fun hkept => congrArg Tables.programs (tables_of_line_or_order hkept), fun hpower => hpower.entry⟩
  rw [State.program_of_programs hprograms p]
  exact ⟨rfl, rfl, rfl, rfl, rfl, rfl, rfl, rfl, rfl, rfl, rfl, rfl, rfl⟩

end Sys2Proof.Machine
end

section
/-! SUPPORT. The profile table and the coefficient banks as orders write and read them (R69, R110, R111), and the
hold gate of the Gain Law (R112). -/

namespace Sys2Proof.Machine

/-! ### Indices, clamping and the DONE or CLAMPED reply -/

theorem toFin?_of_eq {n x : Nat} {i : Fin n} (h : x = i.val) : toFin? n x = some i := by
  simp only [toFin?, h, i.isLt, dif_pos]

theorem toFin?_of_le {n x : Nat} (h : n ≤ x) : toFin? n x = none :=
  dif_neg (Nat.not_lt.mpr h)

/-- Clamping as the manual's tables state a range. -/
theorem clampInt_eq {lo hi : Int} (h : lo ≤ hi) (x : Int) : clampInt lo hi x = max lo (min x hi) := by
  unfold clampInt
  split
  · omega
  · split <;> omega

/-- An entry is answered CLAMPED exactly when the stored value differs from the one carried (R168). -/
theorem doneOr_bne {α : Type} [DecidableEq α] (stored carried : α) :
    doneOr (stored != carried) = if carried = stored then .done else .clamped := by
  by_cases h : carried = stored
  · simp [doneOr, h]
  · simp [doneOr, h, Ne.symm h]

/-- Each field of a profile in its range of R110. -/
theorem Profile.clamp_eq (f : Profile) : f.clamp =
    { target := max (-3600) (min f.target (-1000)), maxBoost := max 0 (min f.maxBoost 2000)
      maxCut := max 0 (min f.maxCut 3000), attack := max 1 (min f.attack 500)
      release := max 1 (min f.release 500), holdGate := max (-7000) (min f.holdGate 0)
      absGate := max (-7000) (min f.absGate (-2000)), relGate := max (-2000) (min f.relGate (-500)) } := by
  simp only [Profile.clamp, clampInt_eq, Int.reduceLE, Int.reduceNeg]

/-! ### The hold gate (R112) -/

theorem State.decideGain_below_gate {s : State} {p : Fin 16}
    (h : (s.program p).meter.shortTerm < s.tables.profiles[(s.entry p).profile].holdGate) (boundary : Stamp) :
    s.decideGain p boundary = s := by
  have hgate : ¬ s.tables.profiles[(s.entry p).profile].holdGate ≤ (s.program p).meter.shortTerm := not_le.mpr h
  simp only [State.decideGain, hgate, decide_false, Bool.and_false, Bool.false_and, Bool.false_eq_true, if_false]

/-! ### WRITE and READ of a profile (R111) -/

theorem State.writeProfile_at {o : Order} {i : Fin 8} (h : o.index = i.val) (s : State) :
    s.writeProfile o =
      (if profileWrite o.args = (profileWrite o.args).clamp then .done else .clamped,
        { s with tables := { s.tables with
          profiles := s.tables.profiles.set i.val (profileWrite o.args).clamp i.isLt } }) := by
  simp only [State.writeProfile, toFin?_of_eq h, doneOr_bne]

theorem State.writeProfile_of_le {o : Order} (h : 8 ≤ o.index) (s : State) :
    s.writeProfile o = (.refusedIndex, s) := by
  simp only [State.writeProfile, toFin?_of_le h]

theorem Order.readEntry_at {o : Order} {n : Nat} {i : Fin n} (h : o.index = i.val) (bytes : Fin n → List Byte) :
    o.readEntry n bytes = (.done, o.args.take 2 ++ bytes i) := by
  simp only [Order.readEntry, toFin?_of_eq h, Order.echo]

theorem Order.readEntry_of_le {o : Order} {n : Nat} (h : n ≤ o.index) (bytes : Fin n → List Byte) :
    o.readEntry n bytes = (.refusedIndex, []) := by
  simp only [Order.readEntry, toFin?_of_le h]

/-! ### READ of coefficient taps (R69) -/

/-- One to 16 taps that end within the 32 of a phase (R68, R69). -/
theorem TapRange.inRange_iff (r : TapRange) :
    r.inRange = true ↔ r.first ≤ 31 ∧ 1 ≤ r.count ∧ r.count ≤ 16 ∧ r.first + r.count ≤ 32 := by
  simp only [TapRange.inRange, Bool.and_eq_true, decide_eq_true_eq, and_assoc]

theorem State.readCoefficients_at {o : Order} {b : Fin 4} {f : Fin 65} (hb : field o.args 1 1 = b.val)
    (hf : field o.args 2 1 = f.val) (s : State) : s.readCoefficients o =
      if (tapRange o.args).inRange = true then
        (.done, o.args.take 5 ++ ((s.tables.banks[b][f].toList.drop (field o.args 3 1)).take
          (field o.args 4 1)).flatMap fun c => beBytes 3 c.toInt)
      else (.refusedValue, []) := by
  have hbank : toFin? 4 (tapRange o.args).bank = some b := toFin?_of_eq hb
  have hphase : toFin? 65 (tapRange o.args).phase = some f := toFin?_of_eq hf
  simp only [State.readCoefficients, hbank, hphase]
  cases (tapRange o.args).inRange <;> rfl

theorem State.readCoefficients_of_le {o : Order} (h : 4 ≤ field o.args 1 1 ∨ 65 ≤ field o.args 2 1) (s : State) :
    s.readCoefficients o = (.refusedIndex, []) := by
  rcases h with hbank | hphase
  · have hnone : toFin? 4 (tapRange o.args).bank = none := toFin?_of_le hbank
    simp only [State.readCoefficients, hnone]
  · have hnone : toFin? 65 (tapRange o.args).phase = none := toFin?_of_le hphase
    cases hb : toFin? 4 (tapRange o.args).bank <;> simp only [State.readCoefficients, hb, hnone]

/-! ### The three orders taken now (R166, R168) -/

section Taken
variable {s : State} {o : Order} (h : s.takesNow o)
include h

theorem exec_writeProfile_of_takes (hrow : o.row = .writeProfile) :
    exec .writeProfile s = .next (State.finish o (s.dropHead.writeProfile o)) :=
  congrArg Host.Outcome.next (State.orderCommand_of_takes h hrow _)

theorem exec_readProfile_of_takes (hrow : o.row = .readProfile) :
    exec .readProfile s = .next (s.dropHead.finishRead o (s.dropHead.readProfile o)) :=
  congrArg Host.Outcome.next (State.orderCommand_of_takes h hrow _)

theorem exec_readCoefficients_of_takes (hrow : o.row = .readCoefficients) :
    exec .readCoefficients s = .next (s.dropHead.finishRead o (s.dropHead.readCoefficients o)) :=
  congrArg Host.Outcome.next (State.orderCommand_of_takes h hrow _)

end Taken

/-- Settles O39: each order is its own function on the part without the head order, and that function has one
equation for an index within the table and one for an index beyond it. -/
theorem profilesAndTapsAnswer : Obligations.ProfilesAndTapsAnswer := by
  refine ⟨fun s p boundary hgate => State.decideGain_below_gate hgate boundary, fun s o htakes =>
    ⟨fun hrow => ?write, fun hrow => ?read, fun hrow => ?taps⟩⟩
  case write =>
    rw [exec_writeProfile_of_takes htakes hrow]
    refine ⟨fun i hi => ?_, fun hi => ?_⟩
    · rw [State.writeProfile_at hi, Profile.clamp_eq, State.dropHead_tables]
      rfl
    · rw [State.writeProfile_of_le hi]
      rfl
  case read =>
    rw [exec_readProfile_of_takes htakes hrow]
    refine ⟨fun i hi => ?_, fun hi => ?_⟩
    · rw [State.readProfile, Order.readEntry_at hi, State.dropHead_tables]
      rfl
    · rw [State.readProfile, Order.readEntry_of_le hi]
      rfl
  case taps =>
    rw [exec_readCoefficients_of_takes htakes hrow]
    refine ⟨fun b f hb hf => ⟨fun hfirst hone hcount hend => ?_, fun hbad => ?_⟩, fun hindex => ?_⟩
    · have hin : (tapRange o.args).inRange = true :=
        (TapRange.inRange_iff _).mpr ⟨hfirst, hone, hcount, hend⟩
      rw [State.readCoefficients_at hb hf, if_pos hin, State.dropHead_tables]
      rfl
    · have hout : ¬ (tapRange o.args).inRange = true := by
        rw [TapRange.inRange_iff]
        simp only [tapRange]
        omega
      rw [State.readCoefficients_at hb hf, if_neg hout]
      rfl
    · rw [State.readCoefficients_of_le hindex]
      rfl

end Sys2Proof.Machine
end

section
/-! SUPPORT. What the three resets leave of the Egress Framer (R164, R175), of the profile table (R38) and of the
Gain Law (R124). -/

namespace Sys2Proof.Machine

/-! ### The Egress Framer after a reset -/

@[simp] theorem State.afterPower_egress (s : State) (straps : BitVec 6) : (s.afterPower straps).egress = {} := by
  dsimp only [State.afterPower, State.driveLines]
@[simp] theorem State.afterLine_egress (s : State) (straps : BitVec 6) :
    (s.afterLine straps).egress = { map := s.tables.map } := by
  dsimp only [State.afterLine, State.driveLines]
@[simp] theorem State.afterOrder_egress (s : State) (straps : BitVec 6) :
    (s.afterOrder straps).egress = { map := s.tables.map, sent := s.egress.sent } := by
  simp only [State.afterOrder, State.afterLine_egress]

/-- Whichever reset ends, no forwarded cue waits. -/
theorem reset_outbox {s t : State} (h : EndsPower s t ∨ EndsLine s t ∨ EndsOrder s t) : t.egress.outbox = [] := by
  rcases h with hpower | hline | horder
  · obtain ⟨straps, rfl⟩ := hpower.eq_afterPower
    rw [State.afterPower_egress]
  · obtain ⟨straps, rfl⟩ := hline.eq_afterLine
    rw [State.afterLine_egress]
  · obtain ⟨straps, rfl⟩ := horder.eq_afterOrder
    rw [State.afterOrder_egress]

/-! ### The profile table and the Gain Law after a reset -/

/-- After power-on every profile is at its power-on values (R38, R110). -/
theorem EndsPower.profile {s t : State} (h : EndsPower s t) (i : Fin 8) : t.tables.profiles[i] = {} := by
  obtain ⟨straps, rfl⟩ := h.eq_afterPower
  simp

/-- Settles O7: each reset leaves every program, and with it its gain block, at the defaults, and the outbox empty;
the table of profiles is kept except by power-on. -/
theorem gainResetValues : Obligations.GainResetValues := by
  intro s t h
  obtain ⟨hprograms, -⟩ := reset_leaves h
  refine ⟨fun p => ?_, reset_outbox h, fun hkept => congrArg Tables.profiles (tables_of_line_or_order hkept),
    fun hpower => hpower.profile⟩
  rw [State.program_of_programs hprograms p]
  exact ⟨rfl, rfl, rfl, rfl, rfl, rfl, rfl, rfl, rfl, rfl, rfl, rfl, rfl⟩

end Sys2Proof.Machine
end

section
/-! SUPPORT. What the three resets leave of the records, the two alarm lines and the rule table (R38, R141, R148). -/

namespace Sys2Proof.Machine

/-! ### The lines that the records drive (R141) -/

theorem State.drives_of_clear {s : State} {r : Fin 64} (h : (s.record r).state = .clear) (severity : Severity) :
    s.drives severity r = false := by
  have hline : (RecordState.clear == .ackWait) = false := rfl
  simp only [State.drives, h, RecordState.holding, hline, Bool.or_false, Bool.and_false]

/-- With every record CLEAR only strap fault drives a line, and that line is MAJOR (R12, R141). -/
theorem State.lineActive_of_clear {s : State} (hrunning : s.running = true)
    (hclear : ∀ r, (s.record r).state = .clear) (severity : Severity) :
    s.lineActive severity = (s.strapFault && severity == .major) := by
  have hnone : ((List.finRange 64).any fun r => s.drives severity r) = false :=
    List.any_eq_false.mpr fun r _ => ne_true_of_eq_false (State.drives_of_clear (hclear r) severity)
  rw [State.lineActive, hrunning, hnone]
  cases s.strapFault <;> rfl

theorem State.driveLines_linesOk (s : State) : s.driveLines.linesOk := ⟨rfl, rfl⟩

/-! ### The Alarm Unit as each reset leaves it -/

@[simp] theorem State.afterPower_records (s : State) (straps : BitVec 6) :
    (s.afterPower straps).alarm.records = Vector.replicate 64 {} := by
  dsimp only [State.afterPower, State.driveLines]
@[simp] theorem State.afterLine_records (s : State) (straps : BitVec 6) :
    (s.afterLine straps).alarm.records = Vector.replicate 64 {} := by
  dsimp only [State.afterLine, State.driveLines]
@[simp] theorem State.afterOrder_records (s : State) (straps : BitVec 6) :
    (s.afterOrder straps).alarm.records = Vector.replicate 64 {} := by
  simp only [State.afterOrder, State.afterLine_records]

theorem State.afterPower_linesOk (s : State) (straps : BitVec 6) : (s.afterPower straps).linesOk :=
  State.driveLines_linesOk _
theorem State.afterLine_linesOk (s : State) (straps : BitVec 6) : (s.afterLine straps).linesOk :=
  State.driveLines_linesOk _
theorem State.afterOrder_linesOk (s : State) (straps : BitVec 6) : (s.afterOrder straps).linesOk :=
  s.afterLine_linesOk straps

@[simp] theorem State.afterPower_running (s : State) (straps : BitVec 6) :
    (s.afterPower straps).running = !s.resetLow := by
  dsimp only [State.afterPower, State.running, State.driveLines]
  rw [Bool.not_false, Bool.true_and]
@[simp] theorem State.afterLine_running (s : State) (straps : BitVec 6) : (s.afterLine straps).running = true := rfl
@[simp] theorem State.afterOrder_running (s : State) (straps : BitVec 6) :
    (s.afterOrder straps).running = true := rfl

/-! ### The Alarm Unit after a reset (R148) -/

theorem State.record_of_records {t : State} (h : t.alarm.records = Vector.replicate 64 {}) (r : Fin 64) :
    t.record r = {} := by
  simp [State.record, h]

/-- Whichever reset ends, every record is at its reset values and the lines are as the records call for. -/
theorem reset_records_lines {s t : State} (h : EndsPower s t ∨ EndsLine s t ∨ EndsOrder s t) :
    t.alarm.records = Vector.replicate 64 {} ∧ t.linesOk := by
  rcases h with hpower | hline | horder
  · obtain ⟨straps, rfl⟩ := hpower.eq_afterPower
    exact ⟨State.afterPower_records s straps, State.afterPower_linesOk s straps⟩
  · obtain ⟨straps, rfl⟩ := hline.eq_afterLine
    exact ⟨State.afterLine_records s straps, State.afterLine_linesOk s straps⟩
  · obtain ⟨straps, rfl⟩ := horder.eq_afterOrder
    exact ⟨State.afterOrder_records s straps, State.afterOrder_linesOk s straps⟩

/-- Each reset ends with the part running, the power-on reset where RESET_N is high (R180). -/
theorem reset_running {s t : State} (h : (EndsPower s t ∧ s.resetLow = false) ∨ EndsLine s t ∨ EndsOrder s t) :
    t.running = true := by
  rcases h with ⟨hpower, hhigh⟩ | hline | horder
  · obtain ⟨straps, rfl⟩ := hpower.eq_afterPower
    rw [State.afterPower_running, hhigh, Bool.not_false]
  · obtain ⟨straps, rfl⟩ := hline.eq_afterLine
    exact State.afterLine_running s straps
  · obtain ⟨straps, rfl⟩ := horder.eq_afterOrder
    exact State.afterOrder_running s straps

/-- After power-on every rule is at its power-on values (R38, R128). -/
theorem EndsPower.rule {s t : State} (h : EndsPower s t) (r : Fin 64) : t.rule r = {} := by
  obtain ⟨straps, rfl⟩ := h.eq_afterPower
  simp [State.rule]

/-- Settles O8: each reset leaves the records, and every program with its hold counts, at the defaults, so that only
strap fault can drive a line; the table of rules is kept except by power-on. -/
theorem alarmResetValues : Obligations.AlarmResetValues := by
  intro s t h
  have hends : EndsPower s t ∨ EndsLine s t ∨ EndsOrder s t := h.imp_left And.left
  obtain ⟨hprograms, -, -, -, hnotices⟩ := reset_leaves hends
  obtain ⟨hrecords, hmajor, hminor⟩ := reset_records_lines hends
  have hrecord : ∀ r, t.record r = {} := State.record_of_records hrecords
  have hline : ∀ severity, t.lineActive severity = (t.strapFault && severity == .major) :=
    State.lineActive_of_clear (reset_running h) fun r => congrArg Record.state (hrecord r)
  refine ⟨fun r => ?records, fun p => ?holds, ?minor, ?major, hnotices,
    fun hkept => congrArg Tables.rules (tables_of_line_or_order hkept), fun hpower => hpower.rule⟩
  case records =>
    rw [hrecord r]
    exact ⟨rfl, rfl, rfl, rfl, rfl, rfl, rfl, rfl, rfl, rfl, rfl, rfl⟩
  case holds =>
    rw [State.program_of_programs hprograms p]
    exact ⟨rfl, rfl, rfl, rfl⟩
  case minor =>
    rw [hminor, hline]
    exact Bool.and_false _
  case major =>
    rw [hmajor, hline, beq_self_eq_true, Bool.and_true]

end Sys2Proof.Machine
end

section
/-! SUPPORT. What every operation on sound, schedule, meter and store keeps, said once: it moves lanes, words, programs,
egress lanes and the outbox alone, leaves PARKED lanes and programs PARKED and the hold counts as they stand, and keeps
what lies in its range there. Each such operation has one lemma here, and every invariant is read off it. -/

namespace Sys2Proof.Machine

/-! ### Ranges and bounds, block by block -/

/-- The counters of a lane lie in their range (R20, R36). -/
def Lane.inRange (x : Lane) : Prop :=
  x.idle ≤ 65535 ∧ x.concealed ≤ 65535 ∧ x.late ≤ 65535 ∧ x.dropped ≤ 65535

/-- Fade and resync count lie in their ranges (R47, R50). -/
def Play.inRange (x : Play) : Prop := x.fade ≤ 480 ∧ x.resyncs ≤ 65535

/-- Trim and counters of the converter lie in their ranges (R56, R70). -/
def Converter.inRange (x : Converter) : Prop := x.trim.natAbs ≤ 8389 ∧ x.starved ≤ 65535 ∧ x.clips ≤ 65535

/-- Ramp and counters of the Gain Law lie in their ranges (R119, R123). -/
def Gain.inRange (x : Gain) : Prop :=
  x.rampStep ≤ 480 ∧ x.coalesces ≤ 65535 ∧ x.gainDrops ≤ 65535 ∧ x.cueDrops ≤ 65535 ∧ x.forwardDrops ≤ 65535 ∧
    x.clips ≤ 65535

/-- Every position, trim and counter of a program lies in its range. -/
def Program.inRange (x : Program) : Prop :=
  x.play.inRange ∧ x.conv.inRange ∧ x.servo.pictureIdle ≤ 65535 ∧ x.meter.cueOverflows ≤ 65535 ∧ x.gain.inRange

/-- The meter's lists hold at most their number of entries (R96, R101). -/
def Meter.bounded (x : Meter) : Prop := x.cues.length ≤ 16 ∧ x.history.length ≤ 30

/-- Every list of a program holds at most its number of entries (R96, R101, R113). -/
def Program.bounded (x : Program) : Prop := x.gain.schedule.length ≤ 128 ∧ x.meter.bounded

/-! ### One program -/

/-- A program moves in order: PARKED or not as it was, its hold counts as they stand, ranges and bounds kept. -/
structure Program.Orderly (x y : Program) : Prop where
  parked : y.play.state = .parked ↔ x.play.state = .parked
  holds : y.holds = x.holds
  ranges : x.inRange → y.inRange
  bounds : x.bounded → y.bounded

/-- A program moves within its state: its play state, its fade target and what that rests on, and its changeover stand
(R50, R154), and ranges and bounds are kept. -/
structure Program.Tranquil (x y : Program) : Prop where
  state : y.play.state = x.play.state
  target : y.play.target = x.play.target
  elapsed : y.play.elapsed = x.play.elapsed
  phase : y.servo.phase.isNone = x.servo.phase.isNone
  change : y.change = x.change
  holds : y.holds = x.holds
  ranges : x.inRange → y.inRange
  bounds : x.bounded → y.bounded

theorem Program.Orderly.refl (x : Program) : x.Orderly x := ⟨Iff.rfl, rfl, id, id⟩

theorem Program.Orderly.trans {x y z : Program} (h : x.Orderly y) (k : y.Orderly z) : x.Orderly z :=
  ⟨k.parked.trans h.parked, k.holds.trans h.holds, k.ranges ∘ h.ranges, k.bounds ∘ h.bounds⟩

theorem Program.Tranquil.refl (x : Program) : x.Tranquil x := ⟨rfl, rfl, rfl, rfl, rfl, rfl, id, id⟩

theorem Program.Tranquil.trans {x y z : Program} (h : x.Tranquil y) (k : y.Tranquil z) : x.Tranquil z :=
  ⟨k.state.trans h.state, k.target.trans h.target, k.elapsed.trans h.elapsed, k.phase.trans h.phase,
    k.change.trans h.change, k.holds.trans h.holds, k.ranges ∘ h.ranges, k.bounds ∘ h.bounds⟩

theorem Program.Tranquil.toOrderly {x y : Program} (h : x.Tranquil y) : x.Orderly y :=
  ⟨by rw [h.state], h.holds, h.ranges, h.bounds⟩

theorem Program.Tranquil.fade {x y : Program} (h : x.Tranquil y) : y.fadeTarget = x.fadeTarget := by
  simp only [Program.fadeTarget, h.state, h.elapsed, h.phase, h.holds]

/-- A gain block that keeps its ranges and the bound of its schedule. -/
theorem Program.Tranquil.gain (x : Program) {g : Gain} (hr : x.gain.inRange → g.inRange := by exact id)
    (hb : x.gain.schedule.length ≤ 128 → g.schedule.length ≤ 128 := by exact id) : x.Tranquil { x with gain := g } where
  state := rfl
  elapsed := rfl
  phase := rfl
  change := rfl
  holds := rfl
  ranges := fun ⟨hplay, hconv, hservo, hmeter, hgain⟩ => ⟨hplay, hconv, hservo, hmeter, hr hgain⟩
  bounds := fun ⟨hschedule, hmeter⟩ => ⟨hb hschedule, hmeter⟩
  target := rfl

/-- A meter that keeps its overflow count in its range and its lists within their bounds. -/
theorem Program.Tranquil.meter (x : Program) {m : Meter}
    (hr : x.meter.cueOverflows ≤ 65535 → m.cueOverflows ≤ 65535 := by exact id)
    (hb : x.meter.bounded → m.bounded := by exact id) : x.Tranquil { x with meter := m } where
  state := rfl
  elapsed := rfl
  phase := rfl
  change := rfl
  holds := rfl
  ranges := fun ⟨hplay, hconv, hservo, hmeter, hgain⟩ => ⟨hplay, hconv, hservo, hr hmeter, hgain⟩
  bounds := fun ⟨hschedule, hmeter⟩ => ⟨hschedule, hb hmeter⟩
  target := rfl

/-- A converter that keeps its trim and counters in their ranges. -/
theorem Program.Tranquil.conv (x : Program) {c : Converter} (hr : x.conv.inRange → c.inRange := by exact id) :
    x.Tranquil { x with conv := c } where
  state := rfl
  elapsed := rfl
  phase := rfl
  change := rfl
  holds := rfl
  ranges := fun ⟨hplay, hconv, hservo, hmeter, hgain⟩ => ⟨hplay, hr hconv, hservo, hmeter, hgain⟩
  bounds := id
  target := rfl

/-- A servo that keeps its picture idle time in its range and its jump phase. -/
theorem Program.Tranquil.servo (x : Program) {v : Servo}
    (hphase : v.phase.isNone = x.servo.phase.isNone := by exact rfl)
    (hr : x.servo.pictureIdle ≤ 65535 → v.pictureIdle ≤ 65535 := by exact id) : x.Tranquil { x with servo := v } where
  state := rfl
  elapsed := rfl
  phase := hphase
  change := rfl
  holds := rfl
  ranges := fun ⟨hplay, hconv, hservo, hmeter, hgain⟩ => ⟨hplay, hconv, hr hservo, hmeter, hgain⟩
  bounds := id
  target := rfl

/-- The same where the meter hands events to the Alarm Unit. -/
theorem Program.Tranquil.meterEvents (x : Program) {m : Meter} {v : Events}
    (hr : x.meter.cueOverflows ≤ 65535 → m.cueOverflows ≤ 65535)
    (hb : x.meter.bounded → m.bounded) : x.Tranquil { x with meter := m, events := v } :=
  (Program.Tranquil.meter x hr hb).trans ⟨rfl, rfl, rfl, rfl, rfl, rfl, id, id⟩

theorem Program.Tranquil.events (x : Program) (v : Events) : x.Tranquil { x with events := v } :=
  ⟨rfl, rfl, rfl, rfl, rfl, rfl, id, id⟩

/-- Fade and warm-up may move where the fade stays in its range and play state, target and warm-up flag stand. -/
theorem Program.Tranquil.play (x : Program) {y : Play} (hstate : y.state = x.play.state)
    (htarget : y.target = x.play.target) (helapsed : y.elapsed = x.play.elapsed) (hr : x.play.inRange → y.inRange) :
    x.Tranquil { x with play := y } where
  state := hstate
  elapsed := helapsed
  phase := rfl
  change := rfl
  holds := rfl
  ranges := fun ⟨hplay, hconv, hservo, hmeter, hgain⟩ => ⟨hr hplay, hconv, hservo, hmeter, hgain⟩
  bounds := id
  target := htarget

/-! ### The part -/

/-- A lane moves in order: PARKED or not as it was, its counters in their range. -/
def Lane.Orderly (x y : Lane) : Prop := (y.status = .parked ↔ x.status = .parked) ∧ (x.inRange → y.inRange)

/-- The part moves in order: lanes, words, programs, the two lines, egress lanes and the outbox alone, and these within
their ranges and bounds. -/
structure State.Orderly (s t : State) : Prop where
  frame : t = { s with
    lanes := t.lanes, mem := t.mem, programs := t.programs
    alarm := { s.alarm with majorLine := t.alarm.majorLine, minorLine := t.alarm.minorLine }
    egress := { s.egress with lanes := t.egress.lanes, outbox := t.egress.outbox } }
  lanes : ∀ l, (s.lane l).Orderly (t.lane l)
  programs : ∀ p, (s.program p).Orderly (t.program p)
  mem : s.mem.wf = true → t.mem.wf = true
  outbox : s.egress.outbox.length ≤ 8 → t.egress.outbox.length ≤ 8
  crossfades : ∀ e, (s.egressLane e).x ≤ 960 → (t.egressLane e).x ≤ 960

/-- A lane moves within its state: its state and idle time stand, and its counters stay in their range. -/
structure Lane.Tranquil (x y : Lane) : Prop where
  status : y.status = x.status
  idle : y.idle = x.idle
  ranges : x.inRange → y.inRange

/-- The part moves within its states: lanes, words, programs and the outbox alone move, lanes and programs within their
states, and ranges and bounds are kept. -/
structure State.Tranquil (s t : State) : Prop where
  frame : t = { s with
    lanes := t.lanes, mem := t.mem, programs := t.programs, egress := { s.egress with outbox := t.egress.outbox } }
  lanes : ∀ l, (s.lane l).Tranquil (t.lane l)
  programs : ∀ p, (s.program p).Tranquil (t.program p)
  mem : s.mem.wf = true → t.mem.wf = true
  outbox : s.egress.outbox.length ≤ 8 → t.egress.outbox.length ≤ 8

theorem State.Orderly.refl (s : State) : s.Orderly s :=
  ⟨rfl, fun _ => ⟨Iff.rfl, id⟩, fun _ => .refl _, id, id, fun _ => id⟩

theorem State.Orderly.trans {s t u : State} (h : s.Orderly t) (k : t.Orderly u) : s.Orderly u where
  frame := by
    have hk := k.frame
    rw [h.frame] at hk
    exact hk
  lanes l := ⟨(k.lanes l).1.trans (h.lanes l).1, (k.lanes l).2 ∘ (h.lanes l).2⟩
  programs p := (h.programs p).trans (k.programs p)
  mem := k.mem ∘ h.mem
  outbox := k.outbox ∘ h.outbox
  crossfades e := k.crossfades e ∘ h.crossfades e

theorem Lane.Tranquil.refl (x : Lane) : x.Tranquil x := ⟨rfl, rfl, id⟩

theorem State.Tranquil.refl (s : State) : s.Tranquil s := ⟨rfl, fun _ => .refl _, fun _ => .refl _, id, id⟩

theorem State.Tranquil.trans {s t u : State} (h : s.Tranquil t) (k : t.Tranquil u) : s.Tranquil u where
  frame := by
    have hk := k.frame
    rw [h.frame] at hk
    exact hk
  lanes l := ⟨(k.lanes l).status.trans (h.lanes l).status, (k.lanes l).idle.trans (h.lanes l).idle,
    (k.lanes l).ranges ∘ (h.lanes l).ranges⟩
  programs p := (h.programs p).trans (k.programs p)
  mem := k.mem ∘ h.mem
  outbox := k.outbox ∘ h.outbox

theorem State.Tranquil.alarm {s t : State} (h : s.Tranquil t) : t.alarm = s.alarm :=
  (congrArg State.alarm h.frame).trans rfl

theorem State.Tranquil.egressLanes {s t : State} (h : s.Tranquil t) : t.egress.lanes = s.egress.lanes :=
  (congrArg (fun u : State => u.egress.lanes) h.frame).trans rfl

theorem State.Tranquil.toOrderly {s t : State} (h : s.Tranquil t) : s.Orderly t where
  frame := by
    have hf := h.frame
    rw [h.alarm, h.egressLanes]
    exact hf
  lanes l := ⟨by rw [(h.lanes l).status], (h.lanes l).ranges⟩
  programs p := (h.programs p).toOrderly
  mem := h.mem
  outbox := h.outbox
  crossfades e := by
    rw [State.egressLane, State.egressLane, h.egressLanes]
    exact id

/-- The later of two tranquil moves, then the earlier. -/
theorem State.Tranquil.after {s t u : State} (k : t.Tranquil u) (h : s.Tranquil t) : s.Tranquil u := h.trans k

/-- Effects taken one after another keep what each keeps. -/
theorem foldl_rel {σ α : Type} {R : σ → σ → Prop} (refl : ∀ s, R s s)
    (trans : ∀ {s t u}, R s t → R t u → R s u)
    {f : σ → α → σ} (step : ∀ s a, R s (f s a)) (xs : List α) (s : σ) : R s (xs.foldl f s) := by
  induction xs generalizing s with
  | nil => exact refl s
  | cons x xs ih => exact trans (step s x) (ih (f s x))

theorem State.Tranquil.foldl {α : Type} {f : State → α → State} (step : ∀ (s : State) a, s.Tranquil (f s a)) (xs : List α)
    (s : State) : s.Tranquil (xs.foldl f s) :=
  foldl_rel State.Tranquil.refl State.Tranquil.trans step xs s

/-! ### What an orderly move leaves -/

section Frame
variable {s t : State} (h : s.Orderly t)
include h

theorem State.Orderly.pending : t.pending = s.pending := (congrArg State.pending h.frame).trans rfl
theorem State.Orderly.powerReset : t.powerReset = s.powerReset := (congrArg State.powerReset h.frame).trans rfl
theorem State.Orderly.resetLow : t.resetLow = s.resetLow := (congrArg State.resetLow h.frame).trans rfl
theorem State.Orderly.node : t.node = s.node := (congrArg State.node h.frame).trans rfl
theorem State.Orderly.tables : t.tables = s.tables := (congrArg State.tables h.frame).trans rfl
theorem State.Orderly.rx : t.rx = s.rx := (congrArg State.rx h.frame).trans rfl
theorem State.Orderly.house : t.house = s.house := (congrArg State.house h.frame).trans rfl
theorem State.Orderly.orders : t.orders = s.orders := (congrArg State.orders h.frame).trans rfl
theorem State.Orderly.records : t.alarm.records = s.alarm.records :=
  (congrArg (fun u : State => u.alarm.records) h.frame).trans rfl
theorem State.Orderly.notices : t.alarm.notices = s.alarm.notices :=
  (congrArg (fun u : State => u.alarm.notices) h.frame).trans rfl
theorem State.Orderly.map : t.egress.map = s.egress.map := (congrArg (fun u : State => u.egress.map) h.frame).trans rfl
theorem State.Orderly.mapPending : t.egress.pending = s.egress.pending :=
  (congrArg (fun u : State => u.egress.pending) h.frame).trans rfl
theorem State.Orderly.passthrough : t.egress.passthrough = s.egress.passthrough :=
  (congrArg (fun u : State => u.egress.passthrough) h.frame).trans rfl
theorem State.Orderly.shed : t.egress.shed = s.egress.shed := (congrArg (fun u : State => u.egress.shed) h.frame).trans rfl

end Frame

/-! ### The plainest updates -/

theorem State.Tranquil.setProgram {s : State} {p : Fin 16} {x : Program} (h : (s.program p).Tranquil x) :
    s.Tranquil (s.setProgram p x) := by
  refine ⟨rfl, fun _ => .refl _, fun q => ?_, id, id⟩
  by_cases hq : q = p
  · subst hq
    rwa [State.program_setProgram_self]
  · rw [State.program_setProgram_ne _ _ hq]
    exact .refl _

/-- A lane and the words of the memory move: the lane within its state, and the memory in its canonical form. -/
theorem State.Tranquil.setLaneMem {s : State} {l : Fin 32} {x : Lane} {m : DelayMem} (h : (s.lane l).Tranquil x)
    (hm : s.mem.wf = true → m.wf = true) : s.Tranquil { s.setLane l x with mem := m } := by
  have lanes : ∀ k, (s.lane k).Tranquil ((s.setLane l x).lane k) := fun k => by
    by_cases hk : k = l
    · subst hk
      rwa [State.lane_setLane_self]
    · rw [State.lane_setLane_ne _ _ hk]
      exact .refl _
  exact ⟨rfl, lanes, fun _ => .refl _, hm, id⟩

theorem State.Tranquil.setLane {s : State} {l : Fin 32} {x : Lane} (h : (s.lane l).Tranquil x) :
    s.Tranquil (s.setLane l x) := .setLaneMem (m := s.mem) h id

/-- The outbox moves within its 8 places. -/
theorem State.Tranquil.setOutbox {s : State} {b : List CueOut}
    (h : s.egress.outbox.length ≤ 8 → b.length ≤ 8) : s.Tranquil { s with egress := { s.egress with outbox := b } } :=
  ⟨rfl, fun _ => .refl _, fun _ => .refl _, id, h⟩

theorem satAdd_le (c n : Nat) : satAdd c n ≤ 65535 := Nat.min_le_right _ _

end Sys2Proof.Machine
end

section
/-! SUPPORT. The Lane Store, the schedule, the meter and the moves of a program's position: each operation is tranquil
(Chapters 2, 4, 6 and 7). -/

namespace Sys2Proof.Machine

/-! ### The Lane Store (R25 to R34) -/

/-- A lane whose state and counters stand moves within its state. -/
theorem Lane.Tranquil.of_counters {x y : Lane} (hs : y.status = x.status) (hi : y.idle = x.idle)
    (hc : y.concealed = x.concealed) (hl : y.late = x.late) (hd : y.dropped = x.dropped) : x.Tranquil y := by
  refine ⟨hs, hi, fun hx => ?_⟩
  rw [Lane.inRange] at hx ⊢
  rwa [hi, hc, hl, hd]

theorem State.writeWord_tranquil (s : State) (l : Fin 32) (t : Stamp) (x : Sample) (suspect : Bool) :
    s.Tranquil (s.writeWord l t x suspect) :=
  .setLaneMem (.of_counters rfl rfl rfl rfl rfl) fun h => DelayMem.wf_put h _ _

theorem State.writeRun_tranquil (s : State) (l : Fin 32) (t : Stamp) (suspect : Bool) (xs : List Sample) :
    s.Tranquil (s.writeRun l t suspect xs) := by
  induction xs generalizing s t with
  | nil => exact .refl s
  | cons x xs ih => exact (s.writeWord_tranquil l t x suspect).trans (ih _ _)

theorem State.concealRun_tranquil (s : State) (p : Fin 16) (l : Fin 32) (gap n : Nat) (t : Stamp) :
    s.Tranquil (s.concealRun p l gap n t).2 := by
  induction n generalizing s t with
  | zero => exact .refl s
  | succ n ih =>
    unfold State.concealRun
    dsimp only
    split <;> split
    · exact (s.writeWord_tranquil l t _ true).trans (ih _ _)
    · exact ih _ _
    · exact (s.writeWord_tranquil l t _ true).trans (ih _ _)
    · exact ih _ _

theorem State.repairRun_tranquil (s : State) (p : Fin 16) (l : Fin 32) (suspect : Bool) (W : Stamp)
    (xs : List Sample) (t : Stamp) : s.Tranquil (s.repairRun p l suspect W xs t).2 := by
  induction xs generalizing s t with
  | nil => exact .refl s
  | cons x xs ih =>
    unfold State.repairRun
    split
    · exact (s.writeWord_tranquil l t x false).trans (ih _ _)
    · exact ih _ _

theorem State.retireLane_tranquil (s : State) (l : Fin 32) (old new : Stamp) : s.Tranquil (s.retireLane l old new) :=
  .setLaneMem (.of_counters rfl rfl rfl rfl rfl) fun h => DelayMem.wf_clear h _

theorem State.retire_tranquil (s : State) (p : Fin 16) (old new : Option Stamp) : s.Tranquil (s.retire p old new) := by
  unfold State.retire
  split
  · split
    · exact .foldl (fun s l => s.retireLane_tranquil l _ _) _ s
    · exact .refl s
  · exact .refl s

theorem State.flushLane_tranquil (s : State) (l : Fin 32) : s.Tranquil (s.flushLane l) :=
  .setLaneMem (.of_counters rfl rfl rfl rfl rfl) fun h => DelayMem.wf_clear h _

theorem State.flushMembers_tranquil (s : State) (p : Fin 16) : s.Tranquil (s.flushMembers p) :=
  .foldl (fun s l => s.flushLane_tranquil l) _ s

theorem State.impair_tranquil (s : State) (p : Fin 16) : s.Tranquil (s.impair p) := .setProgram (.events _ _)

theorem State.setHorizon_tranquil (s : State) (l : Fin 32) (a : AudioIn) : s.Tranquil (s.setHorizon l a) :=
  .setLane (.of_counters rfl rfl rfl rfl rfl)

theorem State.dropParcel_tranquil (s : State) (l : Fin 32) : s.Tranquil (s.dropParcel l) :=
  .setLane ⟨rfl, rfl, fun ⟨hidle, hconcealed, hlate, _⟩ => ⟨hidle, hconcealed, hlate, satAdd_le _ _⟩⟩

/-! ### Cues and the schedule (R112 to R118) -/

theorem State.dropForward_tranquil (s : State) (p : Fin 16) : s.Tranquil (s.dropForward p) :=
  .setProgram (.gain _ (fun ⟨hramp, hcoalesces, hgain, hcue, _, hclips⟩ =>
    ⟨hramp, hcoalesces, hgain, hcue, satAdd_le _ _, hclips⟩))

theorem State.placeCue_tranquil (s : State) (c : CueOut) : s.Tranquil (s.placeCue c) := by
  have hlength : s.egress.outbox.length ≤ 8 → (s.placeCue c).egress.outbox.length ≤ 8 := State.placeCue_length c
  unfold State.placeCue at hlength ⊢
  split
  · next hroom => exact .setOutbox (by simpa only [hroom, if_true] using hlength)
  · exact s.dropForward_tranquil _

theorem State.forwardCue_tranquil (s : State) (p : Fin 16) (kind : CueType) (mark : BitVec 16) :
    s.Tranquil (s.forwardCue p kind mark) := by
  unfold State.forwardCue
  split
  · exact s.placeCue_tranquil _
  · exact s.dropForward_tranquil p

theorem State.takeEffect_tranquil (s : State) (p : Fin 16) (e : Entry) : s.Tranquil (s.takeEffect p e) := by
  cases e with
  | gain t value =>
    exact .setProgram (.gain _ (fun ⟨_, hcounters⟩ => ⟨Nat.zero_le _, hcounters⟩))
  | cue t kind mark => exact s.forwardCue_tranquil p kind mark

theorem State.playOut_tranquil (s : State) (p : Fin 16) : s.Tranquil (s.playOut p) := by
  unfold State.playOut
  dsimp only
  split
  · exact .refl s
  · refine (State.Tranquil.foldl (fun s e => s.takeEffect_tranquil p e) _ _).after ?_
    exact .setProgram (.gain _ (hb := fun h => (List.length_filter_le _ _).trans h))

theorem insertEntry_length (e : Entry) (xs : List Entry) : (insertEntry e xs).length = xs.length + 1 := by
  induction xs with
  | nil => rfl
  | cons x xs ih =>
    unfold insertEntry
    split
    · rfl
    · simp only [List.length_cons, ih]

theorem mergeNewestGain_length {value : Int} {xs ys : List Entry} (h : mergeNewestGain value xs = some ys) :
    ys.length = xs.length := by
  induction xs generalizing ys with
  | nil => cases h
  | cons x xs ih =>
    unfold mergeNewestGain at h
    split at h
    · next rest hrest => cases h; simp only [List.length_cons, ih hrest]
    · split at h
      · cases h; rfl
      · cases h

/-- The program has a read position, and the stamp is not ahead of it (R114). -/
def State.reached (s : State) (p : Fin 16) (t : Stamp) : Bool :=
  (s.program p).conv.pos.any fun P => !ahead t P.stamp

/-- An entry that the read position has reached takes effect at once (R114). -/
theorem State.offer_of_reached {s : State} {p : Fin 16} {e : Entry} (h : s.reached p e.stamp = true) :
    s.offer p e = (true, s.takeEffect p e) := by
  cases hpos : (s.program p).conv.pos with
  | none => simp [State.reached, hpos] at h
  | some P =>
    simp only [State.reached, hpos, Option.any_some] at h
    simp only [State.offer, hpos, h, if_true]

/-- Another is stored where there is room (R113). -/
theorem State.offer_of_room {s : State} {p : Fin 16} {e : Entry} (h : s.reached p e.stamp = false)
    (hroom : (s.program p).gain.schedule.length < 128) :
    s.offer p e = (true, s.setProgram p { s.program p with gain := { (s.program p).gain with
      schedule := insertEntry e (s.program p).gain.schedule } }) := by
  cases hpos : (s.program p).conv.pos with
  | none => simp only [State.offer, hpos, Bool.false_eq_true, if_false, scheduleSize, hroom, if_true]
  | some P =>
    simp only [State.reached, hpos, Option.any_some] at h
    simp only [State.offer, hpos, h, Bool.false_eq_true, if_false, scheduleSize, hroom, if_true]

/-- And otherwise merged or dropped by its kind (R114, R116). -/
theorem State.offer_of_full {s : State} {p : Fin 16} {e : Entry} (h : s.reached p e.stamp = false)
    (hfull : 128 ≤ (s.program p).gain.schedule.length) :
    s.offer p e = match e with
      | .gain _ value =>
        match mergeNewestGain value (s.program p).gain.schedule with
        | some merged => (true, s.setProgram p { s.program p with gain := { (s.program p).gain with
            schedule := merged, coalesces := satAdd (s.program p).gain.coalesces 1 } })
        | none => (false, s.setProgram p { s.program p with gain := { (s.program p).gain with
            gainDrops := satAdd (s.program p).gain.gainDrops 1 } })
      | .cue _ _ _ => (false, s.setProgram p { s.program p with gain := { (s.program p).gain with
            cueDrops := satAdd (s.program p).gain.cueDrops 1 } }) := by
  have hlt : ¬ (s.program p).gain.schedule.length < 128 := Nat.not_lt.mpr hfull
  cases hpos : (s.program p).conv.pos with
  | none =>
    simp only [State.offer, hpos, Bool.false_eq_true, if_false, scheduleSize, hlt]
    cases e <;> rfl
  | some P =>
    simp only [State.reached, hpos, Option.any_some] at h
    simp only [State.offer, hpos, h, Bool.false_eq_true, if_false, scheduleSize, hlt]
    cases e <;> rfl

theorem State.offer_tranquil (s : State) (p : Fin 16) (e : Entry) : s.Tranquil (s.offer p e).2 := by
  cases hreached : s.reached p e.stamp with
  | true =>
    rw [State.offer_of_reached hreached]
    exact s.takeEffect_tranquil p e
  | false =>
    rcases Nat.lt_or_ge (s.program p).gain.schedule.length 128 with hroom | hfull
    · rw [State.offer_of_room hreached hroom]
      exact .setProgram (.gain _ (hb := fun _ => (insertEntry_length e _).trans_le hroom))
    · rw [State.offer_of_full hreached hfull]
      cases e with
      | gain t value =>
        dsimp only
        split
        · next merged hmerged =>
          exact .setProgram (.gain _ (fun ⟨hramp, _, hcounters⟩ => ⟨hramp, satAdd_le _ _, hcounters⟩)
            fun h => (mergeNewestGain_length hmerged).trans_le h)
        · exact .setProgram (.gain _ (fun ⟨hramp, hcoalesces, _, hcounters⟩ =>
            ⟨hramp, hcoalesces, satAdd_le _ _, hcounters⟩))
      | cue t kind mark =>
        exact .setProgram (.gain _ (fun ⟨hramp, hcoalesces, hgain, _, hcounters⟩ =>
            ⟨hramp, hcoalesces, hgain, satAdd_le _ _, hcounters⟩))

/-! ### The read position (R33, R58, R60) -/

theorem State.movePos_tranquil (s : State) (p : Fin 16) (P : ReadPos) : s.Tranquil (s.movePos p P) := by
  unfold State.movePos
  exact (State.playOut_tranquil _ p).after ((State.retire_tranquil _ p _ _).after (.setProgram (.conv _)))

theorem State.setPos_tranquil (s : State) (p : Fin 16) (t : Stamp) : s.Tranquil (s.setPos p t) := by
  unfold State.setPos
  exact (State.movePos_tranquil _ p _).after (.setProgram (.conv _))

theorem State.inProgramOrder_tranquil (s : State) (p : Fin 16) {effect : State → State}
    (h : ∀ s : State, s.Tranquil (effect s)) : s.Tranquil (s.inProgramOrder p effect) := by
  unfold State.inProgramOrder
  refine .trans (.setOutbox fun hb => ?_) ((h _).trans (.foldl State.placeCue_tranquil _ _))
  refine le_trans ?_ hb
  calc _ ≤ s.egress.cuesBefore.length + s.egress.cuesSince.length := by
        rw [List.length_append]
        exact Nat.add_le_add_left (List.length_filter_le _ _) _
    _ = s.egress.outbox.length := by
        rw [← List.length_append, Egress.cuesBefore, Egress.cuesSince, List.take_append_drop]

/-! ### The meter (Chapter 6) -/

theorem pushEnergy_length (history : List Nat) (z : Nat) : (pushEnergy history z).length ≤ 30 := by
  simp only [pushEnergy, List.length_drop]
  omega

theorem Meter.enterBlock_lists (m : Meter) (unit : Nat) (absGate : Int) :
    (m.enterBlock unit absGate).cueOverflows = m.cueOverflows ∧ (m.enterBlock unit absGate).cues = m.cues ∧
      (m.enterBlock unit absGate).history = m.history := by
  unfold Meter.enterBlock
  dsimp only
  split <;> exact ⟨rfl, rfl, rfl⟩

theorem Meter.closeSegment_lists (m : Meter) (cls : RateClass) (weights : List Nat) (f : Profile) :
    (m.closeSegment cls weights f).cueOverflows = m.cueOverflows ∧ (m.closeSegment cls weights f).cues = m.cues ∧
      (m.closeSegment cls weights f).history.length ≤ 30 := by
  unfold Meter.closeSegment
  dsimp only
  refine ⟨(Meter.enterBlock_lists _ _ _).1, (Meter.enterBlock_lists _ _ _).2.1, ?_⟩
  rw [(Meter.enterBlock_lists _ _ _).2.2]
  exact pushEnergy_length _ _

theorem Meter.applyCue_lists (m : Meter) (c : Stamp × CueType) :
    (m.applyCue c).1.cueOverflows = m.cueOverflows ∧ (m.applyCue c).1.cues = m.cues ∧
      (m.applyCue c).1.history = m.history := by
  unfold Meter.applyCue
  split <;> exact ⟨rfl, rfl, rfl⟩

theorem Meter.applyCues_lists (cs : List (Stamp × CueType)) (m : Meter) :
    (m.applyCues cs).1.cueOverflows = m.cueOverflows ∧ (m.applyCues cs).1.cues = m.cues ∧
      (m.applyCues cs).1.history = m.history := by
  induction cs generalizing m with
  | nil => exact ⟨rfl, rfl, rfl⟩
  | cons c cs ih =>
    obtain ⟨ho, hc, hh⟩ := ih (m.applyCue c).1
    obtain ⟨ho', hc', hh'⟩ := m.applyCue_lists c
    exact ⟨ho.trans ho', hc.trans hc', hh.trans hh'⟩

theorem insertCue_length (c : Stamp × CueType) (xs : List (Stamp × CueType)) :
    (insertCue c xs).length = xs.length + 1 := by
  induction xs with
  | nil => rfl
  | cons x xs ih =>
    unfold insertCue
    split
    · rfl
    · simp only [List.length_cons, ih]

theorem State.listCue_tranquil (s : State) (p : Fin 16) (t : Stamp) (kind : CueType) :
    s.Tranquil (s.setProgram p { s.program p with meter := (s.program p).meter.listCue t kind }) := by
  refine .setProgram ?_
  unfold Meter.listCue
  split
  · exact .refl _
  · split
    · next hroom => exact .meter _ (hb := fun ⟨_, hh⟩ => ⟨(insertCue_length _ _).trans_le hroom, hh⟩)
    · exact .meter _ (fun _ => satAdd_le _ _)

theorem State.decideGain_tranquil (s : State) (p : Fin 16) (boundary : Stamp) :
    s.Tranquil (s.decideGain p boundary) := by
  unfold State.decideGain
  dsimp only
  split
  · split
    · split
      · exact (s.offer_tranquil p _).trans (.setProgram (.gain _))
      · exact s.offer_tranquil p _
    · exact .refl s
  · exact .refl s

theorem State.stepReport_tranquil (s : State) (p : Fin 16) : s.Tranquil (s.stepReport p) := by
  unfold State.stepReport
  dsimp only
  split
  · exact .setProgram (.meter _)
  · split <;> exact .setProgram (.meter _)

theorem State.setMemberMeters_tranquil (s : State) (p : Fin 16) (members : List MemberMeter) :
    s.Tranquil (s.setProgram p { s.program p with meter := { (s.program p).meter with members := members } }) :=
  .setProgram (.meter _)

theorem State.endSegment_tranquil (s : State) (p : Fin 16) : s.Tranquil (s.endSegment p) := by
  unfold State.endSegment
  dsimp only
  refine (State.setMemberMeters_tranquil _ p _).after ((State.stepReport_tranquil _ p).after
    ((State.Tranquil.setProgram (.meterEvents _ ?over2 ?lists2)).after
      ((State.decideGain_tranquil _ p _).after (.setProgram (.meterEvents _ ?overflow ?lists)))))
  case overflow => exact fun h => (Meter.closeSegment_lists _ _ _ _).1.trans_le h
  case lists =>
    exact fun ⟨hc, _⟩ => ⟨(congrArg List.length (Meter.closeSegment_lists _ _ _ _).2.1).trans_le hc,
      (Meter.closeSegment_lists _ _ _ _).2.2⟩
  case over2 =>
    intro h
    rw [(Meter.applyCues_lists _ _).1]
    exact h
  case lists2 =>
    obtain ⟨-, hcues, hhistory⟩ := Meter.applyCues_lists _ _
    exact fun ⟨hc, hh⟩ => ⟨(congrArg List.length hcues).trans_le ((List.length_filter_le _ _).trans hc),
      (congrArg List.length hhistory).trans_le hh⟩

theorem State.measureStamp_tranquil (s : State) (p : Fin 16) (edge : Option Stamp) (t : Stamp) :
    s.Tranquil (s.measureStamp p edge t) := by
  unfold State.measureStamp
  exact .setProgram (.meter _)

theorem State.measureRun_tranquil (s : State) (p : Fin 16) (edge : Option Stamp) (n : Nat) (t : Stamp) :
    s.Tranquil (s.measureRun p edge n t) := by
  induction n generalizing s t with
  | zero => exact .refl s
  | succ n ih =>
    unfold State.measureRun
    dsimp only
    split
    · exact (s.measureStamp_tranquil p edge t).trans ((State.endSegment_tranquil _ p).trans (ih _ _))
    · exact (s.measureStamp_tranquil p edge t).trans (ih _ _)

theorem State.moveMeter_tranquil (s : State) (p : Fin 16) (target : Stamp) : s.Tranquil (s.moveMeter p target) := by
  unfold State.moveMeter
  split
  · exact .refl s
  · split
    · exact (State.retire_tranquil _ p _ _).after ((State.Tranquil.setProgram (.meter _)).after
        (s.measureRun_tranquil p _ _ _))
    · exact .refl s

theorem State.meterFollows_tranquil (s : State) (p : Fin 16) (W : Stamp) : s.Tranquil (s.meterFollows p W) :=
  s.moveMeter_tranquil p _

theorem State.enterCue_tranquil (s : State) (p : Fin 16) (t : Stamp) (kind : CueType) (mark : BitVec 16) :
    s.Tranquil (s.enterCue p t kind mark) := (s.offer_tranquil p _).trans (State.listCue_tranquil _ p t kind)

/-! ### Arriving parcels but for a request of resynchronizing (R23 to R31) -/

/-- What a SUSPECT-flagged write reports (R35). -/
theorem State.writeMark_tranquil (s : State) (p : Fin 16) (suspect : Bool) :
    s.Tranquil (if suspect = true then s.impair p else s) := by
  split
  · exact s.impair_tranquil p
  · exact .refl s

/-- And the meter behind a leader's write (R91). -/
theorem State.writeReport_tranquil (s : State) (p : Fin 16) (suspect isLeader : Bool) (W : Stamp) :
    s.Tranquil (if isLeader = true then (if suspect = true then s.impair p else s).meterFollows p W
      else if suspect = true then s.impair p else s) := by
  split
  · exact (State.meterFollows_tranquil _ p W).after (s.writeMark_tranquil p suspect)
  · exact s.writeMark_tranquil p suspect

theorem State.writeParcel_tranquil (s : State) (p : Fin 16) (l : Fin 32) (isLeader : Bool) (a : AudioIn) :
    s.Tranquil (s.writeParcel p l isLeader a) := by
  unfold State.writeParcel
  exact (State.writeReport_tranquil _ p a.suspect isLeader a.last).after ((State.setHorizon_tranquil _ l a).after
    (s.writeRun_tranquil l _ _ _))

theorem State.firstOfProgram_tranquil (s : State) (p : Fin 16) (l : Fin 32) (a : AudioIn) :
    s.Tranquil (s.firstOfProgram p l a) := by
  unfold State.firstOfProgram
  exact (State.setPos_tranquil _ p _).after ((State.Tranquil.setProgram (.meter _)).after
    ((State.writeMark_tranquil _ p a.suspect).after ((State.setHorizon_tranquil _ l a).after
      (s.writeRun_tranquil l _ _ _))))

theorem State.firstParcel_tranquil (s : State) (p : Fin 16) (l : Fin 32) (isLeader : Bool) (a : AudioIn) :
    s.Tranquil (s.firstParcel p l isLeader a) := by
  unfold State.firstParcel
  split
  · split
    · exact s.firstOfProgram_tranquil p l a
    · exact .refl s
  · split
    · exact s.writeParcel_tranquil p l isLeader a
    · exact s.dropParcel_tranquil l

theorem State.concealAndWrite_tranquil (s : State) (p : Fin 16) (l : Fin 32) (isLeader : Bool) (W : Stamp)
    (a : AudioIn) : s.Tranquil (s.concealAndWrite p l isLeader W a) := by
  unfold State.concealAndWrite
  refine (State.writeParcel_tranquil _ p l isLeader a).after ((State.impair_tranquil _ p).after
    (.trans (s.concealRun_tranquil p l _ _ _) (.setLane ⟨rfl, rfl, ?_⟩)))
  exact fun ⟨hidle, _, hrest⟩ => ⟨hidle, satAdd_le _ _, hrest⟩

theorem State.lateParcel_tranquil (s : State) (p : Fin 16) (l : Fin 32) (isLeader : Bool) (W : Stamp)
    (a : AudioIn) : s.Tranquil (s.lateParcel p l isLeader W a) := by
  unfold State.lateParcel
  dsimp only
  refine .trans (s.repairRun_tranquil p l a.suspect W a.samples a.stamp) ?_
  split
  · split
    · refine (State.impair_tranquil _ p).after (.setLane ⟨rfl, rfl, ?_⟩)
      exact fun ⟨hidle, hconcealed, _, hdropped⟩ => ⟨hidle, hconcealed, satAdd_le _ _, hdropped⟩
    · exact .refl _
  · exact (State.writeReport_tranquil _ p a.suspect isLeader a.last).after ((State.setHorizon_tranquil _ l a).after
      (State.writeRun_tranquil _ l _ _ _))

end Sys2Proof.Machine
end

section
/-! SUPPORT. The moves of lanes and programs between their states (Chapters 2, 3, 5 and 9): each moves the part in order
and hands on what rests on it, so that lines and fade targets stay as they are derived (R50, R140, R141). -/

namespace Sys2Proof.Machine

/-! ### Handing on -/

/-- The part moves in order, and lines and fade targets stay as they are derived (R50, R141). -/
structure State.Handed (s t : State) : Prop extends State.Orderly s t where
  derived : s.linesOk → s.fadesOk → t.linesOk ∧ t.fadesOk

theorem State.Handed.refl (s : State) : s.Handed s := ⟨.refl s, fun hl hf => ⟨hl, hf⟩⟩

theorem State.Handed.trans {s t u : State} (h : s.Handed t) (k : t.Handed u) : s.Handed u :=
  ⟨h.toOrderly.trans k.toOrderly, fun hl hf => (h.derived hl hf).elim k.derived⟩

theorem State.Orderly.running {s t : State} (h : s.Orderly t) : t.running = s.running := by
  rw [State.running, State.running, h.powerReset, h.resetLow]

theorem State.Orderly.rule {s t : State} (h : s.Orderly t) (r : Fin 64) : t.rule r = s.rule r := by
  rw [State.rule, State.rule, h.tables]

theorem State.Orderly.entry {s t : State} (h : s.Orderly t) (p : Fin 16) : t.entry p = s.entry p := by
  rw [State.entry, State.entry, h.tables]

theorem State.Orderly.laneEntry {s t : State} (h : s.Orderly t) (l : Fin 32) : t.laneEntry l = s.laneEntry l := by
  rw [State.laneEntry, State.laneEntry, h.tables]

theorem State.Orderly.record {s t : State} (h : s.Orderly t) (r : Fin 64) : t.record r = s.record r := by
  rw [State.record, State.record, h.records]

/-- A line follows from reset, strap fault, rules and records alone (R141). -/
theorem State.lineActive_congr {s t : State} (hrun : t.running = s.running) (hnode : t.node = s.node)
    (hdrives : ∀ severity r, t.drives severity r = s.drives severity r) (severity : Severity) :
    t.lineActive severity = s.lineActive severity := by
  have hfun : t.drives severity = s.drives severity := funext (hdrives severity)
  unfold State.lineActive State.strapFault
  rw [hrun, hnode, hfun]

theorem State.Orderly.lineActive {s t : State} (h : s.Orderly t) (severity : Severity) :
    t.lineActive severity = s.lineActive severity :=
  State.lineActive_congr h.running h.node (fun _ r => by simp only [State.drives, h.rule, h.record]) severity

/-- The lines stand, and each program's fade target with what it rests on. -/
theorem State.Orderly.handed {s t : State} (h : s.Orderly t) (halarm : t.alarm = s.alarm)
    (hfade : ∀ p, (t.program p).play.target = (s.program p).play.target ∧
      (t.program p).fadeTarget = (s.program p).fadeTarget) : s.Handed t where
  toOrderly := h
  derived := fun ⟨hmajor, hminor⟩ hf => by
    refine ⟨⟨?_, ?_⟩, fun p => ?_⟩
    · rw [halarm, h.lineActive, hmajor]
    · rw [halarm, h.lineActive, hminor]
    · rw [(hfade p).1, (hfade p).2, hf p]

/-- Nothing that is handed on has moved. -/
theorem State.Tranquil.handed {s t : State} (h : s.Tranquil t) : s.Handed t :=
  h.toOrderly.handed h.alarm fun p => ⟨(h.programs p).target, (h.programs p).fade⟩

theorem State.fadesOk_followThrough (s : State) : s.followThrough.fadesOk := fun p => by
  rw [State.program_followThrough]
  rfl

theorem State.linesOk_followThrough (s : State) : s.followThrough.linesOk := by
  unfold State.followThrough
  exact State.driveLines_linesOk _

/-- Re-evaluated fade targets, changeovers and lines are an orderly move. -/
theorem State.orderly_followThrough (s : State) : s.Orderly s.followThrough where
  frame := by
    unfold State.followThrough State.driveLines State.mapPrograms
    rfl
  lanes l := by
    rw [State.lane_followThrough]
    exact ⟨Iff.rfl, id⟩
  programs p := by
    rw [State.program_followThrough]
    exact ⟨Iff.rfl, rfl, id, id⟩
  mem := by
    rw [State.followThrough_mem]
    exact id
  outbox := by
    rw [State.followThrough_egress]
    exact id
  crossfades e := by
    rw [State.egressLane_followThrough]
    exact id

/-- An orderly move that is handed on. -/
theorem State.Orderly.followed {s t : State} (h : s.Orderly t) : s.Handed t.followThrough :=
  ⟨h.trans t.orderly_followThrough, fun _ _ => ⟨t.linesOk_followThrough, t.fadesOk_followThrough⟩⟩

theorem State.Orderly.setProgram {s : State} {p : Fin 16} {x : Program} (h : (s.program p).Orderly x) :
    s.Orderly (s.setProgram p x) := by
  refine ⟨rfl, fun _ => ⟨Iff.rfl, id⟩, fun q => ?_, id, id, fun _ => id⟩
  by_cases hq : q = p
  · subst hq
    rwa [State.program_setProgram_self]
  · rw [State.program_setProgram_ne _ _ hq]
    exact .refl _

theorem State.Handed.setProgram {s : State} {p : Fin 16} {x : Program} (h : (s.program p).Orderly x)
    (htarget : x.play.target = (s.program p).play.target) (hfade : x.fadeTarget = (s.program p).fadeTarget) :
    s.Handed (s.setProgram p x) := by
  refine (State.Orderly.setProgram h).handed rfl fun q => ?_
  by_cases hq : q = p
  · subst hq
    rw [State.program_setProgram_self]
    exact ⟨htarget, hfade⟩
  · rw [State.program_setProgram_ne _ _ hq]
    exact ⟨rfl, rfl⟩

theorem State.Handed.setLane {s : State} {l : Fin 32} {x : Lane} (h : (s.lane l).Orderly x) :
    s.Handed (s.setLane l x) := by
  have lanes : ∀ k, (s.lane k).Orderly ((s.setLane l x).lane k) := fun k => by
    by_cases hk : k = l
    · subst hk
      rwa [State.lane_setLane_self]
    · rw [State.lane_setLane_ne _ _ hk]
      exact ⟨Iff.rfl, id⟩
  exact State.Orderly.handed ⟨rfl, lanes, fun _ => .refl _, id, id, fun _ => id⟩ rfl fun _ => ⟨rfl, rfl⟩

/-- Egress lanes move within their range. -/
theorem State.Handed.mapEgressLanes {s : State} {f : Fin 32 → EgressLane → EgressLane}
    (h : ∀ e x, x.x ≤ 960 → (f e x).x ≤ 960) : s.Handed (s.mapEgressLanes f) := by
  refine State.Orderly.handed ⟨?frame, fun l => ?lanes, fun p => ?programs, ?mem, ?outbox, fun e => ?crossfades⟩
    (State.mapEgressLanes_alarm s f) fun p => ?fade
  case frame =>
    unfold State.mapEgressLanes
    rfl
  case lanes =>
    rw [State.lane_mapEgressLanes]
    exact ⟨Iff.rfl, id⟩
  case programs =>
    rw [State.program_mapEgressLanes]
    exact .refl _
  case mem =>
    rw [State.mapEgressLanes_mem]
    exact id
  case outbox =>
    unfold State.mapEgressLanes
    exact id
  case crossfades =>
    rw [State.egressLane_mapEgressLanes]
    exact h e _
  case fade =>
    rw [State.program_mapEgressLanes]
    exact ⟨rfl, rfl⟩

theorem State.markDiscontinuity_handed (s : State) (p : Fin 16) : s.Handed (s.markDiscontinuity p) := by
  unfold State.markDiscontinuity
  exact .mapEgressLanes fun e x => by split <;> exact id

theorem State.putInForce_tranquil (s : State) (p : Fin 16) (v : Nat) : s.Tranquil (s.putInForce p v) := by
  unfold State.putInForce
  exact .setProgram (.servo _)

/-- A program is PARKED after an orderly move exactly when it was. -/
theorem State.Orderly.parked {s t : State} (h : s.Orderly t) (p : Fin 16) :
    t.playState p = .parked ↔ s.playState p = .parked := (h.programs p).parked

/-! ### Between the play states (Chapter 3) -/

/-- Suspended from a state that is not PARKED into another such, a program moves in order (R45, R48, R49). -/
theorem Program.suspend_orderly {x : Program} {st : PlayState} (hx : x.play.state ≠ .parked) (hst : st ≠ .parked) :
    x.Orderly (x.suspend st) :=
  ⟨iff_of_false hst hx, rfl, id, id⟩

/-- The program leaves its play state for RESYNCING, and the resync count rises (R48). -/
def Program.resyncing (x : Program) : Program :=
  { x.suspend .resyncing with play := { (x.suspend .resyncing).play with resyncs := satAdd x.play.resyncs 1 } }

/-- A RESYNC request is taken in PRIMING with P set, WARMING, RUNNING and HOLDOVER (R47, R48). -/
def Program.resyncs (x : Program) : Bool :=
  x.conv.pos.isSome && match x.play.state with
    | .priming | .warming | .running | .holdover => true
    | .parked | .resyncing | .parking => false

theorem State.requestResync_eq (s : State) (p : Fin 16) : s.requestResync p =
    if (s.program p).resyncs = true then (s.setProgram p (s.program p).resyncing).followThrough else s := by
  unfold State.requestResync Program.resyncs
  dsimp only
  cases (s.program p).conv.pos <;> cases (s.program p).play.state <;> rfl

theorem Program.resyncing_orderly {x : Program} (h : x.resyncs = true) : x.Orderly x.resyncing where
  parked := iff_of_false PlayState.noConfusion fun hparked => by
    rw [Program.resyncs, hparked, Bool.and_false] at h
    exact Bool.noConfusion h
  holds := rfl
  ranges := fun ⟨⟨hfade, _⟩, hrest⟩ => ⟨⟨hfade, satAdd_le _ _⟩, hrest⟩
  bounds := id

theorem State.requestResync_handed (s : State) (p : Fin 16) : s.Handed (s.requestResync p) := by
  rw [State.requestResync_eq]
  split
  · next h => exact (State.Orderly.setProgram (Program.resyncing_orderly h)).followed
  · exact .refl s

theorem State.enterHoldover_handed {s : State} {p : Fin 16} (h : s.playState p ≠ .parked) :
    s.Handed (s.enterHoldover p) := by
  unfold State.enterHoldover
  exact (State.Orderly.setProgram (Program.suspend_orderly h PlayState.noConfusion)).followed

theorem State.enterParking_handed {s : State} {p : Fin 16} (h : s.playState p ≠ .parked) :
    s.Handed (s.enterParking p) := by
  unfold State.enterParking
  exact (State.Orderly.setProgram (Program.suspend_orderly h PlayState.noConfusion)).followed

/-- A program that is not PARKED enters RUNNING in order (R43, R46). -/
theorem Program.running_orderly {x : Program} (h : x.play.state ≠ .parked) : x.Orderly { x with
    play := { x.play with state := .running }
    conv := { x.conv with glide := 0 }
    servo := { x.servo with mode := .track, phase := none } } :=
  ⟨iff_of_false PlayState.noConfusion h, rfl, id, id⟩

theorem State.enterRunning_handed {s : State} {p : Fin 16} (h : s.playState p ≠ .parked) :
    s.Handed (s.enterRunning p) := by
  unfold State.enterRunning
  exact (State.Orderly.setProgram (Program.running_orderly h)).followed

/-- Between PRIMING and WARMING a program moves in order, its fade target SILENT (R43, R50). -/
theorem Program.warming_orderly {x : Program} (h : x.play.state = .priming) (n : Nat) :
    x.Orderly { x with play := { x.play with state := .warming, warmUpLeft := n } } ∧
      Program.fadeTarget { x with play := { x.play with state := .warming, warmUpLeft := n } } = x.fadeTarget := by
  refine ⟨⟨iff_of_false PlayState.noConfusion ?_, rfl, id, id⟩, ?_⟩
  · rw [h]
    exact PlayState.noConfusion
  · simp only [Program.fadeTarget, h]
    rfl

theorem State.enterWarming_handed {s : State} {p : Fin 16} (h : s.playState p = .priming) :
    s.Handed (s.enterWarming p) := by
  unfold State.enterWarming
  split
  · exact .refl s
  · dsimp only
    generalize hset : s.setPos p _ = u
    have hu : s.Tranquil u := hset ▸ s.setPos_tranquil p _
    have hpriming : (u.program p).play.state = .priming := (hu.programs p).state.trans h
    obtain ⟨horderly, hfade⟩ := Program.warming_orderly hpriming (48 * (u.program p).play.warmUpSet)
    split
    · exact hu.handed.trans ((State.Handed.setProgram horderly rfl hfade).trans (State.requestResync_handed _ p))
    · exact (hu.toOrderly.trans (.setProgram horderly)).followed

theorem State.endWarmUp_handed {s : State} {p : Fin 16} (h : s.playState p ≠ .parked) :
    s.Handed (s.endWarmUp p) := by
  unfold State.endWarmUp State.enterRunning
  have helapsed : s.Orderly (s.setProgram p { s.program p with play := { (s.program p).play with elapsed := true } }) :=
    .setProgram ⟨Iff.rfl, rfl, id, id⟩
  exact (helapsed.trans (.setProgram (Program.running_orderly ((helapsed.parked p).not.mpr h)))).followed

/-- The flush of RESYNCING returns a program to PRIMING in order (R48, R107, R121). -/
theorem Program.flushed_orderly {x : Program} (h : x.play.state ≠ .parked) : x.Orderly { x with
    play := { x.play with state := .priming, warmUpSet := 20, elapsed := false }
    conv := { x.conv with pos := none, glide := 0, hold := false, fixed := none }
    meter := x.meter.resync
    gain := x.gain.resync } where
  parked := iff_of_false PlayState.noConfusion h
  holds := rfl
  ranges := fun ⟨hplay, hconv, hservo, hmeter, _, hcounters⟩ => ⟨hplay, hconv, hservo, hmeter, Nat.le_refl _, hcounters⟩
  bounds := fun _ => ⟨Nat.zero_le _, Nat.zero_le _, Nat.zero_le _⟩

theorem State.resyncFlush_handed {s : State} {p : Fin 16} (h : s.playState p ≠ .parked) :
    s.Handed (s.resyncFlush p) := by
  unfold State.resyncFlush
  have hflush := (s.flushMembers_tranquil p).toOrderly
  exact (hflush.trans (.trans (.setProgram (Program.flushed_orderly ((hflush.parked p).not.mpr h)))
    (State.markDiscontinuity_handed _ p).toOrderly)).followed

/-! ### The servo and the jump (Chapter 5) -/

theorem holdTrim_natAbs_le (t : Int) : (holdTrim t).natAbs ≤ 8389 := by
  rw [holdTrim, clampInt_eq (by decide)]
  omega

theorem Program.glideUpdate_tranquil (x : Program) (E : Int) (b1 : Nat) (nominal gmax : Int) :
    x.Tranquil (x.glideUpdate E b1 nominal gmax) := by
  unfold Program.glideUpdate
  split <;> exact ⟨rfl, rfl, rfl, rfl, rfl, rfl, id, id⟩

theorem Program.trackUpdate_tranquil (x : Program) (E : Int) (b : BandSet) (nominal gmax : Int) (houseLocked : Bool) :
    x.Tranquil (x.trackUpdate E b nominal gmax houseLocked) := by
  unfold Program.trackUpdate
  split
  · exact .refl x
  · split
    · exact .conv _ fun ⟨_, hcounters⟩ => ⟨holdTrim_natAbs_le _, hcounters⟩
    · exact x.glideUpdate_tranquil E b.b1 nominal gmax

theorem State.servoUpdate_handed (s : State) (p : Fin 16) : s.Handed (s.servoUpdate p) := by
  unfold State.servoUpdate
  dsimp only
  split
  · next P W _ _ _ =>
    have herror : (s.program p).Tranquil { s.program p with
        servo := { (s.program p).servo with error := servoError W P (s.program p).servo.fill } } := .servo _
    have hkept := State.Tranquil.setProgram herror
    split
    · exact hkept.handed.trans (State.requestResync_handed _ p)
    · split
      · refine (hkept.toOrderly.trans (.setProgram ?_)).followed
        rw [State.program_setProgram_self]
        exact ⟨Iff.rfl, rfl, id, id⟩
      · split
        · refine (hkept.trans (.setProgram ?_)).handed
          rw [State.program_setProgram_self]
          exact Program.trackUpdate_tranquil _ _ _ _ _ _
        · refine (hkept.trans (.setProgram ?_)).handed
          rw [State.program_setProgram_self]
          exact Program.glideUpdate_tranquil _ _ _ _ _
        · exact hkept.handed
  · exact .refl s

theorem State.endJump_handed (s : State) (p : Fin 16) : s.Handed (s.endJump p) := by
  unfold State.endJump
  have hmode : (s.program p).Orderly { s.program p with
      servo := { (s.program p).servo with mode := .track, phase := none } } := ⟨Iff.rfl, rfl, id, id⟩
  exact ((State.Orderly.setProgram hmode).trans (State.markDiscontinuity_handed _ p).toOrderly).followed

theorem State.fadeOutEnd_handed {s : State} {p : Fin 16} (h : (s.program p).servo.phase = some .fadeOut) :
    s.Handed (s.fadeOutEnd p) := by
  unfold State.fadeOutEnd
  split
  · dsimp only
    split
    · exact (s.inProgramOrder_tranquil p fun t => t.setPos_tranquil p _).handed.trans (State.endJump_handed _ p)
    · have hphase : (some JumpPhase.hold).isNone = (s.program p).servo.phase.isNone := by rw [h]; rfl
      exact State.Tranquil.handed (.setProgram (.servo _ hphase))
  · exact .refl s

theorem State.jumpRelease_handed (s : State) (p : Fin 16) : s.Handed (s.jumpRelease p) := by
  unfold State.jumpRelease
  split
  · exact (s.setPos_tranquil p _).handed.trans (State.endJump_handed _ p)
  · exact .refl s

theorem State.pictureTaken_tranquil (s : State) (p : Fin 16) (micros : Nat) (valid : Bool) :
    s.Tranquil (s.pictureTaken p micros valid) := by
  unfold State.pictureTaken
  dsimp only
  split
  · exact .refl s
  · have hidle : s.Tranquil (s.setProgram p { s.program p with
        servo := { (s.program p).servo with pictureIdle := 0, pictureLast := some micros } }) :=
      .setProgram (.servo _ rfl fun _ => Nat.zero_le _)
    split
    · exact hidle
    · split
      · refine .after (.setProgram (.servo _)) ((State.putInForce_tranquil _ p _).after hidle)
      · exact hidle

theorem State.picturePresent_tranquil (s : State) (p : Fin 16) : s.Tranquil (s.picturePresent p) := by
  unfold State.picturePresent
  exact .setProgram (.servo _)

/-! ### Arriving parcels (R21, R23, R46) -/

/-- An arriving parcel moves the part within its states, or asks for a resynchronization (R28, R31). -/
theorem State.arrival_tranquil (s : State) (p : Fin 16) (l : Fin 32) (a : AudioIn) :
    s.Tranquil (s.arrival p l a) ∨ s.arrival p l a = s.requestResync p := by
  unfold State.arrival
  dsimp only
  split
  · exact .inl (.refl s)
  · split
    · exact .inl (s.firstParcel_tranquil p l _ a)
    · split
      · split
        · exact .inr rfl
        · exact .inl ((State.firstParcel_tranquil _ p l _ a).after (s.flushLane_tranquil l))
      · split
        · split
          · exact .inr rfl
          · exact .inl (s.dropParcel_tranquil l)
        · split
          · exact .inl (s.writeParcel_tranquil p l _ a)
          · split
            · exact .inl (s.concealAndWrite_tranquil p l _ _ a)
            · exact .inl (s.lateParcel_tranquil p l _ _ a)

theorem State.arrival_handed (s : State) (p : Fin 16) (l : Fin 32) (a : AudioIn) : s.Handed (s.arrival p l a) := by
  rcases s.arrival_tranquil p l a with h | h
  · exact h.handed
  · rw [h]
    exact s.requestResync_handed p

theorem State.returnTest_handed {s : State} {p : Fin 16} (h : s.playState p ≠ .parked) :
    s.Handed (s.returnTest p) := by
  unfold State.returnTest
  split
  · split
    · exact State.enterRunning_handed h
    · exact s.requestResync_handed p
  · exact s.requestResync_handed p

/-- A lane that is not PARKED takes another such state. -/
theorem Lane.status_orderly {x : Lane} {st : LaneStatus} {n : Nat} (hx : x.status ≠ .parked) (hst : st ≠ .parked)
    (hn : x.idle ≤ 65535 → n ≤ 65535) : x.Orderly { x with status := st, idle := n } :=
  ⟨iff_of_false hst hx, fun ⟨hidle, hcounters⟩ => ⟨hn hidle, hcounters⟩⟩

theorem State.audioArrives_handed {s : State} {l : Fin 32} (a : AudioIn) (h : (s.lane l).status ≠ .parked) :
    s.Handed (s.audioArrives l a) := by
  unfold State.audioArrives
  have hlane : s.Handed (s.setLane l { s.lane l with status := .receiving, idle := 0 }) :=
    .setLane (Lane.status_orderly h LaneStatus.noConfusion fun _ => Nat.zero_le _)
  dsimp only
  split
  · exact hlane
  · next p _ =>
    have harrival := hlane.trans (State.arrival_handed _ p l a)
    split
    · next hreturn =>
      refine harrival.trans (State.returnTest_handed fun hparked => ?_)
      rw [hparked] at hreturn
      simp at hreturn
    · exact harrival

theorem State.cueArrives_tranquil (s : State) (l : Fin 32) (t : Stamp) (kind : CueType) (mark : BitVec 16) :
    s.Tranquil (s.cueArrives l t kind mark) := by
  unfold State.cueArrives
  split
  · exact .refl s
  · split
    · exact s.enterCue_tranquil _ t kind mark
    · exact .refl s

/-- A lane that hears a key is not PARKED (R13). -/
theorem State.laneFor_status {s : State} {node tag : Byte} {l : Fin 32} (h : s.laneFor node tag = some l) :
    (s.lane l).status ≠ .parked := by
  have hl := List.find?_some h
  simp only [Bool.and_eq_true, bne_iff_ne] at hl
  exact hl.2

theorem State.deliverAudio_handed (s : State) (c : SlotContent) : s.Handed (s.deliverAudio c) := by
  unfold State.deliverAudio
  split
  · split
    · next hl => exact State.audioArrives_handed _ (State.laneFor_status hl)
    · exact .refl s
  · exact .refl s

theorem State.deliverCue_tranquil (s : State) (c : SlotContent) : s.Tranquil (s.deliverCue c) := by
  unfold State.deliverCue
  split
  · split
    · exact s.cueArrives_tranquil _ _ _ _
    · exact .refl s
  · exact .refl s

theorem State.deliverPicture_tranquil (s : State) (c : SlotContent) : s.Tranquil (s.deliverPicture c) := by
  unfold State.deliverPicture
  split
  · refine .foldl (fun s p => ?_) _ s
    split
    · exact s.pictureTaken_tranquil p _ _
    · exact .refl s
  · exact .refl s

/-! ### Lanes and changeovers of themselves (R20, R22, R156, R169) -/

theorem State.stallLane_handed {s : State} {l : Fin 32} (h : (s.lane l).status ≠ .parked) :
    s.Handed (s.stallLane l) :=
  .setLane (Lane.status_orderly h LaneStatus.noConfusion id)

theorem State.tellLeaderLost_handed (s : State) (p : Fin 16) : s.Handed (s.tellLeaderLost p) := by
  unfold State.tellLeaderLost
  split
  · next h => exact State.enterHoldover_handed (by rw [h]; exact PlayState.noConfusion)
  · exact s.requestResync_handed p
  all_goals exact .refl s

theorem State.loseLane_handed {s : State} {l : Fin 32} (h : (s.lane l).status ≠ .parked) :
    s.Handed (s.loseLane l) := by
  unfold State.loseLane
  have hlane : s.Handed (s.setLane l { s.lane l with status := .lost }) :=
    .setLane (Lane.status_orderly h LaneStatus.noConfusion id)
  dsimp only
  split
  · split
    · exact hlane.trans (State.tellLeaderLost_handed _ _)
    · exact hlane
  · exact hlane

/-- A changeover moves; nothing else of the program does. -/
theorem Program.change_orderly (x : Program) (c : Change) : x.Orderly { x with change := c } := ⟨Iff.rfl, rfl, id, id⟩

theorem State.revertNow_handed (s : State) (p : Fin 16) : s.Handed (s.revertNow p) := by
  unfold State.revertNow
  exact (State.Orderly.setProgram (Program.change_orderly _ _)).followed

theorem State.applyForce_handed (s : State) (p : Fin 16) (f : Force) : s.Handed (s.applyForce p f) := by
  have hforce : s.Orderly (s.setProgram p { s.program p with
      change := { (s.program p).change with force := f } }) := .setProgram (Program.change_orderly _ _)
  have home : ∀ u : State, u.Handed (u.setProgram p { u.program p with
      change := (u.program p).change.backHome }).followThrough :=
    fun u => (State.Orderly.setProgram (Program.change_orderly _ _)).followed
  cases f with
  | automatic =>
    unfold State.applyForce
    dsimp only
    split
    · exact hforce.followed.trans (home _)
    · exact hforce.followed
  | forceAlternate => exact hforce.followed
  | forcePrimary => exact (hforce.trans (.setProgram (Program.change_orderly _ _))).followed

end Sys2Proof.Machine
end

section
/-! SUPPORT. The invariants in one relation: what a move of the part keeps of memory, ranges, tables, started lanes, hold
counts, lines and queues. It composes, and every orderly move that is handed on has it. -/

namespace Sys2Proof.Machine

/-! ### The invariants by block -/

/-- The part's own counters lie in their range (R5, R10, R162, R165). -/
def State.scalarsOk (s : State) : Prop :=
  s.rx.checkFails ≤ 65535 ∧ s.rx.unknownKinds ≤ 65535 ∧ s.rx.countErrors ≤ 65535 ∧ s.rx.lockLosses ≤ 65535 ∧
    s.egress.shed ≤ 65535 ∧ s.orders.drops ≤ 65535

/-- Every position, trim and counter lies in its range. -/
structure State.RangesOk (s : State) : Prop where
  scalars : s.scalarsOk
  lanes : ∀ l, (s.lane l).inRange
  programs : ∀ p, (s.program p).inRange
  crossfades : ∀ e, (s.egressLane e).x ≤ 960
  raises : ∀ r, (s.record r).raises ≤ 65535

theorem State.rangesOk_iff (s : State) : s.RangesOk ↔ s.positionsOk ∧ s.trimsOk ∧ s.countersOk := by
  constructor
  · rintro ⟨⟨hcheck, hkinds, hcount, hlock, hshed, hdrops⟩, hlanes, hprograms, hx, hraises⟩
    refine ⟨⟨fun p => ?_, hx⟩, fun p => ?_, hcheck, hkinds, hcount, hlock, hshed, hdrops, hlanes, fun p => ?_, hraises⟩
    all_goals
      obtain ⟨⟨hfade, hresyncs⟩, ⟨htrim, hstarved, hclips⟩, hpicture, hover, hramp, hco, hgd, hcd, hfd, hgc⟩ := hprograms p
    · exact ⟨hfade, hramp⟩
    · exact htrim
    · exact ⟨hresyncs, hstarved, hclips, hpicture, hover, hco, hgd, hcd, hfd, hgc⟩
  · rintro ⟨⟨hpositions, hx⟩, htrims, hcheck, hkinds, hcount, hlock, hshed, hdrops, hlanes, hprograms, hraises⟩
    refine ⟨⟨hcheck, hkinds, hcount, hlock, hshed, hdrops⟩, hlanes, fun p => ?_, hx, hraises⟩
    obtain ⟨hfade, hramp⟩ := hpositions p
    obtain ⟨hresyncs, hstarved, hclips, hpicture, hover, hco, hgd, hcd, hfd, hgc⟩ := hprograms p
    exact ⟨⟨hfade, hresyncs⟩, ⟨htrims p, hstarved, hclips⟩, hpicture, hover, hramp, hco, hgd, hcd, hfd, hgc⟩

/-- The notice queue is within its bound, and a rule is marked queued exactly while it has its one notice there, and is
then not owed (R143). -/
def State.marksOk (s : State) : Prop :=
  s.alarm.notices.length ≤ 16 ∧ ∀ r, (s.alarm.notices.filter fun n => n.isOf r).length = (s.record r).queued.toNat ∧
    ((s.record r).queued = true → (s.record r).owed = false)

/-- An owed rule finds the queue full, but from a frame start to the next house sample (R144, log entry 10). -/
def State.owedOk (s : State) : Prop :=
  ∀ r, (s.record r).owed = true → 16 ≤ s.alarm.notices.length ∨ (s.house.warmedUp = true ∧ s.house.toFrame = 12)

/-- The queues of the Order Unit are within their bounds (R165, R166, R168). -/
def State.ordersOk (s : State) : Prop := s.orders.intake.length ≤ 4 ∧ s.repliesOk

/-- The passthrough queue is within its bound, each parcel with its 84 bytes (R162). -/
def State.throughOk (s : State) : Prop := s.egress.passthrough.length ≤ 96 ∧ s.parcelsOk

/-- Every queue and list is within its bound and the notice marks are true. -/
structure State.QueuesOk (s : State) : Prop where
  marks : s.marksOk
  owed : s.owedOk
  orders : s.ordersOk
  through : s.throughOk
  outbox : s.egress.outbox.length ≤ 8
  programs : ∀ p, (s.program p).bounded

theorem State.queuesOk_iff (s : State) : s.QueuesOk ↔ s.queuesOk ∧ s.repliesOk ∧ s.parcelsOk ∧ s.noticesOk := by
  constructor
  · rintro ⟨⟨hnotices, hmarks⟩, howed, ⟨hintake, hreplies⟩, ⟨hpassed, hparcels⟩, houtbox, hprograms⟩
    exact ⟨⟨hintake, hnotices, houtbox, hpassed, hprograms⟩, hreplies, hparcels, hmarks, howed⟩
  · rintro ⟨⟨hintake, hnotices, houtbox, hpassed, hprograms⟩, hreplies, hparcels, hmarks, howed⟩
    exact ⟨⟨hnotices, hmarks⟩, howed, ⟨hintake, hreplies⟩, ⟨hpassed, hparcels⟩, houtbox, hprograms⟩

/-! ### The relation -/

/-- The move keeps the invariants of memory, ranges, tables, started lanes and queues but for the notices owed, and the
queue of commands. -/
structure State.KeepsBase (s t : State) : Prop where
  memory : s.memOk → t.memOk
  ranges : s.RangesOk → t.RangesOk
  lanes : s.lanesOk → t.lanesOk
  slots : s.slotsOk → t.slotsOk
  started : s.startedOk → t.startedOk
  apart : s.ringsApart → t.ringsApart
  marks : s.marksOk → t.marksOk
  orders : s.ordersOk → t.ordersOk
  through : s.throughOk → t.throughOk
  outbox : s.egress.outbox.length ≤ 8 → t.egress.outbox.length ≤ 8
  bounds : (∀ p, (s.program p).bounded) → ∀ p, (t.program p).bounded
  commands : t.pending = s.pending

/-- And those of hold counts, lines and fade targets. -/
structure State.KeepsCore (s t : State) : Prop extends State.KeepsBase s t where
  holds : s.holdsOk → t.holdsOk
  derived : s.holdsOk → s.linesOk → s.fadesOk → t.linesOk ∧ t.fadesOk

/-- The move keeps every invariant. -/
structure State.Keeps (s t : State) : Prop extends State.KeepsCore s t where
  owed : s.marksOk → s.owedOk → t.owedOk

theorem State.KeepsBase.trans {s t u : State} (h : s.KeepsBase t) (k : t.KeepsBase u) : s.KeepsBase u where
  memory := k.memory ∘ h.memory
  ranges := k.ranges ∘ h.ranges
  lanes := k.lanes ∘ h.lanes
  slots := k.slots ∘ h.slots
  started := k.started ∘ h.started
  apart := k.apart ∘ h.apart
  marks := k.marks ∘ h.marks
  orders := k.orders ∘ h.orders
  through := k.through ∘ h.through
  outbox := k.outbox ∘ h.outbox
  bounds := k.bounds ∘ h.bounds
  commands := k.commands.trans h.commands

theorem State.KeepsCore.trans {s t u : State} (h : s.KeepsCore t) (k : t.KeepsCore u) : s.KeepsCore u where
  toKeepsBase := h.toKeepsBase.trans k.toKeepsBase
  holds := k.holds ∘ h.holds
  derived := fun hh hl hf => (h.derived hh hl hf).elim (k.derived (h.holds hh))

theorem State.Keeps.refl (s : State) : s.Keeps s :=
  ⟨⟨⟨id, id, id, id, id, id, id, id, id, id, id, rfl⟩, id, fun _ hl hf => ⟨hl, hf⟩⟩, fun _ => id⟩

theorem State.Keeps.trans {s t u : State} (h : s.Keeps t) (k : t.Keeps u) : s.Keeps u :=
  ⟨h.toKeepsCore.trans k.toKeepsCore, fun hm ho => k.owed (h.marks hm) (h.owed hm ho)⟩

theorem State.Keeps.after {s t u : State} (k : t.Keeps u) (h : s.Keeps t) : s.Keeps u := h.trans k

theorem State.Keeps.queues {s t : State} (h : s.Keeps t) (hs : s.QueuesOk) : t.QueuesOk :=
  ⟨h.marks hs.marks, h.owed hs.marks hs.owed, h.orders hs.orders, h.through hs.through, h.outbox hs.outbox,
    h.bounds hs.programs⟩

/-! ### What each invariant rests on -/

theorem State.lanesOk_congr {s t : State} (h : t.tables.lanes = s.tables.lanes) : s.lanesOk → t.lanesOk := by
  have hentry : t.laneEntry = s.laneEntry := funext fun l => by rw [State.laneEntry, State.laneEntry, h]
  unfold State.lanesOk
  rw [hentry]
  exact id

theorem State.slotsOk_congr {s t : State} (h : t.tables.map = s.tables.map) (hm : t.egress.map = s.egress.map)
    (hp : t.egress.pending = s.egress.pending) : s.slotsOk → t.slotsOk := by
  have hentry : t.mapEntry = s.mapEntry := funext fun e => by rw [State.mapEntry, State.mapEntry, hm]
  unfold State.slotsOk
  rw [hentry, h, hp]
  exact id

theorem State.startedOk_congr {s t : State} (h : t.tables.programs = s.tables.programs)
    (hlane : ∀ l, (t.lane l).status = .parked ↔ (s.lane l).status = .parked)
    (hprogram : ∀ p, t.playState p = .parked ↔ s.playState p = .parked) : s.startedOk → t.startedOk := by
  have hentry : t.entry = s.entry := funext fun p => by rw [State.entry, State.entry, h]
  have hactive : t.active = s.active := funext fun p => by
    rw [Bool.eq_iff_iff, State.active, State.active, bne_iff_ne, bne_iff_ne]
    exact (hprogram p).not
  rintro ⟨hone, hdefined, hlanes⟩
  refine ⟨?_, ?_, fun l => ?_⟩
  · rwa [hentry]
  · rwa [hentry, hactive]
  · rw [hentry, hactive]
    exact (hlane l).not.trans (hlanes l)

theorem State.ringsApart_congr {s t : State} (h : t.tables.lanes = s.tables.lanes)
    (hparked : ∀ l, (s.lane l).status = .parked → (t.lane l).status = .parked) : s.ringsApart → t.ringsApart := by
  have hentry : t.laneEntry = s.laneEntry := funext fun l => by rw [State.laneEntry, State.laneEntry, h]
  intro hapart l k hne hl hk
  rw [hentry]
  exact hapart l k hne (mt (hparked l) hl) (mt (hparked k) hk)

theorem State.holdsOk_congr {s t : State} (h : t.tables.rules = s.tables.rules)
    (hholds : ∀ p, (t.program p).holds = (s.program p).holds)
    (hrecord : ∀ r, (t.record r).state = (s.record r).state ∧ (t.record r).due = (s.record r).due) :
    s.holdsOk → t.holdsOk := by
  have hrule : t.rule = s.rule := funext fun r => by rw [State.rule, State.rule, h]
  have hon : t.holdsOn = s.holdsOn := by
    funext p a r
    rw [State.holdsOn, State.holdsOn, hrule, (hrecord r).1]
  rintro ⟨hcounts, hdisabled, hdue⟩
  refine ⟨fun p a => ?_, fun r => ?_, fun r => ?_⟩
  · rw [hholds, hon]
    exact hcounts p a
  · rw [hrule, (hrecord r).1, (hrecord r).2]
    exact hdisabled r
  · rw [(hrecord r).1, (hrecord r).2]
    exact hdue r

theorem State.marksOk_congr {s t : State} (hn : t.alarm.notices = s.alarm.notices)
    (hrecord : ∀ r, (t.record r).queued = (s.record r).queued ∧ (t.record r).owed = (s.record r).owed) :
    s.marksOk → t.marksOk := by
  rintro ⟨hlength, hmarks⟩
  refine ⟨by rwa [hn], fun r => ?_⟩
  rw [hn, (hrecord r).1, (hrecord r).2]
  exact hmarks r

theorem State.owedOk_congr {s t : State} (hn : t.alarm.notices.length = s.alarm.notices.length)
    (hrecord : ∀ r, (t.record r).owed = (s.record r).owed) (hhouse : s.house.warmedUp = true ∧ s.house.toFrame = 12 →
      t.house.warmedUp = true ∧ t.house.toFrame = 12) : s.owedOk → t.owedOk := by
  intro howed r hr
  rw [hn]
  exact (howed r (hrecord r ▸ hr)).imp_right hhouse

theorem State.ordersOk_congr {s t : State} (h : t.orders = s.orders) : s.ordersOk → t.ordersOk := by
  unfold State.ordersOk State.repliesOk
  rw [h]
  exact id

theorem State.throughOk_congr {s t : State} (h : t.egress.passthrough = s.egress.passthrough) :
    s.throughOk → t.throughOk := by
  unfold State.throughOk State.parcelsOk
  rw [h]
  exact id

/-- An orderly move keeps the invariants that rest on nothing that is handed on. -/
theorem State.Orderly.keepsBase {s t : State} (h : s.Orderly t) : s.KeepsBase t where
  memory := h.mem
  ranges hs := by
    refine ⟨?_, fun l => (h.lanes l).2 (hs.lanes l), fun p => (h.programs p).ranges (hs.programs p),
      fun e => h.crossfades e (hs.crossfades e), fun r => by rw [h.record]; exact hs.raises r⟩
    have := hs.scalars
    rwa [State.scalarsOk, h.rx, h.shed, h.orders]
  lanes := State.lanesOk_congr (by rw [h.tables])
  slots := State.slotsOk_congr (by rw [h.tables]) h.map h.mapPending
  started := State.startedOk_congr (by rw [h.tables]) (fun l => (h.lanes l).1) h.parked
  apart := State.ringsApart_congr (by rw [h.tables]) fun l => (h.lanes l).1.mpr
  marks := State.marksOk_congr h.notices fun r => by rw [h.record]; exact ⟨rfl, rfl⟩
  orders := State.ordersOk_congr h.orders
  through := State.throughOk_congr h.passthrough
  outbox := h.outbox
  bounds hs p := (h.programs p).bounds (hs p)
  commands := h.pending

theorem State.Orderly.holdsOk {s t : State} (h : s.Orderly t) : s.holdsOk → t.holdsOk :=
  State.holdsOk_congr (by rw [h.tables]) (fun p => (h.programs p).holds) fun r => by rw [h.record]; exact ⟨rfl, rfl⟩

theorem State.Orderly.owedOk {s t : State} (h : s.Orderly t) : s.owedOk → t.owedOk :=
  State.owedOk_congr (by rw [h.notices]) (fun r => by rw [h.record]) (by rw [h.house]; exact id)

/-- An orderly move that is handed on keeps every invariant. -/
theorem State.Handed.keeps {s t : State} (h : s.Handed t) : s.Keeps t :=
  ⟨⟨h.toOrderly.keepsBase, h.toOrderly.holdsOk, fun _ => h.derived⟩, fun _ => h.toOrderly.owedOk⟩

/-- What a move keeps but for what is derived, it keeps once that is handed on. -/
theorem State.KeepsBase.followed {s t : State} (h : s.KeepsBase t) (holds : s.holdsOk → t.holdsOk)
    (owed : s.marksOk → s.owedOk → t.owedOk) : s.Keeps t.followThrough where
  toKeepsBase := h.trans t.orderly_followThrough.keepsBase
  holds := t.orderly_followThrough.holdsOk ∘ holds
  derived _ _ _ := ⟨t.linesOk_followThrough, t.fadesOk_followThrough⟩
  owed hm ho := t.orderly_followThrough.owedOk (owed hm ho)

end Sys2Proof.Machine
end

section
/-! SUPPORT. The notice queue and the marks of the rules (R142 to R146): each notice operation leaves what the records say
but for their marks, and keeps a rule marked queued exactly while it has its one notice. -/

namespace Sys2Proof.Machine

/-! ### Notices of rules -/

/-- A record without what its notices carry and mark (R142, R143). -/
def Record.unmarked (x : Record) : Record :=
  { x with last := none, lastStamp := 0, changes := 0, queued := false, owed := false }

/-- Notices are made, placed and taken: the records move in their marks alone, and the marks stay true. -/
structure State.NoticedCore (s t : State) : Prop where
  frame : t = { s with alarm := { s.alarm with records := t.alarm.records, notices := t.alarm.notices } }
  records : ∀ r, (t.record r).unmarked = (s.record r).unmarked
  marks : s.marksOk → t.marksOk

/-- Notices are made and placed: an owed rule still finds the queue full as well. -/
structure State.Noticed (s t : State) : Prop extends State.NoticedCore s t where
  owed : s.marksOk → s.owedOk → t.owedOk

theorem State.NoticedCore.refl (s : State) : s.NoticedCore s := ⟨rfl, fun _ => rfl, id⟩

theorem State.NoticedCore.trans {s t u : State} (h : s.NoticedCore t) (k : t.NoticedCore u) : s.NoticedCore u where
  frame := by
    have hk := k.frame
    rw [h.frame] at hk
    exact hk
  records r := (k.records r).trans (h.records r)
  marks := k.marks ∘ h.marks

theorem State.Noticed.refl (s : State) : s.Noticed s := ⟨.refl s, fun _ => id⟩

theorem State.Noticed.trans {s t u : State} (h : s.Noticed t) (k : t.Noticed u) : s.Noticed u :=
  ⟨h.toNoticedCore.trans k.toNoticedCore, fun hm ho => k.owed (h.marks hm) (h.owed hm ho)⟩

theorem State.Noticed.after {s t u : State} (k : t.Noticed u) (h : s.Noticed t) : s.Noticed u := h.trans k

@[simp] theorem State.isOf_noticeOf (s : State) (r k : Fin 64) : (s.noticeOf r).isOf k = (r == k) := rfl

theorem Notice.isOf_unique {n : Notice} {r k : Fin 64} (h : n.isOf r = true) : n.isOf k = (r == k) := by
  cases n with
  | rule q _ _ _ _ _ =>
    have hq : q = r := by simpa [Notice.isOf] using h
    rw [← hq]
    rfl
  | started _ _ _ => cases h

/-- The notices of a rule in the queue. -/
def State.noticesOf (s : State) (r : Fin 64) : Nat := (s.alarm.notices.filter fun n => n.isOf r).length

theorem State.refreshNotice_isOf (s : State) (r k : Fin 64) (n : Notice) :
    (if n.isOf r = true then s.noticeOf r else n).isOf k = n.isOf k := by
  split
  · next h => rw [State.isOf_noticeOf, Notice.isOf_unique h]
  · rfl

theorem State.noticesOf_refreshNotice (s : State) (r k : Fin 64) : (s.refreshNotice r).noticesOf k = s.noticesOf k := by
  simp only [State.noticesOf, State.refreshNotice, List.filter_map, List.length_map]
  congr 2
  funext n
  exact s.refreshNotice_isOf r k n

theorem State.record_refreshNotice (s : State) (r k : Fin 64) : (s.refreshNotice r).record k = s.record k := by
  dsimp only [State.record, State.refreshNotice]

theorem State.refreshNotice_noticed (s : State) (r : Fin 64) : s.Noticed (s.refreshNotice r) where
  frame := (s.refreshNotice_eq r).1
  records k := by rw [State.record_refreshNotice]
  marks := fun ⟨hlength, hmarks⟩ => by
    refine ⟨(s.refreshNotice_eq r).2.trans_le hlength, fun k => ?_⟩
    rw [State.record_refreshNotice]
    exact ⟨(s.noticesOf_refreshNotice r k).trans (hmarks k).1, (hmarks k).2⟩
  owed _ := State.owedOk_congr (s.refreshNotice_eq r).2 (fun k => by rw [State.record_refreshNotice]) (by
    rw [State.refreshNotice_house]
    exact id)

/-! ### One record's marks -/

/-- A record moves in what its notices carry alone. -/
theorem State.setRecord_noticed {s : State} {r : Fin 64} {x : Record} (hx : x.unmarked = (s.record r).unmarked)
    (hq : x.queued = (s.record r).queued) (ho : x.owed = (s.record r).owed) : s.Noticed (s.setRecord r x) where
  frame := rfl
  records k := by
    by_cases hk : k = r
    · subst hk
      rwa [State.record_setRecord_self]
    · rw [State.record_setRecord_ne _ _ hk]
  marks := State.marksOk_congr rfl fun k => by
    by_cases hk : k = r
    · subst hk
      rw [State.record_setRecord_self]
      exact ⟨hq, ho⟩
    · rw [State.record_setRecord_ne _ _ hk]
      exact ⟨rfl, rfl⟩
  owed _ := State.owedOk_congr rfl (fun k => by
    by_cases hk : k = r
    · subst hk
      rwa [State.record_setRecord_self]
    · rw [State.record_setRecord_ne _ _ hk]) id

/-- The record and the queue once a rule's notice stands at the tail (R143). -/
def State.queueNotice (s : State) (r : Fin 64) : State :=
  let s := s.setRecord r { s.record r with owed := false, queued := true }
  { s with alarm := { s.alarm with notices := s.alarm.notices ++ [s.noticeOf r] } }

theorem State.record_queueNotice_self (s : State) (r : Fin 64) :
    (s.queueNotice r).record r = { s.record r with owed := false, queued := true } := by
  dsimp only [State.queueNotice]
  exact State.record_setRecord_self s r _

theorem State.record_queueNotice_ne (s : State) {r k : Fin 64} (h : k ≠ r) :
    (s.queueNotice r).record k = s.record k := by
  dsimp only [State.queueNotice]
  exact State.record_setRecord_ne s _ h

theorem State.noticesOf_queueNotice (s : State) (r k : Fin 64) :
    (s.queueNotice r).noticesOf k = s.noticesOf k + (r == k).toNat := by
  simp only [State.noticesOf, State.queueNotice, List.filter_append, List.length_append]
  congr 1
  cases h : (r == k) <;> simp [h, State.setRecord]

/-- A notice at the tail, of a rule that has none in the queue and while there is a place (R143, R144). -/
theorem State.queueNotice_noticed {s : State} {r : Fin 64} (hfree : s.marksOk → (s.record r).queued = false)
    (hroom : s.alarm.notices.length < 16) : s.Noticed (s.queueNotice r) where
  frame := rfl
  records k := by
    by_cases hk : k = r
    · subst hk
      rw [State.record_queueNotice_self]
      rfl
    · rw [State.record_queueNotice_ne _ hk]
  marks := fun hm => by
    have hq := hfree hm
    obtain ⟨_, hmarks⟩ := hm
    refine ⟨?_, fun k => ?_⟩
    · simp only [State.queueNotice, List.length_append, List.length_singleton]
      exact hroom
    · have hcount : (s.queueNotice r).noticesOf k = s.noticesOf k + (r == k).toNat := s.noticesOf_queueNotice r k
      have hs : s.noticesOf k = (s.record k).queued.toNat := (hmarks k).1
      refine ⟨hcount.trans ?_, ?_⟩
      · by_cases hk : k = r
        · subst hk
          rw [hs, hq, State.record_queueNotice_self, beq_self_eq_true]
          rfl
        · rw [hs, State.record_queueNotice_ne _ hk, beq_false_of_ne (Ne.symm hk)]
          rfl
      · by_cases hk : k = r
        · subst hk
          rw [State.record_queueNotice_self]
          exact fun _ => rfl
        · rw [State.record_queueNotice_ne _ hk]
          exact (hmarks k).2
  owed _ := fun howed k hk => by
    by_cases hkr : k = r
    · subst hkr
      rw [State.record_queueNotice_self] at hk
      cases hk
    · rw [State.record_queueNotice_ne _ hkr] at hk
      refine (howed k hk).imp_left fun hfull => ?_
      exact absurd hroom (Nat.not_lt.mpr hfull)

/-- A rule is owed its notice, the queue being full (R143). -/
theorem State.setRecord_owed_noticed {s : State} {r : Fin 64} {x : Record} (hx : x.unmarked = (s.record r).unmarked)
    (hq : x.queued = false) (hfree : (s.record r).queued = false) (hfull : 16 ≤ s.alarm.notices.length) :
    s.Noticed (s.setRecord r x) where
  frame := rfl
  records k := by
    by_cases hk : k = r
    · subst hk
      rwa [State.record_setRecord_self]
    · rw [State.record_setRecord_ne _ _ hk]
  marks := fun ⟨hlength, hmarks⟩ => by
    refine ⟨hlength, fun k => ?_⟩
    by_cases hk : k = r
    · subst hk
      rw [State.record_setRecord_self, hq, ← hfree]
      exact ⟨(hmarks k).1, fun h => absurd (hfree.symm.trans h) Bool.false_ne_true⟩
    · rw [State.record_setRecord_ne _ _ hk]
      exact hmarks k
  owed _ _ _ _ := .inl hfull

theorem State.placeNotice_noticed (s : State) (r : Fin 64) : s.Noticed (s.placeNotice r) := by
  cases hq : (s.record r).queued with
  | true =>
    rw [State.placeNotice, if_pos hq]
    exact s.refreshNotice_noticed r
  | false =>
    cases ho : (s.record r).owed with
    | true =>
      rw [State.placeNotice_of_owed hq ho]
      exact .refl s
    | false =>
      rcases Nat.lt_or_ge s.alarm.notices.length 16 with hroom | hfull
      · have hplace : s.placeNotice r = s.queueNotice r := by
          simp only [State.placeNotice, State.queueNotice, hq, ho, noticeSize, hroom, if_true,
            Bool.false_eq_true, if_false]
        rw [hplace]
        exact State.queueNotice_noticed (fun _ => hq) hroom
      · have hplace : s.placeNotice r = s.setRecord r { s.record r with owed := true } := by
          simp only [State.placeNotice, hq, ho, noticeSize, Nat.not_lt.mpr hfull, Bool.false_eq_true, if_false]
        rw [hplace]
        exact State.setRecord_owed_noticed rfl hq hq hfull

/-- A notice-making change moves, of what its record says, only what its notices carry (R142). -/
theorem State.noticeChange_noticed (s : State) (r : Fin 64) (cause : Cause) (flagged : Bool) :
    s.Noticed (s.noticeChange r cause flagged) := by
  unfold State.noticeChange
  dsimp only
  split
  · exact (State.placeNotice_noticed _ r).after (State.setRecord_noticed rfl rfl rfl)
  · exact State.setRecord_noticed rfl rfl rfl

/-! ### Owed rules (R144) -/

theorem State.promoteOwed_of_due {s : State} (h : s.promotionDue = true) :
    ∃ r, (s.record r).owed = true ∧ s.promoteOwed = s.queueNotice r := by
  simp only [State.promotionDue, Bool.and_eq_true, List.any_eq_true, List.mem_finRange, true_and] at h
  unfold State.promoteOwed
  cases hfind : (List.finRange 64).find? fun r => (s.record r).owed with
  | none =>
    obtain ⟨-, r, hr⟩ := h
    exact absurd hr (List.find?_eq_none.mp hfind r (List.mem_finRange r))
  | some r => exact ⟨r, List.find?_some (p := fun r => (s.record r).owed) hfind, rfl⟩

theorem State.promotionDue_room {s : State} (h : s.promotionDue = true) : s.alarm.notices.length < 16 := by
  simp only [State.promotionDue, Bool.and_eq_true, decide_eq_true_eq] at h
  exact h.1

theorem State.promoteOwed_noticed {s : State} (h : s.promotionDue = true) : s.Noticed s.promoteOwed := by
  obtain ⟨r, howed, heq⟩ := State.promoteOwed_of_due h
  rw [heq]
  refine State.queueNotice_noticed (fun hm => ?_) (State.promotionDue_room h)
  cases hq : (s.record r).queued with
  | false => rfl
  | true => exact absurd ((hm.2 r).2 hq) (by rw [howed]; exact Bool.noConfusion)

theorem State.promoteUpTo_noticed (n : Nat) (s : State) : s.Noticed (s.promoteUpTo n) := by
  induction n generalizing s with
  | zero => exact .refl s
  | succ n ih =>
    unfold State.promoteUpTo
    split
    · next h => exact (State.promoteOwed_noticed h).trans (ih _)
    · exact .refl s

theorem State.promoteAll_noticed (s : State) : s.Noticed s.promoteAll := s.promoteUpTo_noticed noticeSize

/-- So many promotions leave no rule owed, or fill so many places. -/
theorem State.promoteUpTo_fills (n : Nat) (s : State) :
    (s.promoteUpTo n).promotionDue = false ∨ s.alarm.notices.length + n ≤ (s.promoteUpTo n).alarm.notices.length := by
  induction n generalizing s with
  | zero => exact .inr (Nat.le_refl _)
  | succ n ih =>
    unfold State.promoteUpTo
    split
    · next h =>
      obtain ⟨r, -, heq⟩ := State.promoteOwed_of_due h
      refine (ih _).imp_right fun hn => le_trans ?_ hn
      have hlength : s.promoteOwed.alarm.notices.length = s.alarm.notices.length + 1 := by
        rw [heq]
        exact List.length_append
      omega
    · next h => exact .inl (eq_false_of_ne_true h)

/-- Behind it no owed rule finds a place (R144). -/
theorem State.promoteAll_owed (s : State) (r : Fin 64) (h : (s.promoteAll.record r).owed = true) :
    16 ≤ s.promoteAll.alarm.notices.length := by
  rcases s.promoteUpTo_fills noticeSize with hquiet | hfull
  · by_contra hroom
    have hdue : s.promoteAll.promotionDue = true := by
      simp only [State.promotionDue, Bool.and_eq_true, decide_eq_true_eq, List.any_eq_true]
      exact ⟨Nat.lt_of_not_le hroom, r, List.mem_finRange r, h⟩
    exact absurd (hquiet.symm.trans hdue) Bool.false_ne_true
  · exact (Nat.le_add_left 16 _).trans hfull

/-! ### Departures, STARTED and a management node of 0 (R144 to R146) -/

theorem State.departed_notices (s : State) (n : Notice) (rest : List Notice) :
    (s.departed n rest).alarm.notices = rest := by
  rw [State.departed_eq]

theorem State.record_departed (s : State) (n : Notice) (rest : List Notice) (k : Fin 64) :
    (s.departed n rest).record k =
      if n.isOf k then { s.record k with queued := false, changes := 0 } else s.record k := by
  cases n with
  | started _ _ _ => rfl
  | rule r _ _ _ _ _ =>
    by_cases hk : k = r
    · subst hk
      simp only [Notice.isOf, beq_self_eq_true, if_true]
      exact State.record_setRecord_self _ k _
    · simp only [Notice.isOf, beq_false_of_ne (Ne.symm hk), Bool.false_eq_true, if_false]
      exact State.record_setRecord_ne _ _ hk

theorem State.departed_noticed {s : State} {n : Notice} {rest : List Notice} (h : s.alarm.notices = n :: rest) :
    s.NoticedCore (s.departed n rest) where
  frame := by
    rw [State.departed_notices]
    exact s.departed_eq n rest
  records k := by
    rw [State.record_departed]
    split <;> rfl
  marks := fun ⟨hlength, hmarks⟩ => by
    rw [h] at hlength hmarks
    refine ⟨?_, fun k => ?_⟩
    · rw [State.departed_notices]
      exact Nat.le_of_succ_le hlength
    · obtain ⟨hcount, howed⟩ := hmarks k
      rw [State.departed_notices, State.record_departed]
      rw [List.filter_cons] at hcount
      split
      · next hk =>
        have hone := Bool.toNat_le (s.record k).queued
        rw [if_pos hk, List.length_cons] at hcount
        exact ⟨Nat.le_zero.mp (by omega), fun hq => absurd hq Bool.false_ne_true⟩
      · next hk =>
        rw [if_neg hk] at hcount
        exact ⟨hcount, howed⟩

theorem State.takeNotice_noticed {s t : State} {n : Notice} (h : s.takeNotice = some (n, t)) : s.NoticedCore t := by
  obtain ⟨rest, hrest, ht, -⟩ := State.takeNotice_eq h
  rw [ht]
  split
  · exact State.departed_noticed hrest
  · exact (State.departed_noticed hrest).trans (State.promoteUpTo_noticed 1 _).toNoticedCore

theorem State.record_dropNotices (s : State) (r : Fin 64) :
    s.dropNotices.record r = { s.record r with queued := false, owed := false, changes := 0 } := by
  simp [State.record, State.dropNotices]

theorem State.dropNotices_noticed (s : State) : s.Noticed s.dropNotices where
  frame := rfl
  records r := by
    rw [State.record_dropNotices]
    rfl
  marks _ := by
    refine ⟨Nat.zero_le _, fun r => ?_⟩
    rw [State.record_dropNotices]
    exact ⟨rfl, fun _ => rfl⟩
  owed _ _ r hr := by
    rw [State.record_dropNotices] at hr
    cases hr

/-- The rule of a notice that leaves the tail unsent is owed (R146). -/
def State.unsent (s : State) (n : Notice) : State :=
  match n with
  | .rule r _ _ _ _ _ => s.setRecord r { s.record r with queued := false, owed := true }
  | .started _ _ _ => s

theorem State.record_unsent (s : State) (n : Notice) (k : Fin 64) :
    (s.unsent n).record k = if n.isOf k then { s.record k with queued := false, owed := true } else s.record k := by
  cases n with
  | started _ _ _ => rfl
  | rule r _ _ _ _ _ =>
    by_cases hk : k = r
    · subst hk
      simp only [Notice.isOf, beq_self_eq_true, if_true]
      exact State.record_setRecord_self _ k _
    · simp only [Notice.isOf, beq_false_of_ne (Ne.symm hk), Bool.false_eq_true, if_false]
      exact State.record_setRecord_ne _ _ hk

theorem State.placeStarted_of_room {s : State} (programs : List (Fin 16)) (failed : Nat)
    (h : s.alarm.notices.length < 16) : s.placeStarted programs failed = { s with alarm := { s.alarm with
      notices := .started s.orders.cause programs failed :: s.alarm.notices } } := if_pos h

theorem State.placeStarted_of_full {s : State} (programs : List (Fin 16)) (failed : Nat)
    (h : 16 ≤ s.alarm.notices.length) {init : List Notice} {last : Notice} (hn : s.alarm.notices = init ++ [last]) :
    s.placeStarted programs failed = { s with alarm := { s.alarm with
      records := (s.unsent last).alarm.records
      notices := .started s.orders.cause programs failed :: init } } := by
  unfold State.placeStarted
  have hroom : ¬ s.alarm.notices.length < noticeSize := Nat.not_lt.mpr h
  simp only [hroom, if_false]
  rw [hn, List.getLast?_concat, List.dropLast_concat]
  cases last <;> rfl

/-- The STARTED notice at the head: a 16th notice at the tail leaves unsent, its rule owed (R146). -/
theorem State.placeStarted_noticed (s : State) (programs : List (Fin 16)) (failed : Nat) :
    s.Noticed (s.placeStarted programs failed) := by
  rcases Nat.lt_or_ge s.alarm.notices.length 16 with hroom | hfull
  · rw [State.placeStarted_of_room _ _ hroom]
    refine ⟨⟨rfl, fun _ => rfl, fun ⟨_, hmarks⟩ => ⟨hroom, hmarks⟩⟩, fun _ howed r hr => ?_⟩
    exact (howed r hr).imp_left fun hfull => absurd hroom (Nat.not_lt.mpr hfull)
  · obtain ⟨init, last, hn⟩ : ∃ init last, s.alarm.notices = init ++ [last] :=
      ⟨_, _, (List.dropLast_append_getLast (List.ne_nil_of_length_pos (by omega))).symm⟩
    rw [State.placeStarted_of_full _ _ hfull hn]
    have hlength : s.alarm.notices.length = init.length + 1 := by rw [hn]; exact List.length_append
    refine ⟨⟨rfl, fun k => ?records, fun ⟨hle, hmarks⟩ => ⟨?_, fun k => ?marks⟩⟩, fun _ _ _ _ => .inl ?_⟩
    case records =>
      refine (congrArg Record.unmarked (s.record_unsent last k)).trans ?_
      split <;> rfl
    case marks =>
      obtain ⟨hcount, howed⟩ := hmarks k
      rw [hn, List.filter_append, List.length_append] at hcount
      change _ = ((s.unsent last).record k).queued.toNat ∧ (((s.unsent last).record k).queued = true →
        ((s.unsent last).record k).owed = false)
      rw [State.record_unsent]
      split
      · next hk =>
        have hone := Bool.toNat_le (s.record k).queued
        rw [List.filter_cons_of_pos (by exact hk)] at hcount
        refine ⟨Nat.le_zero.mp ?_, fun hq => absurd hq Bool.false_ne_true⟩
        simp only [List.length_cons] at hcount
        change (init.filter fun n => n.isOf k).length ≤ 0
        omega
      · next hk =>
        rw [List.filter_cons_of_neg (by exact hk)] at hcount
        exact ⟨hcount, howed⟩
    · exact hlength.symm.trans_le hle
    · exact hfull.trans_eq hlength

end Sys2Proof.Machine
end

section
/-! SUPPORT. The records and the hold counts (8.3, 8.4): a count follows the one record that moves, and each move of a record
keeps every invariant. -/

namespace Sys2Proof.Machine

/-! ### What the notices leave of the records -/

section Unmarked
variable {x y : Record} (h : y.unmarked = x.unmarked)
include h

theorem Record.state_of_unmarked : y.state = x.state := (congrArg Record.state h :)
theorem Record.acked_of_unmarked : y.acked = x.acked := (congrArg Record.acked h :)
theorem Record.raises_of_unmarked : y.raises = x.raises := (congrArg Record.raises h :)
theorem Record.due_of_unmarked : y.due = x.due := (congrArg Record.due h :)

end Unmarked

/-- A record drives its line by its state and its acknowledgement (R141). -/
theorem State.drives_congr {s t : State} {r : Fin 64} (hrule : t.rule r = s.rule r)
    (hstate : (t.record r).state = (s.record r).state) (hacked : (t.record r).acked = (s.record r).acked)
    (severity : Severity) : t.drives severity r = s.drives severity r := by
  rw [State.drives, State.drives, hrule, hstate, hacked]

/-! ### Moves of the Alarm Unit -/

/-- Records, hold counts and notices move: raise counts stay in their range, and the marks stay true. -/
structure State.MovedCore (s t : State) : Prop where
  frame : t = { s with
    programs := t.programs
    alarm := { s.alarm with records := t.alarm.records, notices := t.alarm.notices } }
  programs : ∀ p, t.program p = { s.program p with holds := (t.program p).holds }
  raises : ∀ r, (s.record r).raises ≤ 65535 → (t.record r).raises ≤ 65535
  marks : s.marksOk → t.marksOk

/-- And an owed rule still finds the queue full. -/
structure State.Moved (s t : State) : Prop extends State.MovedCore s t where
  owed : s.marksOk → s.owedOk → t.owedOk

theorem State.MovedCore.trans {s t u : State} (h : s.MovedCore t) (k : t.MovedCore u) : s.MovedCore u where
  frame := by
    have hk := k.frame
    rw [h.frame] at hk
    exact hk
  programs p := (k.programs p).trans (by rw [h.programs p])
  raises r := k.raises r ∘ h.raises r
  marks := k.marks ∘ h.marks

theorem State.Moved.trans {s t u : State} (h : s.Moved t) (k : t.Moved u) : s.Moved u :=
  ⟨h.toMovedCore.trans k.toMovedCore, fun hm ho => k.owed (h.marks hm) (h.owed hm ho)⟩

theorem State.Moved.refl (s : State) : s.Moved s := ⟨⟨rfl, fun _ => rfl, fun _ => id, id⟩, fun _ => id⟩

theorem State.Moved.after {s t u : State} (k : t.Moved u) (h : s.Moved t) : s.Moved u := h.trans k

theorem State.NoticedCore.program {s t : State} (h : s.NoticedCore t) (p : Fin 16) : t.program p = s.program p :=
  (congrArg (fun u : State => u.program p) h.frame).trans rfl

theorem State.NoticedCore.moved {s t : State} (h : s.NoticedCore t) : s.MovedCore t where
  frame := by
    have hp : t.programs = s.programs := (congrArg State.programs h.frame).trans rfl
    rw [hp]
    exact h.frame
  programs p := by rw [h.program p]
  raises r hr := (Record.raises_of_unmarked (h.records r)).trans_le hr
  marks := h.marks

theorem State.Noticed.moved {s t : State} (h : s.Noticed t) : s.Moved t := ⟨h.toNoticedCore.moved, h.owed⟩

section Frame
variable {s t : State} (h : s.MovedCore t)
include h

theorem State.MovedCore.running : t.running = s.running := (congrArg State.running h.frame).trans rfl
theorem State.MovedCore.node : t.node = s.node := (congrArg State.node h.frame).trans rfl
theorem State.MovedCore.tables : t.tables = s.tables := (congrArg State.tables h.frame).trans rfl
theorem State.MovedCore.rx : t.rx = s.rx := (congrArg State.rx h.frame).trans rfl
theorem State.MovedCore.lanes : t.lanes = s.lanes := (congrArg State.lanes h.frame).trans rfl
theorem State.MovedCore.mem : t.mem = s.mem := (congrArg State.mem h.frame).trans rfl
theorem State.MovedCore.house : t.house = s.house := (congrArg State.house h.frame).trans rfl
theorem State.MovedCore.egress : t.egress = s.egress := (congrArg State.egress h.frame).trans rfl
theorem State.MovedCore.orders : t.orders = s.orders := (congrArg State.orders h.frame).trans rfl
theorem State.MovedCore.majorLine : t.alarm.majorLine = s.alarm.majorLine :=
  (congrArg (fun u : State => u.alarm.majorLine) h.frame).trans rfl
theorem State.MovedCore.minorLine : t.alarm.minorLine = s.alarm.minorLine :=
  (congrArg (fun u : State => u.alarm.minorLine) h.frame).trans rfl

theorem State.MovedCore.rule (r : Fin 64) : t.rule r = s.rule r := by rw [State.rule, State.rule, h.tables]
theorem State.MovedCore.lane (l : Fin 32) : t.lane l = s.lane l := by rw [State.lane, State.lane, h.lanes]
theorem State.MovedCore.playState (p : Fin 16) : t.playState p = s.playState p := by
  rw [State.playState, h.programs p]
  rfl

end Frame

theorem State.MovedCore.keepsBase {s t : State} (h : s.MovedCore t) : s.KeepsBase t where
  memory := by
    rw [State.memOk, State.memOk, h.mem]
    exact id
  ranges hs := by
    refine ⟨?_, fun l => ?_, fun p => ?_, fun e => ?_, fun r => h.raises r (hs.raises r)⟩
    · have := hs.scalars
      rwa [State.scalarsOk, h.rx, h.egress, h.orders]
    · rw [h.lane]
      exact hs.lanes l
    · rw [h.programs]
      exact hs.programs p
    · rw [State.egressLane, h.egress]
      exact hs.crossfades e
  lanes := State.lanesOk_congr (by rw [h.tables])
  slots := State.slotsOk_congr (by rw [h.tables]) (by rw [h.egress]) (by rw [h.egress])
  started := State.startedOk_congr (by rw [h.tables]) (fun l => by rw [h.lane]) fun p => by rw [h.playState]
  apart := State.ringsApart_congr (by rw [h.tables]) fun l => by rw [h.lane]; exact id
  marks := h.marks
  orders := State.ordersOk_congr h.orders
  through := State.throughOk_congr (by rw [h.egress])
  outbox := by
    rw [h.egress]
    exact id
  bounds hs p := by
    rw [h.programs]
    exact hs p
  commands := (congrArg State.pending h.frame).trans rfl

/-- A move of the Alarm Unit that is handed on. -/
theorem State.Moved.followed {s t : State} (h : s.Moved t) (holds : s.holdsOk → t.holdsOk) :
    s.Keeps t.followThrough := h.keepsBase.followed holds h.owed

/-- What is derived stands where the hold counts stand and every record drives its line as it did. -/
theorem State.MovedCore.derived {s t : State} (h : s.MovedCore t)
    (hholds : ∀ p, (t.program p).holds = (s.program p).holds)
    (hdrives : ∀ severity r, t.drives severity r = s.drives severity r) (hl : s.linesOk) (hf : s.fadesOk) :
    t.linesOk ∧ t.fadesOk := by
  have hline := State.lineActive_congr h.running h.node hdrives
  refine ⟨⟨?_, ?_⟩, fun p => ?_⟩
  · rw [h.majorLine, hline, hl.1]
  · rw [h.minorLine, hline, hl.2]
  · rw [h.programs p, hholds p]
    exact hf p

/-- Notices leave hold counts and lines as they are. -/
theorem State.NoticedCore.keeps {s t : State} (h : s.NoticedCore t) : s.KeepsCore t where
  toKeepsBase := h.moved.keepsBase
  holds := State.holdsOk_congr (by rw [h.moved.tables]) (fun p => by rw [h.program p]) fun r =>
    ⟨Record.state_of_unmarked (h.records r), Record.due_of_unmarked (h.records r)⟩
  derived _ := h.moved.derived (fun p => by rw [h.program p]) fun severity r =>
    State.drives_congr (h.moved.rule r) (Record.state_of_unmarked (h.records r))
      (Record.acked_of_unmarked (h.records r)) severity

theorem State.Noticed.keeps {s t : State} (h : s.Noticed t) : s.Keeps t := ⟨h.toNoticedCore.keeps, h.owed⟩

/-! ### A hold count follows the record that moves (R139) -/

/-- Where two tests agree but at one place of a list without repetitions, their counts differ by that place. -/
theorem length_filter_of_agree {α : Type} {f g : α → Bool} {r : α} {xs : List α} (hxs : xs.Nodup) (hr : r ∈ xs)
    (h : ∀ k, k ≠ r → g k = f k) :
    (xs.filter g).length + (f r).toNat = (xs.filter f).length + (g r).toNat := by
  induction xs with
  | nil => cases hr
  | cons x xs ih =>
    obtain ⟨hx, hxs⟩ := List.nodup_cons.mp hxs
    rw [List.filter_cons, List.filter_cons]
    by_cases hxr : x = r
    · subst hxr
      have hsame : xs.filter g = xs.filter f := List.filter_congr fun k hk => h k fun e => hx (e ▸ hk)
      rw [hsame]
      cases f x <;> cases g x <;> simp
    · have hmem : r ∈ xs := (List.mem_cons.mp hr).resolve_left (Ne.symm hxr)
      have hrest := ih hxs hmem
      rw [h x hxr]
      cases f x <;> simp <;> omega

/-- The move that is due is one its record's state allows (R131 to R136). -/
def Record.DueOk (x : Record) : Prop :=
  (x.due = some .raise → x.state = .qualifying ∨ x.state = .releasing ∨ x.state = .ackWait) ∧
    (x.due = some .windowEnd → x.state = .qualifying) ∧ (x.due = some .release → x.state = .releasing)

theorem State.holdsOk_iff (s : State) : s.holdsOk ↔
    (∀ p a, (s.program p).holds.count a = ((List.finRange 64).filter (s.holdsOn p a)).length) ∧
      (∀ r, (s.rule r).enabled = false → (s.record r).state = .clear ∧ (s.record r).due = none) ∧
      ∀ r, (s.record r).DueOk := by
  unfold State.holdsOk Record.DueOk
  refine and_congr_right fun _ => and_congr_right fun _ => forall_congr' fun r => ?_
  cases (s.record r).due with
  | none => simp
  | some m => cases m <;> simp

/-- One rule and its record move, and the hold counts with them. -/
theorem State.holdsOk_move {s t : State} {r : Fin 64} (hrule : ∀ k, k ≠ r → t.rule k = s.rule k)
    (hrecord : ∀ k, k ≠ r → (t.record k).state = (s.record k).state ∧ (t.record k).due = (s.record k).due)
    (hcount : s.holdsOk → ∀ p a, (t.program p).holds.count a + (s.holdsOn p a r).toNat =
      (s.program p).holds.count a + (t.holdsOn p a r).toNat)
    (hdisabled : s.holdsOk → (t.rule r).enabled = false → (t.record r).state = .clear ∧ (t.record r).due = none)
    (hdue : s.holdsOk → (t.record r).DueOk) (hs : s.holdsOk) : t.holdsOk := by
  obtain ⟨hcounts, hoff, hmoves⟩ := (State.holdsOk_iff s).mp hs
  refine (State.holdsOk_iff t).mpr ⟨fun p a => ?_, fun k => ?_, fun k => ?_⟩
  · have hagree := length_filter_of_agree (f := s.holdsOn p a) (g := t.holdsOn p a) (List.nodup_finRange 64)
      (List.mem_finRange r) fun k hk => by rw [State.holdsOn, State.holdsOn, hrule k hk, (hrecord k hk).1]
    have hmove := hcount hs p a
    rw [hcounts p a] at hmove
    omega
  · by_cases hk : k = r
    · subst hk
      exact hdisabled hs
    · rw [hrule k hk, (hrecord k hk).1, (hrecord k hk).2]
      exact hoff k
  · by_cases hk : k = r
    · subst hk
      exact hdue hs
    · rw [Record.DueOk, (hrecord k hk).1, (hrecord k hk).2]
      exact hmoves k

theorem Holds.count_add (h : Holds) (x : Actions) (a : ActionName) :
    (h.add x).count a = h.count a + (x.has a).toNat := by
  cases a <;> rfl

theorem Holds.count_drop (h : Holds) (x : Actions) (a : ActionName) :
    (h.drop x).count a = h.count a - (x.has a).toNat := by
  cases a <;> rfl

/-- The rule's actions come to its program's hold counts, and to no other's (R134). -/
theorem State.count_holdActions (s : State) (rl : Rule) (p : Fin 16) (a : ActionName) :
    ((s.holdActions rl).program p).holds.count a =
      (s.program p).holds.count a + (rl.scope == some p && rl.actions.has a).toNat := by
  unfold State.holdActions
  cases rl.scope with
  | none => rfl
  | some q =>
    by_cases hq : p = q
    · subst hq
      rw [State.program_setProgram_self, Holds.count_add, beq_self_eq_true, Bool.true_and]
    · rw [State.program_setProgram_ne _ _ hq, beq_false_of_ne (fun e => hq (Option.some.inj e).symm)]
      rfl

/-- The rule's actions leave its program's hold counts, and no other's (R135). -/
theorem State.count_releaseActions (s : State) (rl : Rule) (p : Fin 16) (a : ActionName) :
    ((s.releaseActions rl).program p).holds.count a =
      (s.program p).holds.count a - (rl.scope == some p && rl.actions.has a).toNat := by
  unfold State.releaseActions
  cases rl.scope with
  | none => rfl
  | some q =>
    by_cases hq : p = q
    · subst hq
      rw [State.program_setProgram_self, Holds.count_drop, beq_self_eq_true, Bool.true_and]
    · rw [State.program_setProgram_ne _ _ hq, beq_false_of_ne (fun e => hq (Option.some.inj e).symm)]
      rfl

end Sys2Proof.Machine
end

section
/-! SUPPORT. Each move of a record keeps every invariant (R130, R133 to R138). -/

namespace Sys2Proof.Machine

/-! ### The two halves of a move: the record, and the hold counts -/

theorem State.Moved.setRecord {s : State} {r : Fin 64} {x : Record} (hq : x.queued = (s.record r).queued)
    (ho : x.owed = (s.record r).owed) (hraises : (s.record r).raises ≤ 65535 → x.raises ≤ 65535) :
    s.Moved (s.setRecord r x) where
  frame := rfl
  programs _ := rfl
  raises k := by
    by_cases hk : k = r
    · subst hk
      rwa [State.record_setRecord_self]
    · rw [State.record_setRecord_ne _ _ hk]
      exact id
  marks := State.marksOk_congr rfl fun k => by
    by_cases hk : k = r
    · subst hk
      rw [State.record_setRecord_self]
      exact ⟨hq, ho⟩
    · rw [State.record_setRecord_ne _ _ hk]
      exact ⟨rfl, rfl⟩
  owed _ := State.owedOk_congr rfl (fun k => by
    by_cases hk : k = r
    · subst hk
      rwa [State.record_setRecord_self]
    · rw [State.record_setRecord_ne _ _ hk]) id

theorem State.Moved.setHolds {s : State} (p : Fin 16) (h : Holds) :
    s.Moved (s.setProgram p { s.program p with holds := h }) where
  frame := rfl
  programs q := by
    by_cases hq : q = p
    · subst hq
      rw [State.program_setProgram_self]
    · rw [State.program_setProgram_ne _ _ hq]
  raises _ := id
  marks := id
  owed _ := id

theorem State.holdActions_moved (s : State) (rl : Rule) : s.Moved (s.holdActions rl) := by
  unfold State.holdActions
  split
  · exact .setHolds _ _
  · exact .refl s

theorem State.releaseActions_moved (s : State) (rl : Rule) : s.Moved (s.releaseActions rl) := by
  unfold State.releaseActions
  split
  · exact .setHolds _ _
  · exact .refl s

@[simp] theorem State.record_holdActions (s : State) (rl : Rule) (k : Fin 64) :
    (s.holdActions rl).record k = s.record k := by
  unfold State.holdActions
  split <;> rfl

@[simp] theorem State.record_releaseActions (s : State) (rl : Rule) (k : Fin 64) :
    (s.releaseActions rl).record k = s.record k := by
  unfold State.releaseActions
  split <;> rfl

/-- A disabled rule's record is CLEAR with no move due (R130). -/
theorem State.holdsOk.disabled {s : State} (h : s.holdsOk) {r : Fin 64} (hoff : (s.rule r).enabled = false) :
    (s.record r).state = .clear ∧ (s.record r).due = none := ((State.holdsOk_iff s).mp h).2.1 r hoff

theorem State.holdsOk.dueOk {s : State} (h : s.holdsOk) (r : Fin 64) : (s.record r).DueOk :=
  ((State.holdsOk_iff s).mp h).2.2 r

theorem State.holdsOk.enabled_of_due {s : State} (h : s.holdsOk) {r : Fin 64} {m : DueMove}
    (hm : (s.record r).due = some m) : (s.rule r).enabled = true := by
  by_contra hoff
  rw [(h.disabled (eq_false_of_ne_true hoff)).2] at hm
  cases hm

/-- A rule whose record does not hold its actions adds nothing to a hold count. -/
theorem State.holdsOn_of_not_holding {s : State} {r : Fin 64} (h : (s.record r).state.holding = false) (p : Fin 16)
    (a : ActionName) : s.holdsOn p a r = false := by
  rw [State.holdsOn, h, Bool.and_false]

/-- An enabled rule whose record holds its actions adds one to the counts of the actions it names on its program. -/
theorem State.holdsOn_of_holding {s : State} {r : Fin 64} (h : (s.record r).state.holding = true)
    (hon : (s.rule r).enabled = true) (p : Fin 16) (a : ActionName) :
    s.holdsOn p a r = ((s.rule r).scope == some p && (s.rule r).actions.has a) := by
  rw [State.holdsOn, h, hon, Bool.true_and, Bool.and_true]

/-- The count of an action holds at least the rule that holds it. -/
theorem State.holdsOk.le_count {s : State} (h : s.holdsOk) {r : Fin 64} {p : Fin 16} {a : ActionName} :
    (s.holdsOn p a r).toNat ≤ (s.program p).holds.count a := by
  rw [((State.holdsOk_iff s).mp h).1 p a]
  cases hr : s.holdsOn p a r with
  | false => exact Nat.zero_le _
  | true => exact List.length_pos_of_mem (List.mem_filter.mpr ⟨List.mem_finRange r, hr⟩)

theorem Record.DueOk.of_none {x : Record} (h : x.due = none) : x.DueOk := by
  simp only [Record.DueOk, h, reduceCtorEq, false_imp_iff, and_self]

/-- The hold counts stay true where one record moves and they move with it. -/
theorem State.Moved.holdsOk {s t : State} (h : s.Moved t) (r : Fin 64)
    (hrecord : ∀ k, k ≠ r → t.record k = s.record k)
    (hcount : s.holdsOk → ∀ p a, (t.program p).holds.count a + (s.holdsOn p a r).toNat =
      (s.program p).holds.count a + (t.holdsOn p a r).toNat)
    (hclear : s.holdsOk → (s.rule r).enabled = false → (t.record r).state = .clear ∧ (t.record r).due = none)
    (hdue : s.holdsOk → (t.record r).DueOk) : s.holdsOk → t.holdsOk :=
  State.holdsOk_move (fun k _ => h.rule k) (fun k hk => by rw [hrecord k hk]; exact ⟨rfl, rfl⟩) hcount
    (fun hs hoff => hclear hs (h.rule r ▸ hoff)) hdue

/-! ### A record alone moves -/

section Alone
variable {s : State} {r : Fin 64} {x : Record}

/-- A record that holds its actions or not as before leaves every hold count true. -/
theorem State.holdsOk_setRecord (hholding : x.state.holding = (s.record r).state.holding)
    (hclear : s.holdsOk → (s.rule r).enabled = false → x.state = .clear ∧ x.due = none) (hdue : s.holdsOk → x.DueOk) :
    s.holdsOk → (s.setRecord r x).holdsOk := by
  refine State.holdsOk_move (r := r) (fun _ _ => rfl) (fun k hk => by
    rw [State.record_setRecord_ne _ _ hk]
    exact ⟨rfl, rfl⟩) (fun _ p a => ?_) (fun hs => ?_) fun hs => ?_
  · rw [State.holdsOn, State.holdsOn, State.record_setRecord_self, hholding]
    rfl
  · rw [State.record_setRecord_self]
    exact hclear hs
  · rw [State.record_setRecord_self]
    exact hdue hs

end Alone

/-- A record in CLEAR or QUALIFYING drives no line (R141). -/
theorem State.drives_of_idle {s : State} {r : Fin 64} (hheld : (s.record r).state.holding = false)
    (hwait : (s.record r).state ≠ .ackWait) (severity : Severity) : s.drives severity r = false := by
  rw [State.drives, hheld, beq_false_of_ne hwait, Bool.or_false, Bool.and_false]

theorem State.endWindow_keeps {s : State} {r : Fin 64} (hdue : (s.record r).due = some .windowEnd) :
    s.Keeps (s.endWindow r) := by
  unfold State.endWindow
  dsimp only
  generalize hx : ({ s.record r with
    state := if (s.record r).qual = 0 then .clear else (s.record r).state, qual := 0, window := 0, due := none } :
      Record) = x
  have hmoved : s.Moved (s.setRecord r x) := by
    subst hx
    exact .setRecord rfl rfl id
  have hidle : s.holdsOk → (s.record r).state = .qualifying := fun hs => (hs.dueOk r).2.1 hdue
  have hstate : s.holdsOk → x.state = .clear ∨ x.state = .qualifying := fun hs => by
    subst hx
    simp only [hidle hs]
    split
    · exact .inl rfl
    · exact .inr rfl
  have hnone : x.due = none := by subst hx; rfl
  have hholding : s.holdsOk → x.state.holding = false ∧ x.state ≠ .ackWait := fun hs => by
    rcases hstate hs with h | h <;> rw [h] <;> exact ⟨rfl, RecordState.noConfusion⟩
  refine ⟨⟨hmoved.keepsBase, fun hs => ?_, fun hs => hmoved.derived (fun _ => rfl) fun severity k => ?_⟩, hmoved.owed⟩
  · refine State.holdsOk_setRecord (by rw [hidle hs, (hholding hs).1]; rfl) (fun hs hoff => ?_) (fun _ => .of_none hnone) hs
    rw [hs.enabled_of_due hdue] at hoff
    cases hoff
  · by_cases hk : k = r
    · subst hk
      rw [State.drives_of_idle (s := s) (by rw [hidle hs]; rfl) (by rw [hidle hs]; exact RecordState.noConfusion),
        State.drives_of_idle (by rw [State.record_setRecord_self]; exact (hholding hs).1)
          (by rw [State.record_setRecord_self]; exact (hholding hs).2)]
    · have hother := State.record_setRecord_ne s x hk
      exact State.drives_congr (s.rule_setRecord r x k) (congrArg Record.state hother) (congrArg Record.acked hother) severity

/-! ### Records move with their hold counts -/

/-- Records and hold counts move together, and the counts stay true (R139). -/
structure State.RecordsMoved (s t : State) : Prop extends State.Moved s t where
  holds : s.holdsOk → t.holdsOk

theorem State.RecordsMoved.refl (s : State) : s.RecordsMoved s := ⟨.refl s, id⟩

theorem State.RecordsMoved.trans {s t u : State} (h : s.RecordsMoved t) (k : t.RecordsMoved u) : s.RecordsMoved u :=
  ⟨h.toMoved.trans k.toMoved, k.holds ∘ h.holds⟩

theorem State.Noticed.recordsMoved {s t : State} (h : s.Noticed t) : s.RecordsMoved t := ⟨h.moved, h.keeps.holds⟩

theorem State.RecordsMoved.followed {s t : State} (h : s.RecordsMoved t) : s.Keeps t.followThrough :=
  h.toMoved.followed h.holds

/-- And a notice-making change behind the move (R142). -/
theorem State.RecordsMoved.noticed {s t : State} (h : s.RecordsMoved t) (r : Fin 64) (cause : Cause) (flagged : Bool) :
    s.RecordsMoved (t.noticeChange r cause flagged) := h.trans (t.noticeChange_noticed r cause flagged).recordsMoved

/-- A record that does not hold its actions takes another such state. -/
theorem State.RecordsMoved.idle {s : State} {r : Fin 64} {x : Record} (hq : x.queued = (s.record r).queued)
    (ho : x.owed = (s.record r).owed) (hraises : x.raises = (s.record r).raises)
    (hbefore : (s.record r).state.holding = false) (hafter : x.state.holding = false) (hnone : x.due = none)
    (hclear : (s.record r).state = .clear → x.state = .clear) : s.RecordsMoved (s.setRecord r x) where
  toMoved := .setRecord hq ho fun h => hraises.trans_le h
  holds := State.holdsOk_setRecord (hafter.trans hbefore.symm) (fun hs hoff => ⟨hclear (hs.disabled hoff).1, hnone⟩)
    fun _ => .of_none hnone

/-- A record that holds its actions lets them go, and they leave its program's hold counts (R130, R135, R138). -/
theorem State.RecordsMoved.released {s : State} {r : Fin 64} {x : Record} (hq : x.queued = (s.record r).queued)
    (ho : x.owed = (s.record r).owed) (hraises : x.raises = (s.record r).raises)
    (hbefore : s.holdsOk → (s.record r).state.holding = true) (hafter : x.state.holding = false) (hnone : x.due = none) :
    s.RecordsMoved ((s.setRecord r x).releaseActions (s.rule r)) := by
  have hmoved : s.Moved ((s.setRecord r x).releaseActions (s.rule r)) :=
    (State.releaseActions_moved _ _).after (.setRecord hq ho fun h => hraises.trans_le h)
  have hrec : ∀ k, ((s.setRecord r x).releaseActions (s.rule r)).record k = (s.setRecord r x).record k :=
    fun k => State.record_releaseActions _ _ k
  have hself := (hrec r).trans (State.record_setRecord_self s r x)
  have henabled : s.holdsOk → (s.rule r).enabled = true := fun hs => by
    by_contra hoff
    have hheld := hbefore hs
    rw [(hs.disabled (eq_false_of_ne_true hoff)).1] at hheld
    cases hheld
  refine ⟨hmoved, hmoved.holdsOk r (fun k hk => by rw [hrec, State.record_setRecord_ne _ _ hk]) (fun hs p a => ?_)
    (fun hs hoff => ?_) fun _ => .of_none (hself.symm ▸ hnone)⟩
  · have hheld := State.holdsOn_of_holding (p := p) (a := a) (hbefore hs) (henabled hs)
    have hle := hs.le_count (r := r) (p := p) (a := a)
    rw [State.holdsOn_of_not_holding (s := (s.setRecord r x).releaseActions (s.rule r)) (by rw [hself]; exact hafter),
      hheld, State.count_releaseActions]
    rw [hheld] at hle
    exact Nat.sub_add_cancel hle
  · rw [henabled hs] at hoff
    cases hoff

/-- A record that begins to hold its actions, and they come to its program's hold counts (R134). -/
theorem State.RecordsMoved.held {s : State} {r : Fin 64} {x : Record} (hq : x.queued = (s.record r).queued)
    (ho : x.owed = (s.record r).owed) (hraises : (s.record r).raises ≤ 65535 → x.raises ≤ 65535)
    (hbefore : s.holdsOk → (s.record r).state.holding = false) (henabled : s.holdsOk → (s.rule r).enabled = true)
    (hafter : x.state.holding = true) (hnone : x.due = none) :
    s.RecordsMoved ((s.setRecord r x).holdActions (s.rule r)) := by
  have hmoved : s.Moved ((s.setRecord r x).holdActions (s.rule r)) :=
    (State.holdActions_moved _ _).after (.setRecord hq ho hraises)
  have hrec : ∀ k, ((s.setRecord r x).holdActions (s.rule r)).record k = (s.setRecord r x).record k :=
    fun k => State.record_holdActions _ _ k
  have hself := (hrec r).trans (State.record_setRecord_self s r x)
  refine ⟨hmoved, hmoved.holdsOk r (fun k hk => by rw [hrec, State.record_setRecord_ne _ _ hk]) (fun hs p a => ?_)
    (fun hs hoff => ?_) fun _ => .of_none (hself.symm ▸ hnone)⟩
  · rw [State.holdsOn_of_not_holding (hbefore hs), State.holdsOn_of_holding
      (s := (s.setRecord r x).holdActions (s.rule r)) (by rw [hself]; exact hafter)
      (by rw [hmoved.rule]; exact henabled hs), hmoved.rule, State.count_holdActions]
    rfl
  · rw [henabled hs] at hoff
    cases hoff

/-! ### Raising and releasing (R134 to R136) -/

/-- A record as it enters RAISED (R134, R136). -/
def Record.enterRaised (x : Record) (rl : Rule) : Record :=
  { x with
    state := .raised, due := none, release := 0
    stretch := if x.state != .releasing then rl.stretch else x.stretch
    acked := x.acked && x.state != .ackWait
    raises := if x.state == .qualifying then satAdd x.raises 1 else x.raises }

theorem State.raiseRecord_eq (s : State) (r : Fin 64) : s.raiseRecord r =
    ((if (s.record r).state != .releasing then
        (s.setRecord r ((s.record r).enterRaised (s.rule r))).holdActions (s.rule r)
      else s.setRecord r ((s.record r).enterRaised (s.rule r))).noticeChange r .raised (s.rule r).notice).followThrough :=
  rfl

theorem Record.enterRaised_raises {x : Record} (rl : Rule) (h : x.raises ≤ 65535) :
    (x.enterRaised rl).raises ≤ 65535 := by
  unfold Record.enterRaised
  dsimp only
  split
  · exact satAdd_le _ _
  · exact h

theorem State.raiseRecord_keeps {s : State} {r : Fin 64} (hdue : (s.record r).due = some .raise) :
    s.Keeps (s.raiseRecord r) := by
  have henabled : s.holdsOk → (s.rule r).enabled = true := fun hs => hs.enabled_of_due hdue
  rw [State.raiseRecord_eq]
  split
  · next hfresh =>
    have hheld : s.RecordsMoved ((s.setRecord r ((s.record r).enterRaised (s.rule r))).holdActions (s.rule r)) :=
      .held rfl rfl (Record.enterRaised_raises _) (fun hs => by
        rcases (hs.dueOk r).1 hdue with h | h | h
        · rw [h]; rfl
        · rw [h] at hfresh; cases hfresh
        · rw [h]; rfl) henabled rfl rfl
    exact (hheld.noticed _ _ _).followed
  · next hfresh =>
    have hreleasing : (s.record r).state = .releasing := by simpa using hfresh
    have hraised : s.RecordsMoved (s.setRecord r ((s.record r).enterRaised (s.rule r))) :=
      ⟨.setRecord rfl rfl (Record.enterRaised_raises _),
        State.holdsOk_setRecord (by rw [hreleasing]; rfl) (fun hs hoff => by
          rw [henabled hs] at hoff
          cases hoff) fun _ => .of_none rfl⟩
    exact (hraised.noticed _ _ _).followed

/-- A record leaves RELEASING for CLEAR under AUTO or acknowledged, and for ACK_WAIT otherwise (R135). -/
def Record.leaveReleasing (x : Record) (rl : Rule) : Record :=
  { x with state := if rl.ackMode == .auto || x.acked then .clear else .ackWait, due := none }

theorem State.releaseRecord_keeps {s : State} {r : Fin 64} (hdue : (s.record r).due = some .release) :
    s.Keeps (s.releaseRecord r) := by
  have hidle : ((s.record r).leaveReleasing (s.rule r)).state.holding = false := by
    unfold Record.leaveReleasing
    dsimp only
    split <;> rfl
  have hreleased : s.RecordsMoved ((s.setRecord r ((s.record r).leaveReleasing (s.rule r))).releaseActions (s.rule r)) :=
    .released rfl rfl rfl (fun hs => by rw [(hs.dueOk r).2.2 hdue]; rfl) hidle rfl
  exact (hreleased.noticed _ _ _).followed

/-! ### Acknowledging, parking and rewriting (R130, R137, R138) -/

theorem State.acknowledge_moved (s : State) (r : Fin 64) : s.RecordsMoved (s.acknowledge r) := by
  have hacked : s.RecordsMoved (s.setRecord r { s.record r with acked := true }) :=
    ⟨.setRecord rfl rfl id, State.holdsOk_setRecord rfl (fun hs hoff => hs.disabled hoff) fun hs => hs.dueOk r⟩
  have hclosed : (s.record r).state = .ackWait →
      s.RecordsMoved (s.setRecord r { s.record r with state := .clear, acked := true, due := none }) := fun h =>
    .idle rfl rfl rfl (by rw [h]; rfl) rfl rfl fun _ => rfl
  unfold State.acknowledge
  dsimp only
  split
  · exact .refl s
  · exact .refl s
  · split
    · exact .refl s
    · exact hacked.noticed _ _ _
  · split
    · exact .refl s
    · exact hacked.noticed _ _ _
  · next h => exact (hclosed h).noticed _ _ _

/-- A record returns to CLEAR, its actions leaving the hold counts where it holds them (R130, R138). -/
theorem State.cleared_moved (s : State) (r : Fin 64) : s.RecordsMoved (
    if (s.record r).state.holding = true then (s.setRecord r (s.record r).cleared).releaseActions (s.rule r)
    else s.setRecord r (s.record r).cleared) := by
  split
  · next h => exact .released (x := (s.record r).cleared) rfl rfl rfl (fun _ => h) rfl rfl
  · next h =>
    exact .idle (x := (s.record r).cleared) rfl rfl rfl (eq_false_of_ne_true h) rfl rfl fun _ => rfl

theorem State.parkRecord_moved (s : State) (r : Fin 64) : s.RecordsMoved (s.parkRecord r) := by
  have hcleared := s.cleared_moved r
  unfold State.parkRecord
  dsimp only
  split
  · exact .refl s
  · next h => simpa only [h, RecordState.holding, Bool.false_eq_true, if_false] using hcleared
  · next h =>
    simp only [h, RecordState.holding, if_true] at hcleared
    exact hcleared.noticed _ _ _
  · next h =>
    simp only [h, RecordState.holding, if_true] at hcleared
    exact hcleared.noticed _ _ _
  · next h =>
    simp only [h, RecordState.holding, Bool.false_eq_true, if_false] at hcleared
    exact hcleared.noticed _ _ _

theorem State.parkRecords_moved (s : State) (p : Fin 16) : s.RecordsMoved (s.parkRecords p) := by
  refine foldl_rel State.RecordsMoved.refl State.RecordsMoved.trans (fun s r => ?_) _ s
  split
  · exact s.parkRecord_moved r
  · exact .refl s

theorem State.acknowledgeAll_moved (s : State) :
    s.RecordsMoved ((List.finRange 64).foldl (fun s r => s.acknowledge r) s) :=
  foldl_rel State.RecordsMoved.refl State.RecordsMoved.trans (fun s r => s.acknowledge_moved r) _ s

end Sys2Proof.Machine
end

section
/-! SUPPORT. The remaining steps of the part's own, the alarm tick, the resets and the writes of tables: each keeps every
invariant. -/

namespace Sys2Proof.Machine

/-! ### Moves elsewhere in the part -/

/-- Only the receiver, House Timing, the shared tables but for lanes, programs and map, and the frame sent move. -/
def State.Elsewhere (s t : State) : Prop :=
  t = { s with
    rx := t.rx, house := t.house
    tables := { t.tables with lanes := s.tables.lanes, programs := s.tables.programs, map := s.tables.map }
    alarm := { s.alarm with shedSeen := t.alarm.shedSeen }
    egress := { s.egress with
      number := t.egress.number, rotation := t.egress.rotation, sampleFrom := t.egress.sampleFrom, sent := t.egress.sent } }

section Frame
variable {s t : State} (h : s.Elsewhere t)
include h

theorem State.Elsewhere.lane (l : Fin 32) : t.lane l = s.lane l := (congrArg (fun u : State => u.lane l) h).trans rfl
theorem State.Elsewhere.program (p : Fin 16) : t.program p = s.program p :=
  (congrArg (fun u : State => u.program p) h).trans rfl
theorem State.Elsewhere.record (r : Fin 64) : t.record r = s.record r :=
  (congrArg (fun u : State => u.record r) h).trans rfl
theorem State.Elsewhere.egressLane (e : Fin 32) : t.egressLane e = s.egressLane e :=
  (congrArg (fun u : State => u.egressLane e) h).trans rfl
theorem State.Elsewhere.mem : t.mem = s.mem := (congrArg State.mem h).trans rfl
theorem State.Elsewhere.orders : t.orders = s.orders := (congrArg State.orders h).trans rfl
theorem State.Elsewhere.running : t.running = s.running := (congrArg State.running h).trans rfl
theorem State.Elsewhere.node : t.node = s.node := (congrArg State.node h).trans rfl
theorem State.Elsewhere.laneTable : t.tables.lanes = s.tables.lanes :=
  (congrArg (fun u : State => u.tables.lanes) h).trans rfl
theorem State.Elsewhere.programTable : t.tables.programs = s.tables.programs :=
  (congrArg (fun u : State => u.tables.programs) h).trans rfl
theorem State.Elsewhere.mapTable : t.tables.map = s.tables.map := (congrArg (fun u : State => u.tables.map) h).trans rfl
theorem State.Elsewhere.notices : t.alarm.notices = s.alarm.notices :=
  (congrArg (fun u : State => u.alarm.notices) h).trans rfl
theorem State.Elsewhere.majorLine : t.alarm.majorLine = s.alarm.majorLine :=
  (congrArg (fun u : State => u.alarm.majorLine) h).trans rfl
theorem State.Elsewhere.minorLine : t.alarm.minorLine = s.alarm.minorLine :=
  (congrArg (fun u : State => u.alarm.minorLine) h).trans rfl
theorem State.Elsewhere.map : t.egress.map = s.egress.map := (congrArg (fun u : State => u.egress.map) h).trans rfl
theorem State.Elsewhere.pending : t.egress.pending = s.egress.pending :=
  (congrArg (fun u : State => u.egress.pending) h).trans rfl
theorem State.Elsewhere.outbox : t.egress.outbox = s.egress.outbox :=
  (congrArg (fun u : State => u.egress.outbox) h).trans rfl
theorem State.Elsewhere.passthrough : t.egress.passthrough = s.egress.passthrough :=
  (congrArg (fun u : State => u.egress.passthrough) h).trans rfl
theorem State.Elsewhere.shed : t.egress.shed = s.egress.shed := (congrArg (fun u : State => u.egress.shed) h).trans rfl

theorem State.Elsewhere.keepsBase (hrx : s.scalarsOk → t.scalarsOk) : s.KeepsBase t where
  memory := by
    rw [State.memOk, State.memOk, h.mem]
    exact id
  ranges hs := ⟨hrx hs.scalars, fun l => by rw [h.lane]; exact hs.lanes l, fun p => by rw [h.program]; exact hs.programs p,
    fun e => by rw [h.egressLane]; exact hs.crossfades e, fun r => by rw [h.record]; exact hs.raises r⟩
  lanes := State.lanesOk_congr h.laneTable
  slots := State.slotsOk_congr h.mapTable h.map h.pending
  started := State.startedOk_congr h.programTable (fun l => by rw [h.lane]) fun p => by
    rw [State.playState, h.program]
    rfl
  apart := State.ringsApart_congr h.laneTable fun l => by rw [h.lane]; exact id
  marks := State.marksOk_congr h.notices fun r => by rw [h.record]; exact ⟨rfl, rfl⟩
  orders := State.ordersOk_congr h.orders
  through := State.throughOk_congr h.passthrough
  outbox := by
    rw [h.outbox]
    exact id
  bounds hs p := by
    rw [h.program]
    exact hs p
  commands := (congrArg State.pending h).trans rfl

/-- Where the rules stand too, every invariant is kept but for the notices owed. -/
theorem State.Elsewhere.keepsCore (hrx : s.scalarsOk → t.scalarsOk) (hrules : t.tables.rules = s.tables.rules) :
    s.KeepsCore t where
  toKeepsBase := h.keepsBase hrx
  holds := State.holdsOk_congr hrules (fun p => by rw [h.program]) fun r => by rw [h.record]; exact ⟨rfl, rfl⟩
  derived := fun _ hl hf => by
    have hline := State.lineActive_congr h.running h.node fun severity r => State.drives_congr
      (by rw [State.rule, State.rule, hrules]) (by rw [h.record r]) (by rw [h.record r]) severity
    refine ⟨⟨?_, ?_⟩, fun p => ?_⟩
    · rw [h.majorLine, hline, hl.1]
    · rw [h.minorLine, hline, hl.2]
    · rw [h.program]
      exact hf p

theorem State.Elsewhere.keeps (hrx : s.scalarsOk → t.scalarsOk) (hrules : t.tables.rules = s.tables.rules)
    (hhouse : s.house.warmedUp = true ∧ s.house.toFrame = 12 → t.house.warmedUp = true ∧ t.house.toFrame = 12) :
    s.Keeps t :=
  ⟨h.keepsCore hrx hrules, fun _ => State.owedOk_congr (by rw [h.notices]) (fun r => by rw [h.record]) hhouse⟩

end Frame

/-- The receiver's counters in their range. -/
def Receiver.inRange (x : Receiver) : Prop :=
  x.checkFails ≤ 65535 ∧ x.unknownKinds ≤ 65535 ∧ x.countErrors ≤ 65535 ∧ x.lockLosses ≤ 65535

/-- The receiver moves, its counters in their range. -/
theorem State.setRx_keeps (s : State) {x : Receiver} (h : s.rx.inRange → x.inRange) :
    s.Keeps { s with rx := x } := by
  refine State.Elsewhere.keeps rfl ?_ rfl id
  rintro ⟨hcheck, hkinds, hcount, hlock, hrest⟩
  obtain ⟨hcheck', hkinds', hcount', hlock'⟩ := h ⟨hcheck, hkinds, hcount, hlock⟩
  exact ⟨hcheck', hkinds', hcount', hlock', hrest⟩

/-- House Timing moves, a frame period that begins still beginning. -/
theorem State.setHouse_keeps (s : State) {x : House} (h : s.house.warmedUp = true ∧ s.house.toFrame = 12 →
    x.warmedUp = true ∧ x.toFrame = 12) : s.Keeps { s with house := x } :=
  State.Elsewhere.keeps rfl id rfl h

/-! ### The receiver (R1 to R5, R10) -/

theorem Receiver.hunt_inRange {x : Receiver} (h : x.inRange) : x.hunt.inRange := h

theorem Receiver.loseLock_inRange {x : Receiver} (h : x.inRange) : x.loseLock.inRange :=
  ⟨h.1, h.2.1, h.2.2.1, satAdd_le _ _⟩

theorem Receiver.fault_inRange {x : Receiver} (h : x.inRange) : x.fault.inRange := by
  unfold Receiver.fault
  split
  · exact x.loseLock_inRange h
  · exact h

theorem Receiver.found_inRange {x : Receiver} (position : Nat) (head : FrameHead) (h : x.inRange) :
    (x.found position head).inRange := by
  unfold Receiver.found
  split
  · split <;> exact h
  · exact h

theorem Receiver.check_inRange {x : Receiver} (head : FrameHead) (h : x.inRange) : (x.check head).inRange := by
  unfold Receiver.check
  split
  · split <;> exact h
  · exact h

theorem Receiver.examine_inRange {x : Receiver} (head : FrameHead) (h : x.inRange) : (x.examine head).inRange := by
  unfold Receiver.examine
  split
  · split
    · exact h
    · split
      · exact x.fault_inRange h
      · split
        · exact h
        · exact x.loseLock_inRange h
  · exact h

theorem Receiver.reject_inRange {x : Receiver} (c : SlotContent) (h : x.inRange) : (x.reject c).inRange := by
  obtain ⟨hcheck, hkinds, hcount, hlock⟩ := h
  cases c with
  | badCheck => exact ⟨satAdd_le _ _, hkinds, hcount, hlock⟩
  | unknownKind => exact ⟨hcheck, satAdd_le _ _, hcount, hlock⟩
  | badCount => exact ⟨hcheck, hkinds, satAdd_le _ _, hlock⟩
  | _ => exact ⟨hcheck, hkinds, hcount, hlock⟩

/-! ### A rewritten rule (R130) -/

/-- A rule's entry takes another value. -/
def State.setRule (s : State) (r : Fin 64) (e : Rule) : State :=
  { s with tables := { s.tables with rules := s.tables.rules.set r.val e r.isLt } }

theorem State.rule_setRule_self (s : State) (r : Fin 64) (e : Rule) : (s.setRule r e).rule r = e := by
  simp [State.rule, State.setRule]

theorem State.rule_setRule_ne (s : State) {r k : Fin 64} (e : Rule) (h : k ≠ r) :
    (s.setRule r e).rule k = s.rule k := by
  have : r.val ≠ k.val := fun e => h (Fin.ext e.symm)
  simp [State.rule, State.setRule, this]

/-- The rule written over, and its record CLEAR, before any notice (R130). -/
def State.ruleCleared (s : State) (r : Fin 64) (e : Rule) : State :=
  (if (s.record r).state.holding = true then (s.setRecord r (s.record r).cleared).releaseActions (s.rule r)
    else s.setRecord r (s.record r).cleared).setRule r e

theorem State.rewriteRule_eq (s : State) (r : Fin 64) (e : Rule) : s.rewriteRule r e =
    (let t := if (s.record r).state = .clear then s.ruleCleared r e
      else (s.ruleCleared r e).noticeChange r .rewritten ((s.rule r).notice || e.notice)
    if (s.record r).queued then t.refreshNotice r else t).followThrough := by
  have hcleared : State.setRecord (State.setRule
      (if (s.record r).state.holding = true then s.releaseActions (s.rule r) else s) r e) r (s.record r).cleared =
      s.ruleCleared r e := by
    unfold State.ruleCleared State.releaseActions
    split
    · cases (s.rule r).scope <;> rfl
    · rfl
  rw [← hcleared]
  rfl

theorem State.ruleCleared_moved (s : State) (r : Fin 64) (e : Rule) :
    s.KeepsBase (s.ruleCleared r e) ∧ (s.holdsOk → (s.ruleCleared r e).holdsOk) ∧
      (s.marksOk → s.owedOk → (s.ruleCleared r e).owedOk) := by
  have hmoved := s.cleared_moved r
  unfold State.ruleCleared
  generalize hu : (if (s.record r).state.holding = true then
    (s.setRecord r (s.record r).cleared).releaseActions (s.rule r) else s.setRecord r (s.record r).cleared) = u at hmoved ⊢
  have hrecord : u.record r = (s.record r).cleared := by
    subst hu
    split
    · rw [State.record_releaseActions, State.record_setRecord_self]
    · rw [State.record_setRecord_self]
  have helsewhere : u.Elsewhere (u.setRule r e) := rfl
  refine ⟨hmoved.keepsBase.trans (helsewhere.keepsBase id), fun hs => ?_, fun hm ho => ?_⟩
  · have hidle : (u.record r).state.holding = false := by rw [hrecord]; rfl
    refine State.holdsOk_move (s := u) (r := r) (fun k hk => u.rule_setRule_ne e hk)
      (fun _ _ => ⟨rfl, rfl⟩) (fun _ p a => ?_) (fun _ _ => ?_) (fun _ => ?_) (hmoved.holds hs)
    · rw [State.holdsOn_of_not_holding hidle, State.holdsOn_of_not_holding (s := u.setRule r e) hidle]
      rfl
    · exact hrecord ▸ ⟨rfl, rfl⟩
    · exact .of_none (hrecord ▸ rfl)
  · exact State.owedOk_congr rfl (fun _ => rfl) id (hmoved.owed hm ho)

theorem State.rewriteRule_keeps (s : State) (r : Fin 64) (e : Rule) : s.Keeps (s.rewriteRule r e) := by
  obtain ⟨hbase, hholds, howed⟩ := s.ruleCleared_moved r e
  rw [State.rewriteRule_eq]
  have hnoticed : (s.ruleCleared r e).Noticed (
      if (s.record r).state = .clear then s.ruleCleared r e
      else (s.ruleCleared r e).noticeChange r .rewritten ((s.rule r).notice || e.notice)) := by
    split
    · exact .refl _
    · exact State.noticeChange_noticed _ _ _ _
  generalize (if (s.record r).state = .clear then s.ruleCleared r e
      else (s.ruleCleared r e).noticeChange r .rewritten ((s.rule r).notice || e.notice)) = t at hnoticed ⊢
  have hrefreshed : (s.ruleCleared r e).Noticed (if (s.record r).queued = true then t.refreshNotice r else t) := by
    split
    · exact hnoticed.trans (t.refreshNotice_noticed r)
    · exact hnoticed
  exact (hbase.trans hrefreshed.keeps.toKeepsBase).followed (hrefreshed.keeps.holds ∘ hholds)
    fun hm ho => hrefreshed.owed (hbase.marks hm) (howed hm ho)

end Sys2Proof.Machine
end

section
/-! SUPPORT. The alarm tick, the start and the end of a program and auto-start: each keeps every invariant (R40, R41, R49,
R52, R125, R146). -/

namespace Sys2Proof.Machine

/-! ### Every lane, every program -/

theorem State.Handed.mapLanes {s : State} {f : Fin 32 → Lane → Lane} (h : ∀ l, (s.lane l).Orderly (f l (s.lane l))) :
    s.Handed (s.mapLanes f) := by
  refine State.Orderly.handed ⟨?frame, fun l => ?lanes, fun p => ?programs, ?mem, ?outbox, fun e => ?crossfades⟩
    (State.mapLanes_alarm s f) fun p => ?fade
  case frame =>
    unfold State.mapLanes
    rfl
  case lanes =>
    rw [State.lane_mapLanes]
    exact h l
  case programs =>
    rw [State.program_mapLanes]
    exact .refl _
  case mem =>
    rw [State.mapLanes_mem]
    exact id
  case outbox =>
    rw [State.mapLanes_egress]
    exact id
  case crossfades =>
    rw [State.egressLane, State.egressLane, State.mapLanes_egress]
    exact id
  case fade =>
    rw [State.program_mapLanes]
    exact ⟨rfl, rfl⟩

theorem State.Orderly.mapPrograms {s : State} {f : Fin 16 → Program → Program}
    (h : ∀ p, (s.program p).Orderly (f p (s.program p))) : s.Orderly (s.mapPrograms f) := by
  refine ⟨?frame, fun l => ?lanes, fun p => ?programs, ?mem, ?outbox, fun e => ?crossfades⟩
  case frame =>
    unfold State.mapPrograms
    rfl
  case lanes =>
    rw [State.lane_mapPrograms]
    exact ⟨Iff.rfl, id⟩
  case programs =>
    rw [State.program_mapPrograms]
    exact h p
  case mem =>
    rw [State.mapPrograms_mem]
    exact id
  case outbox =>
    rw [State.mapPrograms_egress]
    exact id
  case crossfades =>
    rw [State.egressLane, State.egressLane, State.mapPrograms_egress]
    exact id

theorem State.Handed.mapPrograms {s : State} {f : Fin 16 → Program → Program}
    (h : ∀ p, (s.program p).Orderly (f p (s.program p)) ∧
      (f p (s.program p)).play.target = (s.program p).play.target ∧
      (f p (s.program p)).fadeTarget = (s.program p).fadeTarget) : s.Handed (s.mapPrograms f) := by
  refine (State.Orderly.mapPrograms fun p => (h p).1).handed (State.mapPrograms_alarm s f) fun p => ?_
  rw [State.program_mapPrograms]
  exact (h p).2

/-! ### The alarm tick (R20, R88, R125, R131 to R136, R156) -/

theorem Lane.tick_orderly (x : Lane) : x.Orderly x.tick := by
  unfold Lane.tick
  split
  · exact ⟨Iff.rfl, id⟩
  · exact ⟨Iff.rfl, fun ⟨_, hcounters⟩ => ⟨satAdd_le _ _, hcounters⟩⟩

theorem Servo.tick_kept (v : Servo) (e : ProgramEntry) (active : Bool) :
    (v.tick e active).phase = v.phase ∧ (v.pictureIdle ≤ 65535 → (v.tick e active).pictureIdle ≤ 65535) := by
  unfold Servo.tick
  split
  · exact ⟨rfl, fun _ => satAdd_le _ _⟩
  · exact ⟨rfl, id⟩

/-- The counts of a tick leave play state, fade target and what that rests on. -/
theorem Program.tick_orderly (x : Program) (e : ProgramEntry) (active : Bool) (c : Change) :
    x.Orderly { x with servo := x.servo.tick e active, change := c } ∧
      ({ x with servo := x.servo.tick e active, change := c } : Program).fadeTarget = x.fadeTarget := by
  obtain ⟨hphase, hidle⟩ := x.servo.tick_kept e active
  refine ⟨⟨Iff.rfl, rfl, fun ⟨hplay, hconv, hservo, hrest⟩ => ⟨hplay, hconv, hidle hservo, hrest⟩, id⟩, ?_⟩
  simp only [Program.fadeTarget, hphase]

theorem State.tickCounts_handed (s : State) : s.Handed s.tickCounts := by
  unfold State.tickCounts
  refine (State.Handed.mapLanes fun l => (s.lane l).tick_orderly).trans (.mapPrograms fun p => ?_)
  obtain ⟨horderly, hfade⟩ := Program.tick_orderly ((s.mapLanes fun _ x => x.tick).program p) (s.entry p)
    (((s.mapLanes fun _ x => x.tick).program p).play.state != .parked)
    (((s.mapLanes fun _ x => x.tick).program p).change.tick (s.entry p))
  exact ⟨horderly, rfl, hfade⟩

/-- A record that qualifies has its raise or the end of its window due, or nothing. -/
theorem Record.qualifyDue_kept {x : Record} (rl : Rule) (h : x.state = .qualifying) :
    (x.qualifyDue rl).DueOk ∧ ∃ due, x.qualifyDue rl = { x with due := due } := by
  unfold Record.qualifyDue
  split
  · exact ⟨⟨fun _ => .inl h, nofun, nofun⟩, _, rfl⟩
  · split
    · exact ⟨⟨nofun, fun _ => h, nofun⟩, _, rfl⟩
    · exact ⟨.of_none rfl, _, rfl⟩

/-- A record that releases has its release due, or nothing. -/
theorem Record.releaseDue_kept {x : Record} (rl : Rule) (h : x.state = .releasing) :
    (x.releaseDue rl).DueOk ∧ ∃ due, x.releaseDue rl = { x with due := due } := by
  unfold Record.releaseDue
  split
  · exact ⟨⟨nofun, nofun, fun _ => h⟩, _, rfl⟩
  · exact ⟨.of_none rfl, _, rfl⟩

/-- A record drives its line: unacknowledged, and RAISED, RELEASING or in ACK_WAIT (R141). -/
def Record.alarming (x : Record) : Bool := !x.acked && (x.state.holding || x.state == .ackWait)

/-- What judging leaves of a record: its marks and its raise count, whether it holds its actions and drives its line; and
the move that becomes due is one its state allows. -/
structure Record.Judged (x y : Record) : Prop where
  queued : y.queued = x.queued
  owed : y.owed = x.owed
  raises : y.raises = x.raises
  holding : y.state.holding = x.state.holding
  alarming : y.alarming = x.alarming
  due : y.DueOk

theorem Record.tick_judged (x : Record) (rl : Rule) (present : Bool) : x.Judged (x.tick rl present) := by
  have idle : ∀ {y : Record}, y.state.holding = false → y.state ≠ .ackWait → y.alarming = false := fun hh hw => by
    rw [Record.alarming, hh, beq_false_of_ne hw, Bool.or_false, Bool.and_false]
  have qualifies : ∀ {y : Record}, x.state = .clear ∨ x.state = .qualifying → y.state = .qualifying →
      y.queued = x.queued → y.owed = x.owed → y.raises = x.raises → x.Judged (y.qualifyDue rl) := fun hx hy hq ho hr => by
    obtain ⟨hdue, due, heq⟩ := Record.qualifyDue_kept rl hy
    have hxidle : x.state.holding = false ∧ x.alarming = false := by
      rcases hx with h | h <;> exact ⟨by rw [h]; rfl, idle (by rw [h]; rfl) (by rw [h]; exact RecordState.noConfusion)⟩
    refine ⟨?_, ?_, ?_, ?_, ?_, hdue⟩ <;> rw [heq]
    · exact hq
    · exact ho
    · exact hr
    · rw [hxidle.1, hy]; rfl
    · rw [hxidle.2, idle (by rw [hy]; rfl) (by rw [hy]; exact RecordState.noConfusion)]
  have releases : ∀ {y : Record}, x.state.holding = true → y.state = .releasing → y.acked = x.acked →
      y.queued = x.queued → y.owed = x.owed → y.raises = x.raises → x.Judged (y.releaseDue rl) :=
    fun {y} hx hy hacked hq ho hr => by
      obtain ⟨hdue, due, heq⟩ := Record.releaseDue_kept rl hy
      have hholding : y.state.holding = true := by rw [hy]; rfl
      refine ⟨?_, ?_, ?_, ?_, ?_, hdue⟩ <;> rw [heq]
      · exact hq
      · exact ho
      · exact hr
      · exact hholding.trans hx.symm
      · rw [Record.alarming, Record.alarming, hholding, hx, hacked]
        rfl
  have stands : ∀ due, Record.DueOk { x with due := due } → x.Judged { x with due := due } := fun _ h =>
    ⟨rfl, rfl, rfl, rfl, rfl, h⟩
  unfold Record.tick
  dsimp only
  split
  · next h =>
    split
    · exact qualifies (.inl h) rfl rfl rfl rfl
    · exact stands _ (.of_none rfl)
  · next h =>
    split
    · split
      · exact qualifies (.inr h) h rfl rfl rfl
      · exact ⟨rfl, rfl, rfl, by rw [h]; rfl, by rw [Record.alarming, Record.alarming, h]; rfl, .of_none rfl⟩
    · exact qualifies (.inr h) h rfl rfl rfl
  · next h =>
    split
    · exact ⟨rfl, rfl, rfl, rfl, rfl, .of_none rfl⟩
    · split
      · exact stands _ (.of_none rfl)
      · exact releases (by rw [h]; rfl) rfl rfl rfl rfl rfl
  · next h =>
    split
    · exact stands _ ⟨fun _ => .inr (.inl h), nofun, nofun⟩
    · exact releases (by rw [h]; rfl) h rfl rfl rfl rfl
  · next h =>
    split
    · exact stands _ ⟨fun _ => .inr (.inr h), nofun, nofun⟩
    · exact stands _ (.of_none rfl)

theorem State.drives_eq (s : State) (severity : Severity) (r : Fin 64) :
    s.drives severity r = ((s.rule r).enabled && (s.rule r).severity == severity && (s.record r).alarming) := by
  rw [State.drives, Record.alarming, Bool.and_assoc _ (!_)]

theorem State.judgeRules_keeps (s : State) : s.Keeps s.judgeRules := by
  unfold State.judgeRules
  split
  · exact .refl s
  · generalize hx : (fun r => if (s.rule r).enabled = true then
        (s.record r).tick (s.rule r) (s.conditionPresent (s.rule r)) else s.record r) = x
    have hjudged : ∀ r, (s.rule r).enabled = true → (s.record r).Judged (x r) := fun r hr => by
      subst hx
      simp only [hr, if_true]
      exact Record.tick_judged _ _ _
    have hdisabled : ∀ r, (s.rule r).enabled = false → x r = s.record r := fun r hr => by
      subst hx
      simp only [hr, Bool.false_eq_true, if_false]
    have hmarks : ∀ r, (x r).queued = (s.record r).queued ∧ (x r).owed = (s.record r).owed ∧
        (x r).raises = (s.record r).raises ∧ (x r).state.holding = (s.record r).state.holding := fun r => by
      by_cases hr : (s.rule r).enabled = true
      · exact ⟨(hjudged r hr).queued, (hjudged r hr).owed, (hjudged r hr).raises, (hjudged r hr).holding⟩
      · rw [hdisabled r (eq_false_of_ne_true hr)]
        exact ⟨rfl, rfl, rfl, rfl⟩
    generalize hv : Vector.ofFn x = v
    have hrecord : ∀ r, ({ s with alarm := { s.alarm with records := v } } : State).record r = x r := fun r => by
      subst hv
      exact Vector.getElem_ofFn _
    clear hv
    generalize ht : ({ s with alarm := { s.alarm with records := v } } : State) = t at hrecord ⊢
    have hmoved : s.Moved t := by
      refine ⟨⟨?_, ?_, fun r hr => ?_, ?_⟩, fun _ => ?_⟩
      · subst ht
        rfl
      · subst ht
        exact fun _ => rfl
      · rwa [hrecord, (hmarks r).2.2.1]
      · refine State.marksOk_congr (by subst ht; rfl) fun r => ?_
        rw [hrecord]
        exact ⟨(hmarks r).1, (hmarks r).2.1⟩
      · refine State.owedOk_congr (by subst ht; rfl) (fun r => ?_) (by subst ht; exact id)
        rw [hrecord]
        exact (hmarks r).2.1
    have hholds : ∀ p, (t.program p).holds = (s.program p).holds := fun p => by
      subst ht
      rfl
    refine ⟨⟨hmoved.keepsBase, fun hs => ?_, fun _ => hmoved.derived hholds fun severity r => ?_⟩, hmoved.owed⟩
    · obtain ⟨hcounts, hoff, hdue⟩ := (State.holdsOk_iff s).mp hs
      have hon : t.holdsOn = s.holdsOn := by
        funext p a r
        rw [State.holdsOn, State.holdsOn, hmoved.rule, hrecord, (hmarks r).2.2.2]
      refine (State.holdsOk_iff t).mpr ⟨fun p a => ?_, fun r hr => ?_, fun r => ?_⟩
      · rw [hholds, hon]
        exact hcounts p a
      · rw [hmoved.rule] at hr
        rw [hrecord, hdisabled r hr]
        exact hoff r hr
      · rw [hrecord]
        by_cases hr : (s.rule r).enabled = true
        · exact (hjudged r hr).due
        · rw [hdisabled r (eq_false_of_ne_true hr)]
          exact hdue r
    · rw [State.drives_eq, State.drives_eq, hmoved.rule, hrecord]
      by_cases hr : (s.rule r).enabled = true
      · rw [(hjudged r hr).alarming]
      · rw [eq_false_of_ne_true hr]
        rfl

theorem State.closePeriod_keeps (s : State) : s.Keeps s.closePeriod := by
  have hevents : s.Handed (s.mapPrograms fun _ x => { x with events := {} }) :=
    .mapPrograms fun p => ⟨(Program.Tranquil.events _ _).toOrderly, rfl, rfl⟩
  unfold State.closePeriod
  dsimp only
  generalize (s.mapPrograms fun _ x => { x with events := {} }) = t at hevents ⊢
  exact hevents.keeps.trans (State.Elsewhere.keeps rfl id rfl id)

theorem State.tickAlarm_keeps (s : State) : s.Keeps s.tickAlarm :=
  (State.closePeriod_keeps _).after ((State.judgeRules_keeps _).after s.tickCounts_handed.keeps)

/-! ### The members of a program, together with it (R41, R49) -/

/-- The program takes another value, and each of its member lanes moves. -/
def State.moveMembers (s : State) (p : Fin 16) (f : Lane → Lane) (x : Program) : State :=
  (s.mapLanes fun l y => if (s.entry p).members.contains l then f y else y).setProgram p x

section Members
variable (s : State) (p : Fin 16) (f : Lane → Lane) (x : Program)

theorem State.lane_moveMembers (l : Fin 32) :
    (s.moveMembers p f x).lane l = if l ∈ (s.entry p).members then f (s.lane l) else s.lane l := by
  rw [State.moveMembers, State.lane_setProgram, State.lane_mapLanes]
  simp only [List.contains_iff_mem]

theorem State.program_moveMembers_self : (s.moveMembers p f x).program p = x := by
  rw [State.moveMembers, State.program_setProgram_self]

theorem State.program_moveMembers_ne {q : Fin 16} (h : q ≠ p) : (s.moveMembers p f x).program q = s.program q := by
  rw [State.moveMembers, State.program_setProgram_ne _ _ h, State.program_mapLanes]

theorem State.moveMembers_frame : s.moveMembers p f x = { s with
    lanes := (s.moveMembers p f x).lanes, programs := (s.moveMembers p f x).programs } := by
  unfold State.moveMembers State.setProgram State.mapLanes
  rfl

end Members

/-- Where started lanes and programs still match and stay apart, members that move with their program keep every
invariant but what is handed on. -/
theorem State.keepsBase_moveMembers {s : State} {p : Fin 16} {f : Lane → Lane} {x : Program}
    (hf : ∀ y, y.inRange → (f y).inRange) (hx : (s.program p).inRange → x.inRange)
    (hb : (s.program p).bounded → x.bounded) (hstarted : s.startedOk → (s.moveMembers p f x).startedOk)
    (hapart : s.ringsApart → (s.moveMembers p f x).ringsApart) : s.KeepsBase (s.moveMembers p f x) := by
  have hframe := s.moveMembers_frame p f x
  have hlane := s.lane_moveMembers p f x
  have hself := s.program_moveMembers_self p f x
  have hne := @State.program_moveMembers_ne s p f x
  generalize s.moveMembers p f x = t at *
  have hrecord : ∀ r, t.record r = s.record r := fun r => (congrArg (fun u : State => u.record r) hframe).trans rfl
  have hegress : t.egress = s.egress := (congrArg State.egress hframe).trans rfl
  have htables : t.tables = s.tables := (congrArg State.tables hframe).trans rfl
  have horders : t.orders = s.orders := (congrArg State.orders hframe).trans rfl
  have hrx : t.rx = s.rx := (congrArg State.rx hframe).trans rfl
  have hmem : t.mem = s.mem := (congrArg State.mem hframe).trans rfl
  have hnotices : t.alarm.notices = s.alarm.notices := (congrArg (fun u : State => u.alarm.notices) hframe).trans rfl
  have hprogram : ∀ {P : Program → Prop}, (P (s.program p) → P x) → (∀ q, P (s.program q)) → ∀ q, P (t.program q) :=
    fun hp h q => by
      by_cases hq : q = p
      · subst hq
        rw [hself]
        exact hp (h q)
      · rw [hne hq]
        exact h q
  refine ⟨?_, fun hs => ⟨?_, fun l => ?_, hprogram hx hs.programs, fun e => ?_, fun r => ?_⟩,
    State.lanesOk_congr (by rw [htables]), State.slotsOk_congr (by rw [htables]) (by rw [hegress]) (by rw [hegress]),
    hstarted, hapart, State.marksOk_congr hnotices fun r => by rw [hrecord]; exact ⟨rfl, rfl⟩,
    State.ordersOk_congr horders, State.throughOk_congr (by rw [hegress]), by rw [hegress]; exact id, hprogram hb,
    (congrArg State.pending hframe).trans rfl⟩
  · rw [State.memOk, State.memOk, hmem]
    exact id
  · have := hs.scalars
    rwa [State.scalarsOk, hrx, hegress, horders]
  · rw [hlane]
    split
    · exact hf _ (hs.lanes l)
    · exact hs.lanes l
  · rw [State.egressLane, hegress]
    exact hs.crossfades e
  · rw [hrecord]
    exact hs.raises r

theorem State.holdsOk_moveMembers {s : State} {p : Fin 16} {f : Lane → Lane} {x : Program}
    (hx : x.holds = (s.program p).holds) : s.holdsOk → (s.moveMembers p f x).holdsOk := by
  refine State.holdsOk_congr (by rw [State.moveMembers, State.setProgram_tables, State.mapLanes_tables]) (fun q => ?_)
    fun r => by
      rw [State.moveMembers, State.record_setProgram, State.record_mapLanes]
      exact ⟨rfl, rfl⟩
  by_cases hq : q = p
  · subst hq
    rw [State.program_moveMembers_self, hx]
  · rw [State.program_moveMembers_ne _ _ _ _ hq]

theorem State.owedOk_moveMembers {s : State} {p : Fin 16} {f : Lane → Lane} {x : Program} :
    s.owedOk → (s.moveMembers p f x).owedOk := by
  refine State.owedOk_congr ?_ (fun r => ?_) ?_
  · rw [State.moveMembers, State.setProgram_alarm, State.mapLanes_alarm]
  · rw [State.moveMembers, State.record_setProgram, State.record_mapLanes]
  · rw [State.moveMembers, State.setProgram_house, State.mapLanes_house]
    exact id

/-! ### Which programs are active once one moves (R39, R40) -/

theorem State.active_moveMembers_ne (s : State) {p q : Fin 16} (f : Lane → Lane) (x : Program) (h : q ≠ p) :
    (s.moveMembers p f x).active q = s.active q := by
  rw [State.active, State.active, State.playState, State.program_moveMembers_ne _ _ _ _ h, State.playState]

theorem State.active_moveMembers_self (s : State) (p : Fin 16) (f : Lane → Lane) (x : Program) :
    (s.moveMembers p f x).active p = (x.play.state != .parked) := by
  rw [State.active, State.playState, State.program_moveMembers_self]

theorem State.entry_moveMembers (s : State) (p q : Fin 16) (f : Lane → Lane) (x : Program) :
    (s.moveMembers p f x).entry q = s.entry q := by
  rw [State.moveMembers, State.entry_setProgram, State.entry_mapLanes]

theorem State.laneEntry_moveMembers (s : State) (p : Fin 16) (l : Fin 32) (f : Lane → Lane) (x : Program) :
    (s.moveMembers p f x).laneEntry l = s.laneEntry l := by
  rw [State.moveMembers, State.laneEntry_setProgram, State.laneEntry_mapLanes]

end Sys2Proof.Machine
end

section
/-! SUPPORT. A program starts and parks, and auto-start: each keeps every invariant (R40, R41, R49, R52, R146). -/

namespace Sys2Proof.Machine

/-! ### The end of PARKING (R49, R138, R157) -/

theorem Program.park_kept (x : Program) : (x.inRange → x.park.inRange) ∧ (x.bounded → x.park.bounded) ∧
    x.park.holds = x.holds := by
  refine ⟨?_, fun _ => ⟨Nat.zero_le _, Nat.zero_le _, Nat.zero_le _⟩, rfl⟩
  rintro ⟨hplay, ⟨_, hstarved, hclips⟩, _, hover, _, hco, hgd, hcd, hfd, hgc⟩
  exact ⟨hplay, ⟨Nat.zero_le _, hstarved, hclips⟩, Nat.zero_le _, hover, Nat.le_refl _, hco, hgd, hcd, hfd, hgc⟩

/-- A program that is not PARKED parks with its members: no other program had them (R39, R49). -/
theorem State.startedOk_parked {s : State} {p : Fin 16} {f : Lane → Lane} {x : Program} (hactive : s.active p = true)
    (hf : ∀ y, (f y).status = .parked) (hx : x.play.state = .parked) :
    s.startedOk → (s.moveMembers p f x).startedOk := by
  rintro ⟨hone, hdefined, hlanes⟩
  have hself : (s.moveMembers p f x).active p = false := by
    rw [State.active_moveMembers_self, hx]
    rfl
  refine ⟨fun q k l => ?_, fun q hq => ?_, fun l => ?_⟩
  · rw [State.entry_moveMembers, State.entry_moveMembers]
    exact hone q k l
  · rw [State.entry_moveMembers]
    by_cases hqp : q = p
    · subst hqp
      exact hdefined q hactive
    · rw [State.active_moveMembers_ne _ _ _ hqp] at hq
      exact hdefined q hq
  · rw [State.lane_moveMembers]
    by_cases hl : l ∈ (s.entry p).members
    · rw [if_pos hl, hf]
      refine iff_of_false (fun h => h rfl) ?_
      rintro ⟨q, hqd, hql, hq⟩
      rw [State.entry_moveMembers] at hqd hql
      by_cases hqp : q = p
      · subst hqp
        rw [hself] at hq
        cases hq
      · exact hone p q l (Ne.symm hqp) (hdefined p hactive) hqd hl hql
    · rw [if_neg hl, hlanes]
      refine exists_congr fun q => ?_
      rw [State.entry_moveMembers]
      refine and_congr_right fun _ => and_congr_right fun hql => ?_
      have hqp : q ≠ p := fun e => hl (e ▸ hql)
      rw [State.active_moveMembers_ne _ _ _ hqp]

theorem State.ringsApart_parked {s : State} {p : Fin 16} {f : Lane → Lane} {x : Program}
    (hf : ∀ y, (f y).status = .parked) : s.ringsApart → (s.moveMembers p f x).ringsApart :=
  State.ringsApart_congr (by rw [State.moveMembers, State.setProgram_tables, State.mapLanes_tables]) fun l hl => by
    rw [State.lane_moveMembers]
    split
    · exact hf _
    · exact hl

theorem Program.Orderly.ite {x y : Program} {c : Prop} [Decidable c] (h : x.Orderly y) : x.Orderly (if c then y else x) := by
  split
  · exact h
  · exact .refl x

theorem State.dropAlternate_orderly (s : State) (p : Fin 16) : s.Orderly (s.dropAlternate p) := by
  unfold State.dropAlternate
  exact .mapPrograms fun q => .ite ((s.program q).change_orderly _)

/-- The unit answers what it owes, a place for the reply being kept (10.1, R166). -/
theorem State.setOrders_keeps {s : State} {x : Orders} (hintake : s.ordersOk → x.intake.length ≤ 4)
    (hdrops : s.orders.drops ≤ 65535 → x.drops ≤ 65535)
    (hreplies : s.ordersOk → State.repliesOk { s with orders := x }) : s.Keeps { s with orders := x } := by
  refine ⟨⟨⟨id, fun hs => ⟨?_, hs.lanes, hs.programs, hs.crossfades, hs.raises⟩, id, id, id, id, id,
    fun hs => ⟨hintake hs, hreplies hs⟩, id, id, id, rfl⟩, id, fun _ hl hf => ⟨hl, hf⟩⟩, fun _ => id⟩
  obtain ⟨hcheck, hkinds, hcount, hlock, hshed, hdrop⟩ := hs.scalars
  exact ⟨hcheck, hkinds, hcount, hlock, hshed, hdrops hdrop⟩

/-- An IDLE unit that has answered what it owed, at most one reply. -/
theorem Orders.settleOwing_replies (x : Orders) : x.settleOwing.replies.length ≤ x.replies.length + 1 := by
  unfold Orders.settleOwing
  dsimp only
  split
  · rw [List.length_append]
    rfl
  · exact Nat.le_succ _

theorem State.settlePark_keeps {s : State} (h : s.orders.unit = .parkPending) :
    s.Keeps { s with orders := s.orders.settleOwing } := by
  refine State.setOrders_keeps (fun hs => hs.1) id ?_
  rintro ⟨_, _, hpark, hreset⟩
  have hroom := hpark h
  have hone := s.orders.settleOwing_replies
  refine ⟨hone.trans (by omega), nofun, fun hdone => ?_⟩
  rw [(hreset hdone).1] at h
  cases h

theorem State.answerReset_keeps {s : State} (h : s.resetReplyDue = true) : s.Keeps s.answerReset := by
  unfold State.resetReplyDue at h
  simp only [Bool.and_eq_true, beq_iff_eq] at h
  obtain ⟨⟨_, hdone⟩, _⟩ := h
  unfold State.answerReset
  dsimp only
  have hx : ∀ x : Orders, x.replies = s.orders.replies → x.intake = s.orders.intake → x.drops = s.orders.drops →
      s.Keeps { s with orders := { x.settleOwing with resetDone := false } } := fun x hr hi hd => by
    refine State.setOrders_keeps (fun hs => hi ▸ hs.1) (fun hs => hd ▸ hs) ?_
    rintro ⟨_, _, _, hreset⟩
    have hnone := (hreset hdone).2
    have hone := x.settleOwing_replies
    rw [hr, hnone] at hone
    exact ⟨hone.trans (by decide), nofun, nofun⟩
  split
  · exact hx _ rfl rfl rfl
  · exact hx _ rfl rfl rfl

/-- The end of PARKING, said with the members' move. -/
theorem State.endParking_eq (s : State) (p : Fin 16) : s.endParking p =
    (let t := ((((s.flushMembers p).moveMembers p (fun y => { y with status := .parked })
        ((s.flushMembers p).program p).park).parkRecords p).dropAlternate p).followThrough
      if t.orders.unit = .parkPending then { t with orders := t.orders.settleOwing } else t) := by
  have hprogram := State.program_mapLanes (s.flushMembers p)
    (fun l y => if (s.entry p).members.contains l then { y with status := .parked } else y) p
  unfold State.endParking State.moveMembers
  dsimp only
  rw [hprogram, (s.flushMembers_tranquil p).toOrderly.entry]

theorem State.endParking_keeps {s : State} {p : Fin 16} (h : s.parkingDue p = true) : s.Keeps (s.endParking p) := by
  have hparking : s.playState p = .parking := by
    unfold State.parkingDue at h
    simp only [Bool.and_eq_true, beq_iff_eq] at h
    exact h.1
  have hflush := (s.flushMembers_tranquil p).toOrderly
  have hactive : (s.flushMembers p).active p = true := by
    rw [State.active, bne_iff_ne]
    exact (hflush.parked p).not.mpr (by rw [hparking]; exact PlayState.noConfusion)
  rw [State.endParking_eq]
  generalize s.flushMembers p = u at hflush hactive ⊢
  obtain ⟨hrange, hbound, hholds⟩ := (u.program p).park_kept
  have hbase : u.KeepsBase (u.moveMembers p (fun y => { y with status := .parked }) (u.program p).park) :=
    State.keepsBase_moveMembers (fun _ => id) hrange hbound (State.startedOk_parked hactive (fun _ => rfl) rfl)
      (State.ringsApart_parked fun _ => rfl)
  have hcounts := State.holdsOk_moveMembers (f := fun y => { y with status := .parked }) hholds
  have howed := State.owedOk_moveMembers (s := u) (p := p) (f := fun y => { y with status := .parked })
    (x := (u.program p).park)
  generalize u.moveMembers p (fun y => { y with status := .parked }) (u.program p).park = v at hbase hcounts howed ⊢
  have hrecords := v.parkRecords_moved p
  have hdrop := (v.parkRecords p).dropAlternate_orderly p
  have hfollowed : s.Keeps (((v.parkRecords p).dropAlternate p).followThrough) :=
    (hflush.keepsBase.trans (hbase.trans (hrecords.keepsBase.trans hdrop.keepsBase))).followed
      (hdrop.holdsOk ∘ hrecords.holds ∘ hcounts ∘ hflush.holdsOk)
      fun hm ho => hdrop.owedOk (hrecords.owed (hbase.marks (hflush.keepsBase.marks hm)) (howed (hflush.owedOk ho)))
  dsimp only
  split
  · next hpark => exact hfollowed.trans (State.settlePark_keeps hpark)
  · exact hfollowed

/-! ### A start (R40, R41) -/

/-- What the checks of R40 have found where they refuse nothing. -/
theorem State.startRefusal_none {s : State} {p : Fin 16} (h : s.startRefusal p = none) :
    (s.entry p).defined = true ∧ s.active p = false ∧ s.regionsApart (s.entry p).members = true ∧
      ∀ l ∈ (s.entry p).members, ∀ k, (s.lane k).status = .parked ∨
        (s.laneEntry l).overlaps (s.laneEntry k) = false := by
  unfold State.startRefusal at h
  dsimp only at h
  split at h; · cases h
  split at h; · cases h
  split at h; · cases h
  split at h; · cases h
  split at h; · cases h
  split at h; · cases h
  split at h; · cases h
  split at h; · cases h
  next hdefined hactive _ _ _ _ hapart hfree =>
    refine ⟨by simpa using hdefined, by simpa using hactive, by simpa using hapart, fun l hl k => ?_⟩
    simp only [Bool.not_eq_true', Bool.not_eq_false, List.all_eq_true] at hfree
    simpa using hfree l hl k (List.mem_finRange k)

/-- Two regions that do not overlap lie one behind the other. -/
theorem LaneEntry.apart_of_not_overlaps {a b : LaneEntry} (h : a.overlaps b = false) :
    a.startPage + a.sizePages ≤ b.startPage ∨ b.startPage + b.sizePages ≤ a.startPage := by
  simp only [LaneEntry.overlaps, Bool.and_eq_false_iff, decide_eq_false_iff_not] at h
  omega

theorem State.regionsApart_pair {s : State} {l k : Fin 32} (hne : l ≠ k) {xs : List (Fin 32)}
    (h : s.regionsApart xs = true) (hl : l ∈ xs) (hk : k ∈ xs) :
    (s.laneEntry l).overlaps (s.laneEntry k) = false ∨ (s.laneEntry k).overlaps (s.laneEntry l) = false := by
  induction xs with
  | nil => cases hl
  | cons x xs ih =>
    simp only [State.regionsApart, Bool.and_eq_true, List.all_eq_true, Bool.not_eq_true'] at h
    obtain ⟨hx, hrest⟩ := h
    rcases List.mem_cons.mp hl with rfl | hlx
    · exact .inl (hx k ((List.mem_cons.mp hk).resolve_left (Ne.symm hne)))
    · rcases List.mem_cons.mp hk with rfl | hkx
      · exact .inr (hx l hlx)
      · exact ih hrest hlx hkx

theorem State.startedOk_armed {s : State} {p : Fin 16} {f : Lane → Lane} {x : Program}
    (hdefined : (s.entry p).defined = true) (hf : ∀ y, (f y).status ≠ .parked) (hx : x.play.state ≠ .parked) :
    s.startedOk → (s.moveMembers p f x).startedOk := by
  rintro ⟨hone, hactives, hlanes⟩
  have hactive : ∀ q, (s.moveMembers p f x).active q = true ↔ q = p ∨ s.active q = true := fun q => by
    by_cases hq : q = p
    · subst hq
      rw [State.active_moveMembers_self, bne_iff_ne]
      exact iff_of_true hx (.inl rfl)
    · rw [State.active_moveMembers_ne _ _ _ hq]
      exact (or_iff_right hq).symm
  refine ⟨fun q k l => ?_, fun q hq => ?_, fun l => ?_⟩
  · rw [State.entry_moveMembers, State.entry_moveMembers]
    exact hone q k l
  · rw [State.entry_moveMembers]
    rcases (hactive q).mp hq with rfl | hq
    · exact hdefined
    · exact hactives q hq
  · rw [State.lane_moveMembers]
    simp only [State.entry_moveMembers, hactive]
    split
    · next hl => exact iff_of_true (hf _) ⟨p, hdefined, hl, .inl rfl⟩
    · next hl =>
      rw [hlanes]
      refine exists_congr fun q => and_congr_right fun _ => and_congr_right fun hql => ?_
      have hqp : q ≠ p := fun e => hl (e ▸ hql)
      exact (or_iff_right hqp).symm

theorem State.ringsApart_armed {s : State} {p : Fin 16} {f : Lane → Lane} {x : Program}
    (h : s.startRefusal p = none) : s.ringsApart → (s.moveMembers p f x).ringsApart := by
  obtain ⟨_, _, hmembers, hothers⟩ := State.startRefusal_none h
  have hapart : ∀ l ∈ (s.entry p).members, ∀ k, k ≠ l → (k ∈ (s.entry p).members ∨ (s.lane k).status ≠ .parked) →
      (s.laneEntry l).startPage + (s.laneEntry l).sizePages ≤ (s.laneEntry k).startPage ∨
      (s.laneEntry k).startPage + (s.laneEntry k).sizePages ≤ (s.laneEntry l).startPage := fun l hl k hne hk => by
    rcases hk with hk | hk
    · rcases State.regionsApart_pair (Ne.symm hne) hmembers hl hk with h | h
      · exact LaneEntry.apart_of_not_overlaps h
      · exact (LaneEntry.apart_of_not_overlaps h).symm
    · exact LaneEntry.apart_of_not_overlaps ((hothers l hl k).resolve_left hk)
  intro hs l k hne hl hk
  rw [State.lane_moveMembers] at hl hk
  rw [State.laneEntry_moveMembers, State.laneEntry_moveMembers]
  by_cases hlp : l ∈ (s.entry p).members
  · refine hapart l hlp k (Ne.symm hne) ?_
    by_cases hkp : k ∈ (s.entry p).members
    · exact .inl hkp
    · rw [if_neg hkp] at hk
      exact .inr hk
  · rw [if_neg hlp] at hl
    by_cases hkp : k ∈ (s.entry p).members
    · exact (hapart k hkp l hne (.inr hl)).symm
    · rw [if_neg hkp] at hk
      exact hs l k hne hl hk

/-- A program as it starts: PRIMING, silent and at rest, its delay limit formed (R41). -/
def Program.started (x : Program) (warmUp limit : Nat) : Program :=
  { x with
    play := { x.play with state := .priming, fade := 0, target := .silent, elapsed := false, warmUpSet := warmUp }
    conv := { x.conv with pos := none, trim := 0, glide := 0, hold := false, fixed := none }
    servo := { limit := limit }
    meter := { x.meter with pos := none }
    gain := { x.gain with schedule := [] } }

theorem State.startProgram_eq (s : State) (p : Fin 16) : ∃ limit, s.startProgram p =
    ((s.moveMembers p Lane.arm ((s.program p).started (s.entry p).warmUp limit)).putInForce p
      (s.entry p).manualDelay).followThrough := by
  refine ⟨delayLimit ((s.mapLanes fun l y => if (s.entry p).members.contains l then y.arm else y).smallestRing p)
    (s.entry p).cushion ((s.mapLanes fun l y => if (s.entry p).members.contains l then y.arm else y).nominal p), ?_⟩
  have hprogram := State.program_mapLanes s (fun l y => if (s.entry p).members.contains l then y.arm else y) p
  unfold State.startProgram State.moveMembers
  dsimp only
  rw [hprogram]
  rfl

theorem State.startProgram_keeps {s : State} {p : Fin 16} (h : s.startRefusal p = none) :
    s.Keeps (s.startProgram p) := by
  obtain ⟨limit, heq⟩ := s.startProgram_eq p
  obtain ⟨hdefined, _⟩ := State.startRefusal_none h
  rw [heq]
  generalize hx : (s.program p).started (s.entry p).warmUp limit = x
  have hrange : (s.program p).inRange → x.inRange := by
    subst hx
    rintro ⟨⟨_, hresyncs⟩, ⟨_, hstarved, hclips⟩, _, hover, hgain⟩
    exact ⟨⟨Nat.zero_le _, hresyncs⟩, ⟨Nat.zero_le _, hstarved, hclips⟩, Nat.zero_le _, hover, hgain⟩
  have hbound : (s.program p).bounded → x.bounded := by
    subst hx
    exact fun ⟨_, hmeter⟩ => ⟨Nat.zero_le _, hmeter⟩
  have hstate : x.play.state ≠ .parked := by
    subst hx
    exact PlayState.noConfusion
  have hholds : x.holds = (s.program p).holds := by
    subst hx
    rfl
  have hbase : s.KeepsBase (s.moveMembers p Lane.arm x) :=
    State.keepsBase_moveMembers (fun _ ⟨_, hcounters⟩ => ⟨Nat.zero_le _, hcounters⟩) hrange hbound
      (State.startedOk_armed hdefined (fun _ => LaneStatus.noConfusion) hstate) (State.ringsApart_armed h)
  have hforce := ((s.moveMembers p Lane.arm x).putInForce_tranquil p (s.entry p).manualDelay).toOrderly
  exact (hbase.trans hforce.keepsBase).followed (hforce.holdsOk ∘ State.holdsOk_moveMembers hholds)
    fun _ => hforce.owedOk ∘ State.owedOk_moveMembers

/-! ### Auto-start (R52, R146) -/

theorem State.autoStartAll_keeps (s : State) : s.Keeps s.autoStartAll.2 := by
  refine foldl_rel (R := fun x y : Started × State => x.2.Keeps y.2) (fun _ => .refl _) (fun h k => h.trans k) (fun x p => ?_)
    _ (⟨[], 0⟩, s)
  unfold State.autoStartOne
  dsimp only
  split
  · split
    · next h => exact State.startProgram_keeps h
    · exact .refl _
  · exact .refl _

theorem State.applyAutoStart_keeps (s : State) : s.Keeps s.applyAutoStart := by
  have hset : s.Keeps { s with orders := { s.orders with autoStarted := true } } :=
    State.setOrders_keeps (fun hs => hs.1) id fun hs => hs.2
  have hall := State.autoStartAll_keeps { s with orders := { s.orders with autoStarted := true } }
  unfold State.applyAutoStart
  dsimp only
  split
  · exact hset
  · split
    · exact hset.trans (hall.trans (State.placeStarted_noticed _ _ _).keeps)
    · exact hset.trans hall

end Sys2Proof.Machine
end

section
/-! SUPPORT. The resets keep every invariant (R37, R53, R148, R164, R175, R180), and the state after reset meets them. -/

namespace Sys2Proof.Machine

/-! ### A part at its reset values -/

/-- The dynamic state is at its reset values, and the stored map governs. -/
structure State.Fresh (t : State) : Prop where
  rx : t.rx = {}
  lanes : t.lanes = Vector.replicate 32 {}
  mem : t.mem = []
  programs : t.programs = Vector.replicate 16 {}
  records : t.alarm.records = Vector.replicate 64 {}
  notices : t.alarm.notices = []
  egress : t.egress = { map := t.tables.map, sent := t.egress.sent }
  intake : t.orders.intake = []
  drops : t.orders.drops = 0
  replies : t.repliesOk
  lines : t.linesOk

/-- No two enabled entries of the stored map share a slot (R152). -/
def Tables.mapApart (x : Tables) : Prop :=
  ∀ e k : Fin 32, e ≠ k → x.map[e].enabled = true → x.map[k].enabled = true → x.map[e].slot ≠ x.map[k].slot

/-- A lane is a member of at most one defined program (R39). -/
def Tables.membersApart (x : Tables) : Prop :=
  ∀ (p q : Fin 16) (l : Fin 32), p ≠ q → x.programs[p].defined = true → x.programs[q].defined = true →
    l ∈ x.programs[p].members → l ∉ x.programs[q].members

section Fresh
variable {t : State} (h : t.Fresh)
include h

theorem State.Fresh.lane (l : Fin 32) : t.lane l = {} := by simp [State.lane, h.lanes]
theorem State.Fresh.program (p : Fin 16) : t.program p = {} := State.program_of_programs h.programs p
theorem State.Fresh.record (r : Fin 64) : t.record r = {} := State.record_of_records h.records r
theorem State.Fresh.egressLane (e : Fin 32) : t.egressLane e = {} := by rw [State.egressLane, h.egress]; simp

theorem State.Fresh.rangesOk : t.RangesOk where
  scalars := by
    rw [State.scalarsOk, h.rx, h.egress, h.drops]
    exact ⟨Nat.zero_le _, Nat.zero_le _, Nat.zero_le _, Nat.zero_le _, Nat.zero_le _, Nat.zero_le _⟩
  lanes l := by
    rw [h.lane]
    exact ⟨Nat.zero_le _, Nat.zero_le _, Nat.zero_le _, Nat.zero_le _⟩
  programs p := by
    rw [h.program]
    exact ⟨⟨Nat.zero_le _, Nat.zero_le _⟩, ⟨Nat.zero_le _, Nat.zero_le _, Nat.zero_le _⟩, Nat.zero_le _, Nat.zero_le _,
      Nat.le_refl _, Nat.zero_le _, Nat.zero_le _, Nat.zero_le _, Nat.zero_le _, Nat.zero_le _⟩
  crossfades e := by
    rw [h.egressLane]
    exact Nat.zero_le _
  raises r := by
    rw [h.record]
    exact Nat.zero_le _

theorem State.Fresh.queuesOk : t.QueuesOk where
  marks := by
    refine ⟨by rw [h.notices]; exact Nat.zero_le _, fun r => ?_⟩
    rw [h.notices, h.record]
    exact ⟨rfl, nofun⟩
  owed r hr := by
    rw [h.record] at hr
    cases hr
  orders := ⟨by rw [h.intake]; exact Nat.zero_le _, h.replies⟩
  through := by
    rw [State.throughOk, State.parcelsOk, h.egress]
    exact ⟨Nat.zero_le _, nofun⟩
  outbox := by
    rw [h.egress]
    exact Nat.zero_le _
  programs p := by
    rw [h.program]
    exact ⟨Nat.zero_le _, Nat.zero_le _, Nat.zero_le _⟩

theorem State.Fresh.slotsOk (hmap : t.tables.mapApart) : t.slotsOk := by
  have hgoverns : ∀ e, t.mapEntry e = t.tables.map[e] := fun e => by rw [State.mapEntry, h.egress]
  refine ⟨hmap, fun e k => ?_, fun e _ => hgoverns e⟩
  rw [hgoverns, hgoverns]
  exact hmap e k

theorem State.Fresh.active (p : Fin 16) : t.active p = false := by
  rw [State.active, State.playState, h.program]
  rfl

theorem State.Fresh.startedOk (hone : t.tables.membersApart) : t.startedOk := by
  refine ⟨hone, fun p hp => ?_, fun l => ?_⟩
  · rw [h.active] at hp
    cases hp
  · rw [h.lane]
    refine iff_of_false (fun hl => hl rfl) ?_
    rintro ⟨p, _, _, hp⟩
    rw [h.active] at hp
    cases hp

theorem State.Fresh.ringsApart : t.ringsApart := fun l k _ hl => by
  rw [h.lane] at hl
  exact absurd rfl hl

theorem State.Fresh.holdsOk : t.holdsOk := by
  have hclear : ∀ r, (t.record r).state = .clear ∧ (t.record r).due = none := fun r => by
    rw [h.record]
    exact ⟨rfl, rfl⟩
  refine (State.holdsOk_iff t).mpr ⟨fun p a => ?_, fun r _ => hclear r, fun r => .of_none (hclear r).2⟩
  have hnone : t.holdsOn p a = fun _ => false := funext fun r =>
    State.holdsOn_of_not_holding (by rw [(hclear r).1]; rfl) p a
  rw [h.program, hnone, List.filter_false]
  cases a <;> rfl

theorem State.Fresh.fadesOk : t.fadesOk := fun p => by
  rw [h.program]
  rfl

/-- A reset keeps every invariant, whatever stood before it, where the tables it leaves have no clashes. -/
theorem State.Fresh.keeps {s : State} (hlanes : s.lanesOk → t.lanesOk) (hmap : s.slotsOk → t.tables.mapApart)
    (hone : s.startedOk → t.tables.membersApart) (hcommands : t.pending = s.pending) : s.Keeps t where
  commands := hcommands
  memory _ := by
    rw [State.memOk, h.mem]
    rfl
  ranges _ := h.rangesOk
  lanes := hlanes
  slots := h.slotsOk ∘ hmap
  started := h.startedOk ∘ hone
  apart _ := h.ringsApart
  marks _ := h.queuesOk.marks
  orders _ := h.queuesOk.orders
  through _ := h.queuesOk.through
  outbox _ := h.queuesOk.outbox
  bounds _ := h.queuesOk.programs
  holds _ := h.holdsOk
  derived _ _ _ := ⟨h.lines, h.fadesOk⟩
  owed _ _ := h.queuesOk.owed

end Fresh

/-! ### The tables at their power-on values -/

theorem Tables.mapApart_default : ({} : Tables).mapApart := fun e _ _ he => by
  simp at he

theorem Tables.membersApart_default : ({} : Tables).membersApart := fun p _ _ _ hp => by
  simp at hp

theorem State.lanesOk_of_default {t : State} (h : t.tables = {}) : t.lanesOk := by
  have hentry : ∀ l, t.laneEntry l = {} := fun l => by simp [State.laneEntry, h]
  refine ⟨fun l => ?_, fun l hl => ?_, fun l k _ hl => ?_⟩
  · rw [hentry]
    decide
  · rw [hentry] at hl
    cases hl
  · rw [hentry] at hl
    cases hl

/-! ### The three resets, and a reset in progress -/

theorem State.afterPower_fresh (s : State) (straps : BitVec 6) : (s.afterPower straps).Fresh where
  rx := by dsimp only [State.afterPower, State.driveLines]
  lanes := by dsimp only [State.afterPower, State.driveLines]
  mem := by dsimp only [State.afterPower, State.driveLines]
  programs := s.afterPower_programs straps
  records := s.afterPower_records straps
  notices := s.afterPower_notices straps
  egress := by rw [State.afterPower_egress, State.afterPower_tables]
  intake := by rw [State.afterPower_orders]
  drops := by rw [State.afterPower_orders]
  replies := by
    rw [State.repliesOk, State.afterPower_orders]
    exact ⟨Nat.zero_le _, nofun, nofun⟩
  lines := s.afterPower_linesOk straps

theorem State.afterLine_fresh (s : State) (straps : BitVec 6) : (s.afterLine straps).Fresh where
  rx := by dsimp only [State.afterLine, State.driveLines]
  lanes := by dsimp only [State.afterLine, State.driveLines]
  mem := by dsimp only [State.afterLine, State.driveLines]
  programs := s.afterLine_programs straps
  records := s.afterLine_records straps
  notices := s.afterLine_notices straps
  egress := by rw [State.afterLine_egress, State.afterLine_tables]
  intake := by rw [State.afterLine_orders]
  drops := by rw [State.afterLine_orders]
  replies := by
    rw [State.repliesOk, State.afterLine_orders]
    exact ⟨Nat.zero_le _, nofun, nofun⟩
  lines := s.afterLine_linesOk straps

theorem State.afterOrder_fresh (s : State) (straps : BitVec 6) : (s.afterOrder straps).Fresh where
  rx := (s.afterLine_fresh straps).rx
  lanes := (s.afterLine_fresh straps).lanes
  mem := (s.afterLine_fresh straps).mem
  programs := s.afterOrder_programs straps
  records := s.afterOrder_records straps
  notices := s.afterOrder_notices straps
  egress := by rw [State.afterOrder_egress, State.afterOrder_tables]
  intake := by rw [State.afterOrder_orders]
  drops := by rw [State.afterOrder_orders]
  replies := by
    rw [State.repliesOk, State.afterOrder_orders]
    exact ⟨Nat.zero_le _, nofun, fun _ => ⟨rfl, rfl⟩⟩
  lines := s.afterOrder_linesOk straps

theorem State.afterPower_keeps (s : State) (straps : BitVec 6) : s.Keeps (s.afterPower straps) := by
  have htables := s.afterPower_tables straps
  refine (s.afterPower_fresh straps).keeps (fun _ => State.lanesOk_of_default htables) (fun _ => ?_) (fun _ => ?_) rfl
  · rw [htables]
    exact Tables.mapApart_default
  · rw [htables]
    exact Tables.membersApart_default

/-- A reset that keeps the tables. -/
theorem State.Fresh.keeps_of_tables {s t : State} (h : t.Fresh) (htables : t.tables = s.tables)
    (hcommands : t.pending = s.pending) : s.Keeps t := by
  refine h.keeps (State.lanesOk_congr (by rw [htables])) (fun hs => ?_) (fun hs => ?_) hcommands
  · rw [htables]
    exact hs.1
  · rw [htables]
    exact hs.1

theorem State.afterLine_keeps (s : State) (straps : BitVec 6) : s.Keeps (s.afterLine straps) :=
  (s.afterLine_fresh straps).keeps_of_tables (s.afterLine_tables straps) rfl

theorem State.afterOrder_keeps (s : State) (straps : BitVec 6) : s.Keeps (s.afterOrder straps) :=
  (s.afterOrder_fresh straps).keeps_of_tables (s.afterOrder_tables straps) rfl

/-- Out of power or with RESET_N low, both lines are released (R141, R180). -/
theorem State.linesOk_of_reset {s : State} (hrun : s.running = false) (hmajor : s.alarm.majorLine = false)
    (hminor : s.alarm.minorLine = false) : s.linesOk := by
  have hline : ∀ severity, s.lineActive severity = false := fun severity => by
    rw [State.lineActive, hrun, Bool.false_and]
  exact ⟨by rw [hmajor, hline], by rw [hminor, hline]⟩

theorem State.powerRises_keeps (s : State) : s.Keeps s.powerRises := by
  refine ⟨⟨⟨id, fun hs => ⟨hs.scalars, hs.lanes, hs.programs, hs.crossfades, hs.raises⟩, id, id, id, id, id, id, id, id, id, rfl⟩,
    id, fun _ _ hf => ⟨State.linesOk_of_reset rfl rfl rfl, hf⟩⟩, fun _ => id⟩

theorem State.lineFalls_keeps (s : State) : s.Keeps s.lineFalls := by
  refine ⟨⟨⟨id, fun hs => ⟨hs.scalars, hs.lanes, hs.programs, hs.crossfades, hs.raises⟩, id, id, id, id, id, id, id, id, id, rfl⟩,
    id, fun _ _ hf => ⟨State.linesOk_of_reset ?_ rfl rfl, hf⟩⟩, fun _ => id⟩
  exact Bool.and_false _

theorem State.lineRises_keeps (s : State) (straps : BitVec 6) : s.Keeps (s.lineRises straps) := by
  unfold State.lineRises
  split
  · next h =>
    have hrun : ∀ low straps, ({ s with resetLow := low, straps := straps } : State).running = false := fun _ _ => by
      rw [State.running, h]
      rfl
    refine ⟨⟨⟨id, fun hs => ⟨hs.scalars, hs.lanes, hs.programs, hs.crossfades, hs.raises⟩, id, id, id, id, id, id, id, id, id, rfl⟩,
      id, fun _ hl hf => ⟨State.linesOk_of_reset (hrun _ _) ?_ ?_, hf⟩⟩, fun _ => id⟩
    · rw [hl.1, State.lineActive, hrun s.resetLow s.straps, Bool.false_and]
    · rw [hl.2, State.lineActive, hrun s.resetLow s.straps, Bool.false_and]
  · exact s.afterLine_keeps straps

/-! ### After reset -/

theorem State.reset_fresh : State.reset.Fresh where
  rx := rfl
  lanes := rfl
  mem := rfl
  programs := rfl
  records := rfl
  notices := rfl
  egress := rfl
  intake := rfl
  drops := rfl
  replies := ⟨Nat.zero_le _, nofun, nofun⟩
  lines := by
    have hline := State.lineActive_of_clear (s := State.reset) rfl fun r => by
      rw [State.record_of_records rfl r]
    refine ⟨?_, ?_⟩ <;> rw [hline] <;> rfl

/-- Settles O53: the state after reset is at its reset values in every block, and so meets every invariant. -/
theorem resetMeetsInvariants : Obligations.ResetMeetsInvariants := by
  have h := State.reset_fresh
  obtain ⟨hqueues, hreplies, hparcels, hnotices⟩ := (State.queuesOk_iff _).mp h.queuesOk
  obtain ⟨hpositions, htrims, hcounters⟩ := (State.rangesOk_iff _).mp h.rangesOk
  exact ⟨rfl, hqueues, hreplies, hparcels, hnotices, hpositions, htrims, hcounters, State.lanesOk_of_default rfl,
    h.slotsOk Tables.mapApart_default, h.startedOk Tables.membersApart_default, h.ringsApart, h.holdsOk, h.lines, h.fadesOk⟩

end Sys2Proof.Machine
end

section
/-! SUPPORT. Every order keeps every invariant (Chapter 10): the writes of the tables, and the orders on programs. -/

namespace Sys2Proof.Machine

/-! ### The lane table (R15, R16) -/

/-- A PARKED lane's entry takes another value, its region and node in range and its key its own. -/
theorem State.setLaneEntry_keeps {s : State} {l : Fin 32} {e : LaneEntry} (hparked : (s.lane l).status = .parked)
    (hregion : e.sizePages ∈ regionSizes ∧ e.startPage + e.sizePages ≤ 4096)
    (hnode : e.defined = true → 1 ≤ e.origin.toNat ∧ e.origin.toNat ≤ 63)
    (hkey : e.defined = true → ∀ k, k ≠ l → (s.laneEntry k).defined = true → (s.laneEntry k).origin = e.origin →
      (s.laneEntry k).tag ≠ e.tag) : s.Keeps (s.setLaneEntry l e) := by
  have hself := State.laneEntry_setLaneEntry_self s l e
  have hne : ∀ k, k ≠ l → (s.setLaneEntry l e).laneEntry k = s.laneEntry k := fun k hk =>
    State.laneEntry_setLaneEntry_ne s e hk
  refine ⟨⟨⟨id, fun hs => ⟨hs.scalars, hs.lanes, hs.programs, hs.crossfades, hs.raises⟩, ?lanes, id, id, ?apart, id, id, id,
    id, id, rfl⟩, id, fun _ hl hf => ⟨hl, hf⟩⟩, fun _ => id⟩
  case lanes =>
    rintro ⟨hregions, hnodes, hkeys⟩
    refine ⟨fun k => ?_, fun k => ?_, fun j k hjk => ?_⟩
    · by_cases hk : k = l
      · subst hk
        rwa [hself]
      · rw [hne k hk]
        exact hregions k
    · by_cases hk : k = l
      · subst hk
        rwa [hself]
      · rw [hne k hk]
        exact hnodes k
    · by_cases hj : j = l
      · subst hj
        rw [hself, hne k (Ne.symm hjk)]
        exact fun hd hdk ho => (hkey hd k (Ne.symm hjk) hdk ho.symm).symm
      · rw [hne j hj]
        by_cases hk : k = l
        · subst hk
          rw [hself]
          exact fun hdj hd => hkey hd j hj hdj
        · rw [hne k hk]
          exact hkeys j k hjk
  case apart =>
    intro hapart j k hjk hj hk
    have hjl : j ≠ l := fun h => hj (h ▸ hparked)
    have hkl : k ≠ l := fun h => hk (h ▸ hparked)
    rw [hne j hjl, hne k hkl]
    exact hapart j k hjk hj hk

theorem State.writeLane_keeps (s : State) (o : Order) : s.Keeps (s.writeLane o).2 := by
  unfold State.writeLane
  split
  · exact .refl s
  · dsimp only
    split
    · exact .refl s
    · next hparked =>
      split
      · split
        · exact .refl s
        · split
          · exact .refl s
          · next hrange hkey =>
            simp only [LaneWrite.inRange, nodeInRange, Bool.not_eq_true', Bool.not_eq_false, Bool.and_eq_true,
              decide_eq_true_eq, List.contains_iff_mem, Bool.or_eq_true] at hrange
            obtain ⟨⟨⟨_, hsize⟩, hend⟩, hnode⟩ := hrange
            refine State.setLaneEntry_keeps (not_not.mp hparked) ⟨hsize, hend⟩ (fun hd => ?_)
              fun hd k hk hdk ho ht => hkey ?_
            · exact hnode.resolve_left fun h => Bool.false_ne_true (h.symm.trans hd)
            · rw [State.keyTaken, Bool.and_eq_true, List.any_eq_true]
              refine ⟨hd, k, List.mem_finRange k, ?_⟩
              simp only [Bool.and_eq_true, bne_iff_ne, beq_iff_eq]
              exact ⟨⟨⟨hk, hdk⟩, ho⟩, ht⟩
      · exact .refl s

/-! ### The program table (R38, R39, R75) -/

/-- A program entry takes another value: its members are its own, and those of a program that is not PARKED stand. -/
theorem State.setEntry_keeps {s : State} {p : Fin 16} {e : ProgramEntry}
    (hown : s.startedOk → e.defined = true → ∀ q, q ≠ p → (s.entry q).defined = true → ∀ l ∈ e.members,
      l ∉ (s.entry q).members)
    (hactive : s.startedOk → s.active p = true → e.defined = true ∧ e.members = (s.entry p).members) :
    s.Keeps (s.setEntry p e) := by
  have hself := State.entry_setEntry_self s p e
  have hne : ∀ q, q ≠ p → (s.setEntry p e).entry q = s.entry q := fun q hq => State.entry_setEntry_ne s e hq
  refine ⟨⟨⟨id, fun hs => ⟨hs.scalars, hs.lanes, hs.programs, hs.crossfades, hs.raises⟩, id, id, fun hs => ?_, id, id, id, id,
    id, id, rfl⟩, id, fun _ hl hf => ⟨hl, hf⟩⟩, fun _ => id⟩
  have hstarted := hs
  obtain ⟨hone, hdefined, hlanes⟩ := hs
  refine ⟨fun q k l hqk => ?_, fun q hq => ?_, fun l => (hlanes l).trans (exists_congr fun q => ?_)⟩
  · by_cases hq : q = p
    · subst hq
      rw [hself, hne k (Ne.symm hqk)]
      exact fun hd hdk hl => hown hstarted hd k (Ne.symm hqk) hdk l hl
    · rw [hne q hq]
      by_cases hk : k = p
      · subst hk
        rw [hself]
        exact fun hdq hd hlq hl => hown hstarted hd q hq hdq l hl hlq
      · rw [hne k hk]
        exact hone q k l hqk
  · by_cases hqp : q = p
    · subst hqp
      rw [hself]
      exact (hactive hstarted hq).1
    · rw [hne q hqp]
      exact hdefined q hq
  · by_cases hqp : q = p
    · subst hqp
      rw [hself]
      refine ⟨fun ⟨_, hl, hq⟩ => ?_, fun ⟨_, hl, hq⟩ => ?_⟩
      · exact ⟨(hactive hstarted hq).1, (hactive hstarted hq).2.symm ▸ hl, hq⟩
      · exact ⟨hdefined q hq, (hactive hstarted hq).2 ▸ hl, hq⟩
    · rw [hne q hqp]
      exact Iff.rfl

theorem State.delayStored_tranquil (s : State) (p : Fin 16) (old new : ProgramEntry) :
    s.Tranquil (s.delayStored p old new) := by
  unfold State.delayStored
  split
  · exact .refl s
  · split
    · exact s.putInForce_tranquil _ _
    · exact .setProgram (.servo _ rfl fun _ => Nat.zero_le _)
    · exact .refl s

theorem State.storeEntry_served {s : State} {p : Fin 16} {e : ProgramEntry} (h : s.Keeps (s.setEntry p e)) :
    s.Keeps (s.storeEntry p e) ∧ (s.storeEntry p e).orders = s.orders := by
  have hstored : (s.setEntry p e).Tranquil (
      if ((s.entry p).delayMode != e.delayMode || (s.entry p).manualDelay != e.manualDelay) = true then
        (s.setEntry p e).delayStored p (s.entry p) e
      else s.setEntry p e) := by
    split
    · exact State.delayStored_tranquil _ _ _ _
    · exact .refl _
  have hfollowed := hstored.toOrderly.followed
  exact ⟨h.trans hfollowed.keeps, hfollowed.toOrderly.orders⟩

/-- Indices of a table, as a list of numbers, are read back. -/
theorem filterMap_toFin?_val {n : Nat} (xs : List (Fin n)) : (xs.map Fin.val).filterMap (toFin? n) = xs := by
  rw [List.filterMap_map]
  have hsome : toFin? n ∘ Fin.val = fun i => some i := funext fun i => toFin?_of_eq rfl
  rw [hsome, List.filterMap_some]

theorem State.writeProgram_served (s : State) (o : Order) :
    s.Keeps (s.writeProgram o).2 ∧ (s.writeProgram o).2.orders = s.orders := by
  have hrefused : s.Keeps s ∧ s.orders = s.orders := ⟨.refl s, rfl⟩
  unfold State.writeProgram
  split
  · exact hrefused
  · next p _ =>
    dsimp only
    split
    · exact hrefused
    · next hfixed =>
      split
      · exact hrefused
      · split
        · exact hrefused
        · next n _ =>
          split
          · exact hrefused
          · next htaken =>
            refine State.storeEntry_served (State.setEntry_keeps (fun _ hd q hq hdq l hl hlq => ?_) fun hs hactive => ?_)
            · refine htaken ?_
              rw [hd, Bool.true_and, State.membersTaken, List.any_eq_true]
              refine ⟨q, List.mem_finRange q, ?_⟩
              rw [hdq, Bool.and_true, Bool.and_eq_true, bne_iff_ne, List.any_eq_true]
              exact ⟨hq, l, hl, List.contains_iff_mem.mpr hlq⟩
            · have hkept : (programWrite o.args).keepsFixed (s.entry p) = true := by simpa [hactive] using hfixed
              simp only [ProgramWrite.keepsFixed, Bool.and_eq_true, beq_iff_eq] at hkept
              obtain ⟨⟨⟨⟨⟨⟨⟨⟨⟨hdefined, _⟩, hmembers⟩, _⟩, _⟩, _⟩, _⟩, _⟩, _⟩, _⟩ := hkept
              have hd : (programWrite o.args).defined = true := hdefined.trans (hs.2.1 p hactive)
              refine ⟨hd, ?_⟩
              simp only [ProgramWrite.entry, hd, if_true, hmembers, filterMap_toFin?_val]

/-! ### The egress map and the settings (R145, R149, R152, R171) -/

theorem State.storeMap_keeps {s : State} {e : Fin 32} {m : MapEntry}
    (hfree : m.enabled = true → ∀ k, k ≠ e → s.tables.map[k].enabled = true → s.tables.map[k].slot ≠ m.slot) :
    s.Keeps (s.storeMap e m) := by
  have hmap : ∀ k : Fin 32, (s.storeMap e m).tables.map[k] = if k = e then m else s.tables.map[k] := fun k => by
    have hval : k = e ↔ e.val = k.val := by rw [Fin.ext_iff, eq_comm]
    simp only [State.storeMap, Fin.getElem_fin, Vector.getElem_set, hval]
  have hpending : ∀ k : Fin 32, (s.storeMap e m).egress.pending[k] = none → k ≠ e ∧ s.egress.pending[k] = none :=
    fun k hk => by
      have hval : k = e ↔ e.val = k.val := by rw [Fin.ext_iff, eq_comm]
      simp only [State.storeMap, Fin.getElem_fin, Vector.getElem_set] at hk
      split at hk
      · cases hk
      · next hne => exact ⟨hval.not.mpr hne, hk⟩
  refine ⟨⟨⟨id, fun hs => ⟨hs.scalars, hs.lanes, hs.programs, hs.crossfades, hs.raises⟩, id, ?_, id, id, id, id, id, id, id, rfl⟩, id,
    fun _ hl hf => ⟨hl, hf⟩⟩, fun _ => id⟩
  rintro ⟨hstored, hgoverning, hsame⟩
  refine ⟨fun j k hjk => ?_, hgoverning, fun k hk => ?_⟩
  · rw [hmap, hmap]
    by_cases hj : j = e
    · subst hj
      rw [if_pos rfl, if_neg (Ne.symm hjk)]
      exact fun hm hk => (hfree hm k (Ne.symm hjk) hk).symm
    · rw [if_neg hj]
      by_cases hk : k = e
      · subst hk
        rw [if_pos rfl]
        exact fun hjm hm => hfree hm j hj hjm
      · rw [if_neg hk]
        exact hstored j k hjk
  · obtain ⟨hke, hnone⟩ := hpending k hk
    rw [hmap, if_neg hke]
    exact hsame k hnone

theorem State.writeEgressMap_keeps (s : State) (o : Order) : s.Keeps (s.writeEgressMap o).2 := by
  unfold State.writeEgressMap
  split
  · exact .refl s
  · next e _ =>
    dsimp only
    split
    · next slot program member hslot _ _ =>
      split
      · exact .refl s
      · next htaken =>
        refine State.storeMap_keeps fun hm k hk hkm hks => htaken ?_
        rw [State.slotTakenBy, Bool.and_eq_true, List.any_eq_true]
        refine ⟨hm, k, List.mem_finRange k, ?_⟩
        have hval : slot.val = (mapWrite o.args).slot := by
          unfold toFin? at hslot
          split at hslot
          · exact (congrArg Fin.val (Option.some.inj hslot)).symm
          · cases hslot
        simp only [Bool.and_eq_true, bne_iff_ne, beq_iff_eq]
        exact ⟨⟨hk, hkm⟩, (congrArg Fin.val hks).trans hval⟩
    · exact .refl s

theorem House.reselect_warmedUp (h : House) (select : RefSelect) : (h.reselect select).warmedUp = h.warmedUp := by
  cases select <;> rfl

theorem House.reselect_toFrame (h : House) (select : RefSelect) : (h.reselect select).toFrame = h.toFrame := by
  cases select <;> rfl

theorem State.storeSettings_served (s : State) (x : Settings) :
    s.Keeps (s.storeSettings x) ∧ (s.storeSettings x).orders = s.orders := by
  have hset : s.Keeps { s with tables := { s.tables with settings := x } } := State.Elsewhere.keeps rfl id rfl id
  unfold State.storeSettings
  dsimp only
  have hdropped : s.Keeps (if x.node = 0 ∧ s.tables.settings.node ≠ 0 then
      ({ s with tables := { s.tables with settings := x } } : State).dropNotices
      else { s with tables := { s.tables with settings := x } }) ∧
      (if x.node = 0 ∧ s.tables.settings.node ≠ 0 then
      ({ s with tables := { s.tables with settings := x } } : State).dropNotices
      else { s with tables := { s.tables with settings := x } }).orders = s.orders := by
    split
    · exact ⟨hset.trans (State.dropNotices_noticed _).keeps, State.dropNotices_orders _⟩
    · exact ⟨hset, rfl⟩
  split
  · exact hdropped
  · refine ⟨hdropped.1.trans (State.setHouse_keeps _ fun hbegun => ?_), hdropped.2⟩
    rwa [House.reselect_warmedUp, House.reselect_toFrame]

theorem State.writeSettings_served (s : State) (o : Order) :
    s.Keeps (s.writeSettings o).2 ∧ (s.writeSettings o).2.orders = s.orders := by
  have hrefused : s.Keeps s ∧ s.orders = s.orders := ⟨.refl s, rfl⟩
  unfold State.writeSettings
  dsimp only
  split
  · exact hrefused
  · split
    · split
      · exact s.storeSettings_served _
      · exact hrefused
    · exact hrefused

/-! ### The tables that no invariant rests on (R68, R77, R94, R111) -/

theorem State.writeProfile_keeps (s : State) (o : Order) : s.Keeps (s.writeProfile o).2 := by
  unfold State.writeProfile
  split
  · exact .refl s
  · exact State.Elsewhere.keeps rfl id rfl id

theorem State.writeWeighting_keeps (s : State) (o : Order) : s.Keeps (s.writeWeighting o).2 := by
  unfold State.writeWeighting
  split
  · exact .refl s
  · split
    · exact .refl s
    · exact State.Elsewhere.keeps rfl id rfl id

theorem State.writeCoefficients_keeps (s : State) (o : Order) : s.Keeps (s.writeCoefficients o).2 := by
  unfold State.writeCoefficients
  dsimp only
  split
  · split
    · exact .refl s
    · split
      · exact .refl s
      · exact State.Elsewhere.keeps rfl id rfl id
  · exact .refl s

theorem State.writeBandSet_keeps (s : State) (o : Order) : s.Keeps (s.writeBandSet o).2 := by
  unfold State.writeBandSet
  split
  · exact State.Elsewhere.keeps rfl id rfl id
  · exact .refl s

theorem State.writeRule_keeps (s : State) (o : Order) : s.Keeps (s.writeRule o).2 := by
  unfold State.writeRule
  split
  · exact .refl s
  · dsimp only
    split
    · exact .refl s
    · split
      · exact s.rewriteRule_keeps _ _
      · exact .refl s

/-! ### An order that is answered (R166, R168) -/

/-- The part keeps every invariant while it serves an order, and no reply comes or goes. -/
structure State.Served (s u : State) : Prop where
  keeps : s.Keeps u
  replies : u.orders.replies = s.orders.replies
  unit : u.orders.unit = s.orders.unit

theorem State.Served.refl (s : State) : s.Served s := ⟨.refl s, rfl, rfl⟩

theorem State.Served.of_orders {s u : State} (h : s.Keeps u) (ho : u.orders = s.orders) : s.Served u :=
  ⟨h, by rw [ho], by rw [ho]⟩

theorem State.Handed.served {s u : State} (h : s.Handed u) : s.Served u := .of_orders h.keeps h.toOrderly.orders

theorem State.writeLane_served (s : State) (o : Order) : s.Served (s.writeLane o).2 := by
  refine .of_orders (s.writeLane_keeps o) ?_
  unfold State.writeLane
  split
  · rfl
  · dsimp only
    split
    · rfl
    · split
      · split
        · rfl
        · split <;> rfl
      · rfl

theorem State.writeProfile_served (s : State) (o : Order) : s.Served (s.writeProfile o).2 := by
  refine .of_orders (s.writeProfile_keeps o) ?_
  unfold State.writeProfile
  split <;> rfl

theorem State.writeWeighting_served (s : State) (o : Order) : s.Served (s.writeWeighting o).2 := by
  refine .of_orders (s.writeWeighting_keeps o) ?_
  unfold State.writeWeighting
  split
  · rfl
  · split <;> rfl

theorem State.writeCoefficients_served (s : State) (o : Order) : s.Served (s.writeCoefficients o).2 := by
  refine .of_orders (s.writeCoefficients_keeps o) ?_
  unfold State.writeCoefficients
  dsimp only
  split
  · split
    · rfl
    · split <;> rfl
  · rfl

theorem State.writeBandSet_served (s : State) (o : Order) : s.Served (s.writeBandSet o).2 := by
  refine .of_orders (s.writeBandSet_keeps o) ?_
  unfold State.writeBandSet
  split <;> rfl

theorem State.writeEgressMap_served (s : State) (o : Order) : s.Served (s.writeEgressMap o).2 := by
  refine .of_orders (s.writeEgressMap_keeps o) ?_
  unfold State.writeEgressMap
  split
  · rfl
  · dsimp only
    split
    · split <;> rfl
    · rfl

theorem State.placeNotice_orders (s : State) (r : Fin 64) : (s.placeNotice r).orders = s.orders :=
  (s.placeNotice_noticed r).moved.toMovedCore.orders

theorem State.noticeChange_orders (s : State) (r : Fin 64) (cause : Cause) (flagged : Bool) :
    (s.noticeChange r cause flagged).orders = s.orders :=
  (s.noticeChange_noticed r cause flagged).moved.toMovedCore.orders

theorem State.releaseActions_orders (s : State) (rl : Rule) : (s.releaseActions rl).orders = s.orders :=
  (s.releaseActions_moved rl).toMovedCore.orders

theorem State.rewriteRule_orders (s : State) (r : Fin 64) (e : Rule) : (s.rewriteRule r e).orders = s.orders := by
  have hreleased : (if (s.record r).state.holding = true then s.releaseActions (s.rule r) else s).orders = s.orders := by
    split
    · exact s.releaseActions_orders _
    · rfl
  unfold State.rewriteRule
  dsimp only
  rw [State.followThrough_orders]
  split
  · rw [State.refreshNotice_orders]
    split
    · exact hreleased
    · rw [State.noticeChange_orders]
      exact hreleased
  · split
    · exact hreleased
    · rw [State.noticeChange_orders]
      exact hreleased

theorem State.writeRule_served (s : State) (o : Order) : s.Served (s.writeRule o).2 := by
  refine .of_orders (s.writeRule_keeps o) ?_
  unfold State.writeRule
  split
  · rfl
  · dsimp only
    split
    · rfl
    · split
      · exact s.rewriteRule_orders _ _
      · rfl

/-! ### The orders on programs and rules -/

theorem State.startProgram_orders (s : State) (p : Fin 16) : (s.startProgram p).orders = s.orders := by
  unfold State.startProgram
  dsimp only
  rw [State.followThrough_orders, State.putInForce_orders, State.setProgram_orders, State.mapLanes_orders]

theorem State.orderStart_served (s : State) (o : Order) : s.Served (s.orderStart o).2 := by
  unfold State.orderStart
  split
  · exact .refl s
  · split
    · exact .refl s
    · next h => exact .of_orders (State.startProgram_keeps h) (s.startProgram_orders _)

theorem State.orderDelay_served (s : State) (o : Order) : s.Served (s.orderDelay o).2 := by
  unfold State.orderDelay
  split
  · exact .refl s
  · next p _ =>
    dsimp only
    split
    · exact .refl s
    · next hdefined =>
      split
      · exact .refl s
      · next mode _ =>
        have hd : (s.entry p).defined = true := by simpa using hdefined
        refine .of_orders (State.Keeps.trans (t := s.setEntry p
          { s.entry p with delayMode := mode, manualDelay := min (field o.args 2 3) 480000 }) ?_
          (State.delayStored_tranquil _ _ _ _).handed.keeps) (State.delayStored_tranquil _ _ _ _).toOrderly.orders
        exact State.setEntry_keeps (fun hs _ q hq hdq l hl => hs.1 p q l (Ne.symm hq) hd hdq hl) fun _ _ => ⟨hd, rfl⟩

theorem State.orderChangeover_served (s : State) (o : Order) : s.Served (s.orderChangeover o).2 := by
  unfold State.orderChangeover
  split
  · exact .refl s
  · split
    · exact .refl s
    · exact (s.applyForce_handed _ _).served

theorem State.orderCue_served (s : State) (o : Order) : s.Served (s.orderCue o).2 := by
  unfold State.orderCue
  dsimp only
  split
  · exact .refl s
  · split
    · exact .refl s
    · split
      · exact .refl s
      · split
        · exact .refl s
        · split
          · exact .refl s
          · exact (s.enterCue_tranquil _ _ _ _).handed.served

theorem State.RecordsMoved.served {s t : State} (h : s.RecordsMoved t) : s.Served t.followThrough :=
  .of_orders h.followed ((State.followThrough_orders _).trans h.toMovedCore.orders)

theorem State.orderAcknowledge_served (s : State) (o : Order) : s.Served (s.orderAcknowledge o).2 := by
  unfold State.orderAcknowledge
  dsimp only
  split
  · exact s.acknowledgeAll_moved.served
  · split
    · exact (s.acknowledge_moved _).served
    · exact .refl s

/-! ### The clear option (R36, R147, R173) -/

theorem Lane.clearCounters_orderly (x : Lane) : x.Orderly x.clearCounters :=
  ⟨Iff.rfl, fun ⟨hidle, _⟩ => ⟨hidle, Nat.zero_le _, Nat.zero_le _, Nat.zero_le _⟩⟩

theorem Program.clearCounters_orderly (x : Program) : x.Orderly x.clearCounters where
  parked := Iff.rfl
  holds := rfl
  ranges := fun ⟨⟨hfade, _⟩, ⟨htrim, _⟩, hidle, _, hramp, _⟩ =>
    ⟨⟨hfade, Nat.zero_le _⟩, ⟨htrim, Nat.zero_le _, Nat.zero_le _⟩, hidle, Nat.zero_le _, hramp, Nat.zero_le _, Nat.zero_le _,
      Nat.zero_le _, Nat.zero_le _, Nat.zero_le _⟩
  bounds := id

/-- Raise counts return to 0 and nothing else of any record moves. -/
theorem State.keeps_of_raises {s t : State} (hframe : t = { s with alarm := { s.alarm with records := t.alarm.records } })
    (hrecord : ∀ r, t.record r = s.record r ∨ t.record r = (s.record r).clearRaises) : s.Keeps t := by
  have hkept : ∀ r, (t.record r).state = (s.record r).state ∧ (t.record r).due = (s.record r).due ∧
      (t.record r).acked = (s.record r).acked ∧ (t.record r).queued = (s.record r).queued ∧
      (t.record r).owed = (s.record r).owed ∧ ((s.record r).raises ≤ 65535 → (t.record r).raises ≤ 65535) := fun r => by
    rcases hrecord r with h | h <;> rw [h]
    · exact ⟨rfl, rfl, rfl, rfl, rfl, id⟩
    · exact ⟨rfl, rfl, rfl, rfl, rfl, fun _ => Nat.zero_le _⟩
  have hprogram : ∀ p, t.program p = s.program p := fun p => (congrArg (fun u : State => u.program p) hframe).trans rfl
  have hnotices : t.alarm.notices = s.alarm.notices := (congrArg (fun u : State => u.alarm.notices) hframe).trans rfl
  have hhouse : t.house = s.house := (congrArg State.house hframe).trans rfl
  have hmoved : s.Moved t := by
    refine ⟨⟨?_, fun p => by rw [hprogram], fun r => (hkept r).2.2.2.2.2, ?_⟩, fun _ => ?_⟩
    · have hp : t.programs = s.programs := (congrArg State.programs hframe).trans rfl
      rw [hp, hnotices]
      exact hframe
    · exact State.marksOk_congr hnotices fun r => ⟨(hkept r).2.2.2.1, (hkept r).2.2.2.2.1⟩
    · exact State.owedOk_congr (by rw [hnotices]) (fun r => (hkept r).2.2.2.2.1) (by rw [hhouse]; exact id)
  refine ⟨⟨hmoved.keepsBase, ?_, fun _ => hmoved.derived (fun p => by rw [hprogram]) fun severity r => ?_⟩, hmoved.owed⟩
  · exact State.holdsOk_congr (by rw [hmoved.tables]) (fun p => by rw [hprogram]) fun r => ⟨(hkept r).1, (hkept r).2.1⟩
  · exact State.drives_congr (hmoved.rule r) (hkept r).1 (hkept r).2.2.1 severity

theorem State.clearRaises_keeps (s : State) (r : Fin 64) : s.Keeps (s.setRecord r (s.record r).clearRaises) := by
  refine State.keeps_of_raises rfl fun k => ?_
  by_cases hk : k = r
  · subst hk
    exact .inr (State.record_setRecord_self _ _ _)
  · exact .inl (State.record_setRecord_ne _ _ hk)

theorem State.clearAllRaises_keeps (s : State) : s.Keeps { s with alarm := { s.alarm with
    records := Vector.ofFn fun r => (s.record r).clearRaises } } := by
  generalize hv : (Vector.ofFn fun r => (s.record r).clearRaises) = v
  refine State.keeps_of_raises rfl fun k => .inr ?_
  subst hv
  exact Vector.getElem_ofFn _

/-- The part's own counters return to 0 (R173). -/
def State.clearScalars (s : State) : State :=
  { s with
    rx := { s.rx with checkFails := 0, unknownKinds := 0, countErrors := 0, lockLosses := 0 }
    egress := { s.egress with shed := 0 }
    orders := { s.orders with drops := 0 } }

theorem State.clearScalars_keeps (s : State) : s.Keeps s.clearScalars := by
  refine ⟨⟨⟨id, fun hs => ⟨?_, hs.lanes, hs.programs, hs.crossfades, hs.raises⟩, id, id, id, id, id, id, id, id, id, rfl⟩, id,
    fun _ hl hf => ⟨hl, hf⟩⟩, fun _ => id⟩
  exact ⟨Nat.zero_le _, Nat.zero_le _, Nat.zero_le _, Nat.zero_le _, Nat.zero_le _, Nat.zero_le _⟩

theorem State.clearPart_eq (s : State) : ∃ t,
    t = ((s.clearScalars.mapLanes fun _ x => x.clearCounters).mapPrograms fun _ x => x.clearCounters) ∧ s.clearPart =
      { t with alarm := { t.alarm with records := Vector.ofFn fun r => (t.record r).clearRaises } } := ⟨_, rfl, rfl⟩

theorem State.clearPart_served (s : State) : s.Served s.clearPart := by
  have hlanes : s.clearScalars.Handed (s.clearScalars.mapLanes fun _ x => x.clearCounters) :=
    .mapLanes fun l => (s.clearScalars.lane l).clearCounters_orderly
  have hprograms : (s.clearScalars.mapLanes fun _ x => x.clearCounters).Handed
      ((s.clearScalars.mapLanes fun _ x => x.clearCounters).mapPrograms fun _ x => x.clearCounters) :=
    .mapPrograms fun p => ⟨Program.clearCounters_orderly _, rfl, rfl⟩
  have hcleared := hlanes.trans hprograms
  have horders := hcleared.toOrderly.orders
  obtain ⟨t, ht, heq⟩ := s.clearPart_eq
  rw [← ht] at hcleared horders
  rw [heq]
  refine ⟨s.clearScalars_keeps.trans (hcleared.keeps.trans t.clearAllRaises_keeps), ?_, ?_⟩
  · exact (congrArg Orders.replies horders).trans rfl
  · exact (congrArg Orders.unit horders).trans rfl

theorem State.statusPart_served (s : State) (o : Order) : s.Served (s.statusPart o).2.2 := by
  unfold State.statusPart
  dsimp only
  split
  · exact s.clearPart_served
  · exact .refl s

theorem State.statusLane_served (s : State) (o : Order) : s.Served (s.statusLane o).2.2 := by
  unfold State.statusLane
  split
  · dsimp only
    split
    · exact State.Handed.served (.setLane (Lane.clearCounters_orderly _))
    · exact .refl s
  · exact .refl s

theorem State.statusRule_served (s : State) (o : Order) : s.Served (s.statusRule o).2.2 := by
  unfold State.statusRule
  split
  · dsimp only
    split
    · exact .of_orders (s.clearRaises_keeps _) (s.setRecord_orders _ _)
    · exact .refl s
  · exact .refl s

theorem State.statusView_served (s : State) (o : Order) (view : Fin 16 → List Byte) :
    s.Served (s.statusView o view).2.2 := by
  unfold State.statusView
  split
  · split <;> exact .refl s
  · exact .refl s

theorem State.statusChangeover_served (s : State) (o : Order) : s.Served (s.statusChangeover o).2.2 := by
  unfold State.statusChangeover
  dsimp only
  split
  · split <;> exact .refl s
  · exact .refl s

theorem State.statusCounters_served (s : State) (o : Order) : s.Served (s.statusCounters o).2.2 := by
  unfold State.statusCounters
  split
  · dsimp only
    split
    · exact State.Handed.served (.setProgram (Program.clearCounters_orderly _) rfl rfl)
    · exact .refl s
  · exact .refl s

/-! ### One order carried out (R166, R167) -/

section Ready
variable {s : State} (hroom : s.orders.replies.length < 8) (hidle : s.orders.unit = .idle)
include hroom hidle

/-- A reply takes one of the places kept for it (R168). -/
theorem State.answer_keeps (o : Order) (status : Status) (results : List Byte) :
    s.Keeps (s.answer o status results) := by
  refine State.setOrders_keeps (fun hs => hs.1) id ?_
  rintro ⟨_, _, _, hreset⟩
  refine ⟨?_, fun hpark => ?_, fun hdone => ?_⟩
  · show (s.orders.replies ++ _).length ≤ 8
    rw [List.length_append]
    exact hroom
  · cases hidle.symm.trans hpark
  · cases hidle.symm.trans (hreset hdone).1

theorem State.recordOwing_keeps (o : Order) (unit : UnitState) : s.Keeps (s.recordOwing o unit) := by
  refine State.setOrders_keeps (fun hs => hs.1) id ?_
  rintro ⟨_, hreplies, _, hreset⟩
  refine ⟨hreplies, fun _ => Nat.le_of_lt_succ hroom, fun hdone => ?_⟩
  cases hidle.symm.trans (hreset hdone).1

theorem State.Served.answered {u : State} (h : s.Served u) (o : Order) (status : Status) (results : List Byte) :
    s.Keeps (u.answer o status results) :=
  h.keeps.trans (State.answer_keeps (by rw [h.replies]; exact hroom) (by rw [h.unit]; exact hidle) o status results)

theorem State.orderPark_keeps (o : Order) : s.Keeps (s.orderPark o) := by
  unfold State.orderPark
  split
  · exact State.answer_keeps hroom hidle _ _ _
  · split
    · next p _ hactive =>
      have hparking : s.Handed (s.enterParking p) := State.enterParking_handed (by
        rw [State.active, bne_iff_ne] at hactive
        exact hactive)
      have horders := hparking.toOrderly.orders
      exact hparking.keeps.trans (State.recordOwing_keeps (by rw [horders]; exact hroom) (by rw [horders]; exact hidle) _ _)
    · exact State.answer_keeps hroom hidle _ _ _

theorem State.carryOut_keeps (o : Order) : s.Keeps (s.carryOut o) := by
  have finishes : ∀ {x : Status × State}, s.Served x.2 → s.Keeps (State.finish o x) := fun h =>
    h.answered hroom hidle _ _ _
  have reads : ∀ x, s.Keeps (s.finishRead o x) := fun x => State.answer_keeps hroom hidle _ _ _
  have answers : ∀ {x : Status × List Byte × State}, s.Served x.2.2 → s.Keeps (State.finishStatus o x) := fun h =>
    h.answered hroom hidle _ _ _
  unfold State.carryOut
  split
  · exact finishes (s.writeLane_served o)
  · exact finishes (.of_orders (s.writeProgram_served o).1 (s.writeProgram_served o).2)
  · exact finishes (s.writeProfile_served o)
  · exact finishes (s.writeWeighting_served o)
  · exact finishes (s.writeCoefficients_served o)
  · exact finishes (s.writeBandSet_served o)
  · exact finishes (s.writeRule_served o)
  · exact finishes (s.writeEgressMap_served o)
  · exact finishes (.of_orders (s.writeSettings_served o).1 (s.writeSettings_served o).2)
  · exact reads _
  · exact reads _
  · exact reads _
  · exact reads _
  · exact reads _
  · exact reads _
  · exact reads _
  · exact reads _
  · exact reads _
  · exact answers (s.statusPart_served o)
  · exact answers (s.statusLane_served o)
  · exact answers (s.statusRule_served o)
  · exact answers (s.statusView_served o _)
  · exact answers (s.statusView_served o _)
  · exact answers (s.statusView_served o _)
  · exact answers (s.statusView_served o _)
  · exact answers (s.statusChangeover_served o)
  · exact answers (s.statusCounters_served o)
  · exact finishes (s.orderStart_served o)
  · exact State.orderPark_keeps hroom hidle o
  · exact finishes (s.orderDelay_served o)
  · exact finishes (s.orderChangeover_served o)
  · exact finishes (s.orderAcknowledge_served o)
  · exact finishes (s.orderCue_served o)
  · exact State.recordOwing_keeps hroom hidle o _
  · exact State.answer_keeps hroom hidle o _ _

end Ready

/-- The unit takes an order only where it is IDLE with room for the reply (R166). -/
theorem State.nextOrder_ready {s : State} {o : Order} (h : s.nextOrder = some o) :
    s.orders.replies.length < 8 ∧ s.orders.unit = .idle := by
  unfold State.nextOrder at h
  split at h
  · next hready =>
    simp only [State.unitReady, Bool.and_eq_true, beq_iff_eq, decide_eq_true_eq] at hready
    exact ⟨hready.1.2, hready.1.1.2⟩
  · cases h

theorem State.takeHead_keeps (s : State) : s.Keeps s.takeHead := by
  have hhead : s.promoteAll.Keeps s.takeHead := State.setOrders_keeps
    (fun hs => (List.length_tail.trans_le (Nat.sub_le _ _)).trans hs.1) id fun hs => hs.2
  exact s.promoteAll_noticed.keeps.trans hhead

/-- Taking the head order and carrying it out keeps every invariant. -/
theorem State.carryOut_takeHead_keeps {s : State} {o : Order} (h : s.nextOrder = some o) :
    s.Keeps (s.takeHead.carryOut o) := by
  obtain ⟨hroom, hidle⟩ := State.nextOrder_ready h
  have horders : s.promoteAll.orders = s.orders := s.promoteAll_noticed.moved.toMovedCore.orders
  refine s.takeHead_keeps.trans (State.carryOut_keeps ?_ ?_ o)
  · show s.promoteAll.orders.replies.length < 8
    rw [horders]
    exact hroom
  · show s.promoteAll.orders.unit = .idle
    rw [horders]
    exact hidle

end Sys2Proof.Machine
end

section
/-! SUPPORT. The slots of a frame, the frame sent and the house sample: each keeps every invariant (R59, R150, R152, R159 to
R165). -/

namespace Sys2Proof.Machine

/-! ### Orders and passthrough parcels of a slot (R162, R165) -/

theorem State.deliverOrder_keeps (s : State) (c : SlotContent) : s.Keeps (s.deliverOrder c) := by
  unfold State.deliverOrder
  split
  · refine State.setOrders_keeps (fun hs => ?_) (fun hd => ?_) fun hs => ?_
    · unfold Orders.offer
      split
      · next hroom =>
        rw [List.length_append]
        exact hroom
      · exact hs.1
    · unfold Orders.offer
      split
      · exact hd
      · exact satAdd_le _ _
    · unfold Orders.offer
      split <;> exact hs.2
  · exact .refl s

theorem slotBytes_length {slot : Slot} {b : List Byte} (h : slotBytes slot = some b) : b.length = slot.length := by
  rw [slotBytes_eq_some h, List.length_map]

theorem slotContent_of_damaged {slot : Slot} (h : slotBytes slot = none) : slotContent slot = .badCheck := by
  unfold slotContent checkedBytes
  rw [h]

/-- A slot that passes through has all its bytes (R9, R162). -/
theorem State.slotBytes_of_passthrough {s : State} {slot : Slot} (h : s.slotRow slot = .passthrough) :
    ((slotBytes slot).getD []).length = slot.length := by
  cases hb : slotBytes slot with
  | some b => exact slotBytes_length hb
  | none =>
    rw [State.slotRow, slotContent_of_damaged hb] at h
    cases h

theorem State.passThrough_keeps (s : State) {parcel : List Byte} (h : parcel.length = 84) :
    s.Keeps (s.passThrough parcel) := by
  unfold State.passThrough
  split
  · next hroom =>
    refine ⟨⟨⟨id, fun hs => ⟨hs.scalars, hs.lanes, hs.programs, hs.crossfades, hs.raises⟩, id, id, id, id, id, id, ?_, id, id, rfl⟩,
      id, fun _ hl hf => ⟨hl, hf⟩⟩, fun _ => id⟩
    rintro ⟨_, hparcels⟩
    refine ⟨?_, fun b hb => ?_⟩
    · show (s.egress.passthrough ++ [parcel]).length ≤ 96
      rw [List.length_append]
      exact hroom
    · rcases List.mem_append.mp hb with hb | hb
      · exact hparcels b hb
      · rw [List.mem_singleton.mp hb]
        exact h
  · refine ⟨⟨⟨id, fun hs => ⟨?_, hs.lanes, hs.programs, hs.crossfades, hs.raises⟩, id, id, id, id, id, id, id, id, id, rfl⟩, id,
      fun _ hl hf => ⟨hl, hf⟩⟩, fun _ => id⟩
    obtain ⟨hcheck, hkinds, hcount, hlock, _, hdrops⟩ := hs.scalars
    exact ⟨hcheck, hkinds, hcount, hlock, satAdd_le _ _, hdrops⟩

theorem State.slotTaken_keeps (s : State) (run : Nat) : s.Keeps (s.slotTaken run) := State.setRx_keeps s id

theorem State.slotRow_slotTaken (s : State) (run : Nat) (slot : Slot) : (s.slotTaken run).slotRow slot = s.slotRow slot := rfl

/-- A slot of the trunk keeps every invariant where its delivery does. -/
theorem State.takeSlot_keeps {s : State} {row : SlotRow} {slot : Slot} {deliver : State → State}
    (h : ∀ t : State, t.slotRow slot = row → t.Keeps (deliver t)) : s.Keeps (s.takeSlot row slot deliver) := by
  unfold State.takeSlot
  split
  · split
    · exact s.setRx_keeps s.rx.fault_inRange
    · next run _ =>
      split
      · exact s.slotTaken_keeps run
      · split
        · next hrow => exact (s.slotTaken_keeps run).trans (h _ ((s.slotRow_slotTaken run slot).trans hrow))
        · exact .refl s
  · exact .refl s

/-! ### The frame sent (R159 to R163) -/

/-- The part keeps every invariant but that of owed rules while the frame is built, and House Timing stands. -/
structure State.Sends (s t : State) : Prop where
  keeps : s.KeepsCore t
  house : t.house = s.house

theorem State.Sends.refl (s : State) : s.Sends s := ⟨(State.Keeps.refl s).toKeepsCore, rfl⟩

theorem State.Sends.trans {s t u : State} (h : s.Sends t) (k : t.Sends u) : s.Sends u :=
  ⟨h.keeps.trans k.keeps, k.house.trans h.house⟩

theorem State.Handed.sends {s t : State} (h : s.Handed t) : s.Sends t := ⟨h.keeps.toKeepsCore, h.toOrderly.house⟩

theorem State.takeReplies_sends (n : Nat) (s : State) : s.Sends (s.takeReplies n).2 := by
  induction n generalizing s with
  | zero => exact .refl s
  | succ n ih =>
    unfold State.takeReplies
    split
    · exact .refl s
    · next r rest heq =>
      have htaken : s.Keeps { s with orders := { s.orders with replies := rest, overflow := false } } := by
        refine State.setOrders_keeps (fun hs => hs.1) id fun hs => ?_
        obtain ⟨_, hreplies, hpark, hreset⟩ := hs
        rw [heq] at hreplies hpark hreset
        refine ⟨(Nat.le_succ _).trans hreplies, fun h => (Nat.le_succ _).trans (hpark h), fun h => ?_⟩
        exact absurd (hreset h).2 (List.cons_ne_nil _ _)
      exact State.Sends.trans ⟨htaken.toKeepsCore, rfl⟩ (ih _)

theorem State.takeCues_sends (n : Nat) (s : State) : s.Sends (s.takeCues n).2 := by
  induction n generalizing s with
  | zero => exact .refl s
  | succ n ih =>
    unfold State.takeCues
    split
    · exact .refl s
    · next c rest heq =>
      have htaken : s.Tranquil { s with egress := { s.egress with outbox := rest } } := .setOutbox fun hb => by
        rw [heq] at hb
        exact (Nat.le_succ _).trans hb
      exact htaken.handed.sends.trans (ih _)

theorem State.takeNotices_sends (n : Nat) (s : State) : s.Sends (s.takeNotices n).2 := by
  induction n generalizing s with
  | zero => exact .refl s
  | succ n ih =>
    unfold State.takeNotices
    split
    · exact .refl s
    · next heq =>
      have htaken := State.takeNotice_noticed heq
      exact State.Sends.trans ⟨htaken.keeps, htaken.moved.house⟩ (ih _)

theorem State.takeReports_sends (n : Nat) (s : State) : s.Sends (s.takeReports n).2 := by
  induction n generalizing s with
  | zero => exact .refl s
  | succ n ih =>
    unfold State.takeReports
    split
    · exact .refl s
    · next p _ =>
      have hreport : s.Tranquil (s.setProgram p { s.program p with meter := { (s.program p).meter with report := none } }) :=
        .setProgram (.meter _)
      have hrotated : ∀ t : State, t.Sends { t with egress := { t.egress with rotation := some p } } := fun t =>
        ⟨State.Elsewhere.keepsCore rfl id rfl, rfl⟩
      exact hreport.handed.sends.trans ((hrotated _).trans (ih _))

theorem State.controlRound_sends (s : State) : s.Sends s.controlRound.2 := by
  unfold State.controlRound
  split
  · exact .refl s
  · dsimp only
    exact (State.takeReplies_sends _ _).trans ((State.takeCues_sends _ _).trans
      ((State.takeNotices_sends _ _).trans (State.takeReports_sends _ _)))

theorem State.afterAudio_handed (s : State) : s.Handed s.afterAudio := by
  unfold State.afterAudio
  refine .mapEgressLanes fun e x hx => ?_
  split <;> exact hx

/-- The frame goes out with what of the passthrough queue it takes. -/
theorem State.sendFrame_sends (s : State) (room : Nat) (frame : Frame) (number : BitVec 16) :
    s.Sends { s with egress := { s.egress with
      passthrough := s.egress.passthrough.drop room, sent := some frame, number := number } } := by
  refine ⟨⟨⟨id, fun hs => ⟨hs.scalars, hs.lanes, hs.programs, hs.crossfades, hs.raises⟩, id, id, id, id, id, id, ?_, id, id, rfl⟩, id,
    fun _ hl hf => ⟨hl, hf⟩⟩, rfl⟩
  rintro ⟨hlength, hparcels⟩
  refine ⟨?_, fun b hb => hparcels b (List.mem_of_mem_drop hb)⟩
  show (s.egress.passthrough.drop room).length ≤ 96
  rw [List.length_drop]
  exact (Nat.sub_le _ _).trans hlength

theorem State.buildFrame_sends (s : State) : s.Sends s.buildFrame := by
  unfold State.buildFrame
  dsimp only
  exact s.afterAudio_handed.sends.trans ((State.controlRound_sends _).trans (State.sendFrame_sends _ _ _ _))

/-! ### The frame period begins (R57, R78, R150, R152) -/

/-- Egress lanes and map take other values. -/
def State.setMap (s : State) (lanes : Vector EgressLane 32) (map : Vector MapEntry 32) : State :=
  { s with egress := { s.egress with lanes := lanes, map := map, pending := Vector.replicate 32 none } }

theorem State.setMap_followed {s : State} {lanes : Vector EgressLane 32} {map : Vector MapEntry 32}
    (hx : ∀ e : Fin 32, (s.egressLane e).x ≤ 960 → lanes[e].x ≤ 960)
    (hmap : s.slotsOk → ∀ e : Fin 32, map[e] = s.tables.map[e]) : s.Keeps (s.setMap lanes map).followThrough := by
  refine State.KeepsBase.followed ⟨id, fun hs => ⟨hs.scalars, hs.lanes, hs.programs, fun e => hx e (hs.crossfades e), hs.raises⟩,
    id, fun hs => ⟨hs.1, fun e k => ?_, fun e _ => hmap hs e⟩, id, id, id, id, id, id, id, rfl⟩ id fun _ => id
  show e ≠ k → map[e].enabled = true → map[k].enabled = true → map[e].slot ≠ map[k].slot
  rw [hmap hs e, hmap hs k]
  exact hs.1 e k

/-- An egress lane as the stored map comes to govern: at the end of its crossfade where its entry was written (R152). -/
def State.laneApplied (s : State) (e : Fin 32) : EgressLane :=
  match s.egress.pending[e] with
  | none => s.egressLane e
  | some fresh =>
    let m := s.tables.map[e]
    let lane := { s.egressLane e with x := if (s.program m.program).change.state.crossed then 960 else 0 }
    if fresh then { lane with seq := 0, owed := false } else lane

/-- The entry that governs once the stored map is applied (R152). -/
def State.entryApplied (s : State) (e : Fin 32) : MapEntry :=
  if s.egress.pending[e].isSome then s.tables.map[e] else s.mapEntry e

theorem State.applyMap_eq (s : State) :
    s.applyMap = (s.setMap (Vector.ofFn s.laneApplied) (Vector.ofFn s.entryApplied)).followThrough := rfl

theorem State.laneApplied_x (s : State) (e : Fin 32) (h : (s.egressLane e).x ≤ 960) : (s.laneApplied e).x ≤ 960 := by
  have hx : (if (s.program s.tables.map[e].program).change.state.crossed = true then 960 else 0) ≤ 960 := by
    split
    · exact Nat.le_refl _
    · exact Nat.zero_le _
  unfold State.laneApplied
  split
  · exact h
  · dsimp only
    split <;> exact hx

theorem State.entryApplied_of_slotsOk {s : State} (h : s.slotsOk) (e : Fin 32) : s.entryApplied e = s.tables.map[e] := by
  unfold State.entryApplied
  split
  · rfl
  · next hnone => exact h.2.2 e (Option.not_isSome_iff_eq_none.mp hnone)

theorem State.applyMap_keeps (s : State) : s.Keeps s.applyMap := by
  rw [State.applyMap_eq]
  have hlanes : ∀ e : Fin 32, (Vector.ofFn s.laneApplied)[e] = s.laneApplied e := fun e => Vector.getElem_ofFn _
  have hentries : ∀ e : Fin 32, (Vector.ofFn s.entryApplied)[e] = s.entryApplied e := fun e => Vector.getElem_ofFn _
  refine State.setMap_followed (fun e he => ?_) fun hs e => ?_
  · rw [hlanes]
    exact s.laneApplied_x e he
  · rw [hentries]
    exact State.entryApplied_of_slotsOk hs e

theorem State.applyMap_house (s : State) : s.applyMap.house = s.house := by
  rw [State.applyMap_eq, State.followThrough_house, State.setMap]

theorem State.fixRatios_handed (s : State) : s.Handed s.fixRatios := by
  unfold State.fixRatios
  refine .mapPrograms fun p => ?_
  have hfixed : ∀ {x : Program} {f}, x.Tranquil { x with conv := { x.conv with fixed := f } } := .conv _
  split
  · exact ⟨hfixed.toOrderly, hfixed.target, hfixed.fade⟩
  · exact ⟨.refl _, rfl, rfl⟩

/-- The servo updates of a frame start. -/
def State.servoUpdates (s : State) : State := (List.finRange 16).foldl (fun s p => s.servoUpdate p) s

theorem State.servoUpdates_handed (s : State) : s.Handed s.servoUpdates :=
  foldl_rel State.Handed.refl State.Handed.trans State.servoUpdate_handed _ s

theorem State.beginPeriod_eq (s : State) : s.beginPeriod =
    { s.applyMap.fixRatios.servoUpdates with
      house := { s.applyMap.fixRatios.servoUpdates.house with toFrame := 12 }
      egress := { s.applyMap.fixRatios.servoUpdates.egress with sampleFrom := none } } := by
  unfold State.beginPeriod State.servoUpdates
  rfl

theorem State.beginPeriod_house (s : State) : s.beginPeriod.house = { s.house with toFrame := 12 } := by
  have hhouse : s.applyMap.fixRatios.servoUpdates.house = s.house :=
    s.applyMap.fixRatios.servoUpdates_handed.toOrderly.house.trans
      (s.applyMap.fixRatios_handed.toOrderly.house.trans s.applyMap_house)
  rw [State.beginPeriod_eq, hhouse]

theorem State.beginPeriod_keeps (s : State) : s.KeepsCore s.beginPeriod := by
  have hservo := s.applyMap_keeps.toKeepsCore.trans
    ((s.applyMap.fixRatios_handed.trans s.applyMap.fixRatios.servoUpdates_handed).keeps.toKeepsCore)
  rw [State.beginPeriod_eq]
  generalize s.applyMap.fixRatios.servoUpdates = t at hservo ⊢
  exact hservo.trans (State.Elsewhere.keepsCore rfl id rfl)

/-- From a frame start to the next house sample owed rules may find places (log entry 10). -/
theorem State.owedOk_beginPeriod {s : State} (h : s.house.warmedUp = true) : s.beginPeriod.owedOk := fun _ _ => by
  rw [State.beginPeriod_house]
  exact .inr ⟨h, rfl⟩

theorem State.startFrame_keeps {s : State} (h : s.frameDue = true) : s.Keeps s.startFrame := by
  refine ⟨s.buildFrame_sends.keeps.trans s.buildFrame.beginPeriod_keeps, fun _ _ => State.owedOk_beginPeriod ?_⟩
  rw [s.buildFrame_sends.house]
  exact (Bool.and_eq_true_iff.mp h).1

theorem State.endEgressWarmUp_keeps (s : State) : s.Keeps s.endEgressWarmUp := by
  have hbegun : s.KeepsCore { s with house := { s.house with warmedUp := true } } := State.Elsewhere.keepsCore rfl id rfl
  exact ⟨hbegun.trans (State.beginPeriod_keeps _), fun _ _ => State.owedOk_beginPeriod rfl⟩

/-! ### One house sample (R59 to R61, R119, R150, R153, R158) -/

theorem Play.stepFade_inRange (x : Play) (h : x.inRange) : x.stepFade.inRange := by
  obtain ⟨hfade, hresyncs⟩ := h
  unfold Play.stepFade
  split
  · split
    · next hlt => exact ⟨hlt, hresyncs⟩
    · exact ⟨hfade, hresyncs⟩
  · exact ⟨(Nat.sub_le _ _).trans hfade, hresyncs⟩

theorem Play.stepFade_kept (x : Play) : x.stepFade.state = x.state ∧ x.stepFade.target = x.target ∧
    x.stepFade.elapsed = x.elapsed := by
  unfold Play.stepFade
  split
  · split <;> exact ⟨rfl, rfl, rfl⟩
  · exact ⟨rfl, rfl, rfl⟩

theorem Program.stepFade_tranquil (x : Program) : x.Tranquil { x with play := x.play.stepFade } := by
  obtain ⟨hstate, htarget, helapsed⟩ := x.play.stepFade_kept
  exact .play x hstate htarget helapsed x.play.stepFade_inRange

theorem Gain.stepRamp_inRange (g : Gain) (h : g.inRange) : g.stepRamp.inRange := by
  unfold Gain.stepRamp
  dsimp only
  split
  · next hlt => exact ⟨hlt, h.2⟩
  · exact h

theorem Gain.stepRamp_schedule (g : Gain) : g.stepRamp.schedule = g.schedule := by
  unfold Gain.stepRamp
  dsimp only
  split <;> rfl

theorem State.soundProgram_tranquil (s : State) (p : Fin 16) : (s.program p).Tranquil (s.soundProgram p).2 := by
  unfold State.soundProgram
  dsimp only
  split
  · split
    · refine (s.program p).stepFade_tranquil.trans ?_
      generalize hx : ({ s.program p with play := (s.program p).play.stepFade } : Program) = x
      have hsound : ∀ starved clips gainClips events, x.Tranquil { x with
          conv := { x.conv with starved := satAdd x.conv.starved starved, clips := satAdd x.conv.clips clips }
          gain := { x.gain.stepRamp with clips := satAdd x.gain.stepRamp.clips gainClips }
          events := events } := fun starved clips gainClips events => by
        refine (Program.Tranquil.conv x (c := { x.conv with
          starved := satAdd x.conv.starved starved, clips := satAdd x.conv.clips clips })
          fun ⟨htrim, _, _⟩ => ⟨htrim, satAdd_le _ _, satAdd_le _ _⟩).trans (.trans (.gain _
          (g := { x.gain.stepRamp with clips := satAdd x.gain.stepRamp.clips gainClips }) (fun h => ?_) (fun h => ?_))
          (.events _ events))
        · obtain ⟨hramp, hco, hgd, hcd, hfd, _⟩ := x.gain.stepRamp_inRange h
          exact ⟨hramp, hco, hgd, hcd, hfd, satAdd_le _ _⟩
        · rw [Gain.stepRamp_schedule]
          exact h
      subst hx
      exact hsound _ _ _ _
    · exact (s.program p).stepFade_tranquil
  · exact (s.program p).stepFade_tranquil

theorem State.heldAdvance_tranquil (s : State) (p : Fin 16) (P : ReadPos) : s.Tranquil (s.heldAdvance p P) := by
  have hheld : ∀ hold, s.Tranquil (s.setProgram p { s.program p with
      conv := { (s.program p).conv with hold := hold } }) := fun _ => .setProgram (.conv _)
  have hmoved : ∀ (t : State) (clear : Bool) (Q : ReadPos), t.Tranquil (if clear = true then t.movePos p Q else t) :=
    fun t clear Q => by
      split
      · exact t.movePos_tranquil p Q
      · exact .refl t
  unfold State.heldAdvance
  exact (hheld _).trans (hmoved _ _ _)

theorem State.advance_tranquil (s : State) (p : Fin 16) : s.Tranquil (s.advance p) := by
  unfold State.advance
  dsimp only
  split
  · exact .refl s
  · split
    · exact s.heldAdvance_tranquil p _
    · split
      · exact .refl s
      · exact s.heldAdvance_tranquil p _
    · exact s.movePos_tranquil p _
    · exact s.movePos_tranquil p _
    · exact s.movePos_tranquil p _
    · exact .refl s
    · exact .refl s

theorem Program.endSample_tranquil (x : Program) : x.Tranquil x.endSample := by
  refine (Program.Tranquil.conv x (c := { x.conv with fixed := none })).trans (.play _ ?_ ?_ ?_ ?_)
  · exact (apply_ite Play.state _ _ _).trans (ite_self _)
  · exact (apply_ite Play.target _ _ _).trans (ite_self _)
  · exact (apply_ite Play.elapsed _ _ _).trans (ite_self _)
  · dsimp only
    split <;> exact id

theorem State.sampleProgram_tranquil (s : State) (p : Fin 16) : s.Tranquil (s.sampleProgram p).2 := by
  unfold State.sampleProgram
  dsimp only
  exact State.Tranquil.trans (.setProgram (s.soundProgram_tranquil p))
    ((State.advance_tranquil _ p).trans (.setProgram (Program.endSample_tranquil _)))

theorem State.samplePrograms_tranquil (ps : List (Fin 16)) (s : State) : s.Tranquil (s.samplePrograms ps).2 := by
  induction ps generalizing s with
  | nil => exact .refl s
  | cons p rest ih =>
    unfold State.samplePrograms
    dsimp only
    exact (s.sampleProgram_tranquil p).trans (ih _)

theorem stepCrossfade_le (x : Nat) (crossed : Bool) (h : x ≤ 960) : stepCrossfade x crossed ≤ 960 := by
  unfold stepCrossfade
  split
  · split
    · assumption
    · exact h
  · exact (Nat.sub_le _ _).trans h

theorem State.laneSample_x (s : State) (outs : List (Fin 16 × List (Int × Bool))) (e : Fin 32) (x : EgressLane)
    (h : x.x ≤ 960) : (s.laneSample outs e x).x ≤ 960 := by
  unfold State.laneSample
  dsimp only
  split
  · exact h
  · split <;> exact stepCrossfade_le _ _ h

/-- No rule is owed with a place free (R144). -/
def State.owedFull (s : State) : Prop := ∀ r, (s.record r).owed = true → 16 ≤ s.alarm.notices.length

theorem State.Orderly.owedFull {s t : State} (h : s.Orderly t) (hs : s.owedFull) : t.owedFull := fun r hr => by
  rw [h.record] at hr
  rw [h.notices]
  exact hs r hr

theorem State.owedFull.owedOk {s : State} (h : s.owedFull) : s.owedOk := fun r hr => .inl (h r hr)

theorem State.sampleHouse_keeps (s : State) : s.KeepsCore s.sampleHouse ∧ (s.owedFull → s.sampleHouse.owedFull) := by
  unfold State.sampleHouse
  dsimp only
  generalize hu : ({ s with house := s.house.step, egress := { s.egress with
    sampleFrom := some s.egress.outbox.length } } : State) = u
  have hstep : s.KeepsCore u := by
    subst hu
    exact State.Elsewhere.keepsCore rfl id rfl
  have hstepFull : s.owedFull → u.owedFull := by
    subst hu
    exact id
  have hsampled := (u.samplePrograms_tranquil (List.finRange 16)).handed
  generalize u.samplePrograms (List.finRange 16) = outs at hsampled ⊢
  have hlanes : outs.2.Handed (outs.2.mapEgressLanes fun e x => outs.2.laneSample outs.1 e x) :=
    .mapEgressLanes fun e x => outs.2.laneSample_x outs.1 e x
  have hall := hsampled.trans (hlanes.trans (State.Orderly.followed (.refl _)))
  exact ⟨hstep.trans hall.keeps.toKeepsCore, hall.toOrderly.owedFull ∘ hstepFull⟩

end Sys2Proof.Machine
end

section
/-! SUPPORT. Every step keeps every invariant: the part's own steps, what settles at once, and each command (Chapters 1 to
10). -/

namespace Sys2Proof.Machine

/-! ### The part's own steps -/

/-- The step is due, as its command's rule says. -/
def State.ownDue (s : State) : Instr → Prop
  | .laneStalled l => s.stallDue l = true
  | .laneLost l => s.lostDue l = true
  | .recordRaised r => s.moveDue r .raise = true
  | .countWindowEnd r => s.moveDue r .windowEnd = true
  | .releaseEnd r => s.moveDue r .release = true
  | .fillReached p => s.fillReachedDue p = true
  | .warmUpEnd p => s.warmUpEndDue p = true
  | .resyncFlush p => s.flushDue p = true
  | .parkingEnd p => s.parkingDue p = true
  | .jumpFadeOutEnd p => s.fadeOutDue p = true
  | .resetOrderDone => s.resetReplyDue = true
  | _ => True

theorem State.due_of_moveDue {s : State} {r : Fin 64} {m : DueMove} (h : s.moveDue r m = true) :
    (s.record r).due = some m := beq_iff_eq.mp (Bool.and_eq_true_iff.mp h).1

theorem State.playState_of_due {s : State} {p : Fin 16} {st : PlayState} {b : Bool}
    (h : (s.playState p == st && b) = true) : s.playState p = st := beq_iff_eq.mp (Bool.and_eq_true_iff.mp h).1

theorem State.ownStep_keeps {s : State} {i : Instr} (h : s.ownDue i) : s.Keeps (s.ownStep i) := by
  cases i with
  | receiverLocked => exact s.setRx_keeps id
  | referenceLock => exact s.setHouse_keeps id
  | laneStalled l =>
    have hl := beq_iff_eq.mp (Bool.and_eq_true_iff.mp h).1
    exact (State.stallLane_handed (by rw [hl]; exact LaneStatus.noConfusion)).keeps
  | laneLost l =>
    refine (State.loseLane_handed fun hparked => ?_).keeps
    rw [State.ownDue, State.lostDue, hparked] at h
    cases h
  | pictureTimeout p => exact (s.picturePresent_tranquil p).handed.keeps
  | recordRaised r => exact State.raiseRecord_keeps (State.due_of_moveDue h)
  | countWindowEnd r => exact State.endWindow_keeps (State.due_of_moveDue h)
  | releaseEnd r => exact State.releaseRecord_keeps (State.due_of_moveDue h)
  | autoRevert p => exact (s.revertNow_handed p).keeps
  | fillReached p => exact (State.enterWarming_handed (State.playState_of_due h)).keeps
  | warmUpEnd p =>
    exact (State.endWarmUp_handed (by rw [State.playState_of_due h]; exact PlayState.noConfusion)).keeps
  | resyncFlush p =>
    exact (State.resyncFlush_handed (by rw [State.playState_of_due h]; exact PlayState.noConfusion)).keeps
  | parkingEnd p =>
    have hdue : s.parkingDue p = true := h
    have hstep : s.ownStep (.parkingEnd p) = s.endParking p := by rw [State.ownStep]
    rw [hstep]
    exact State.endParking_keeps hdue
  | jumpFadeOutEnd p =>
    exact (State.fadeOutEnd_handed (beq_iff_eq.mp
      (Bool.and_eq_true_iff.mp (Bool.and_eq_true_iff.mp h).1).2)).keeps
  | jumpRelease p => exact (s.jumpRelease_handed p).keeps
  | autoStart => exact s.applyAutoStart_keeps
  | resetBegin straps => exact s.afterOrder_keeps straps
  | resetOrderDone => exact State.answerReset_keeps h
  | _ => exact .refl s

/-- The first step due of a range is one that is due. -/
theorem State.ownDue_firstDue {s : State} {n : Nat} {due : Fin n → Bool} {command : Fin n → Instr} {i : Instr}
    (hdue : ∀ k, due k = true → s.ownDue (command k)) (h : firstDue due command = some i) : s.ownDue i := by
  unfold firstDue at h
  obtain ⟨k, hk, rfl⟩ := Option.map_eq_some_iff.mp h
  exact hdue k (List.find?_some hk)

theorem State.ownDue_or {s : State} {a b : Option Instr} {i : Instr} (ha : a = some i → s.ownDue i)
    (hb : b = some i → s.ownDue i) (h : a.or b = some i) : s.ownDue i :=
  (Option.or_eq_some_iff.mp h).elim ha fun hboth => hb hboth.2

theorem State.ownDue_urgentInput {s : State} {i : Instr} (h : s.urgentInput = some i) : s.ownDue i := by
  unfold State.urgentInput at h
  split at h
  · cases h
    trivial
  · split at h
    · cases h
      trivial
    · exact State.ownDue_or (State.ownDue_firstDue fun _ => id) (State.ownDue_or (State.ownDue_firstDue fun _ => id)
        (State.ownDue_firstDue (command := .pictureTimeout) fun _ _ => trivial)) h

theorem State.ownDue_urgentAlarm {s : State} {i : Instr} (h : s.urgentAlarm = some i) : s.ownDue i :=
  State.ownDue_or (State.ownDue_firstDue (command := .recordRaised) fun _ => id)
    (State.ownDue_or (State.ownDue_firstDue (command := .countWindowEnd) fun _ => id)
      (State.ownDue_or (State.ownDue_firstDue (command := .releaseEnd) fun _ => id)
        (State.ownDue_firstDue (command := .autoRevert) fun _ _ => trivial))) h

theorem State.ownDue_urgentProgram {s : State} {i : Instr} (h : s.urgentProgram = some i) : s.ownDue i :=
  State.ownDue_or (State.ownDue_firstDue (command := .fillReached) fun _ => id)
    (State.ownDue_or (State.ownDue_firstDue (command := .warmUpEnd) fun _ => id)
      (State.ownDue_or (State.ownDue_firstDue (command := .resyncFlush) fun _ => id)
        (State.ownDue_or (State.ownDue_firstDue (command := .parkingEnd) fun _ => id)
          (State.ownDue_or (State.ownDue_firstDue (command := .jumpFadeOutEnd) fun _ => id)
            (State.ownDue_firstDue (command := .jumpRelease) fun _ _ => trivial))))) h

theorem State.ownDue_urgentReset {s : State} {i : Instr} (h : s.urgentReset = some i) : s.ownDue i := by
  unfold State.urgentReset at h
  split at h
  · cases h
    trivial
  · split at h
    · cases h
      trivial
    · split at h
      · next hdue =>
        cases h
        exact hdue
      · cases h

/-- The step that is taken next is due. -/
theorem State.ownDue_urgentStep {s : State} {i : Instr} (h : s.urgentStep = some i) : s.ownDue i := by
  unfold State.urgentStep at h
  split at h
  · exact State.ownDue_or State.ownDue_urgentInput (State.ownDue_or State.ownDue_urgentAlarm
      (State.ownDue_or State.ownDue_urgentProgram State.ownDue_urgentReset)) h
  · cases h

/-! ### Settling -/

theorem State.takeOwnSteps_invariants (n : Nat) (s : State) : s.Keeps (s.takeOwnSteps n) := by
  induction n generalizing s with
  | zero => exact .refl s
  | succ n ih =>
    unfold State.takeOwnSteps
    split
    · next h => exact (State.ownStep_keeps (State.ownDue_urgentStep h)).trans (ih _)
    · exact .refl s

theorem State.settleOwn_keeps (s : State) : s.Keeps s.settleOwn := State.takeOwnSteps_invariants settleFuel s

theorem State.takeUrgent_invariants (n : Nat) (s : State) : s.Keeps (s.takeUrgent n) := by
  induction n generalizing s with
  | zero => exact .refl s
  | succ n ih =>
    unfold State.takeUrgent
    split
    · next h => exact (State.ownStep_keeps (State.ownDue_urgentStep h)).trans (ih _)
    · split
      · next h => exact (State.carryOut_takeHead_keeps h).trans (ih _)
      · exact .refl s

theorem State.settle_keeps (s : State) : s.Keeps s.settle := State.takeUrgent_invariants settleFuel s

theorem State.settleClock_keeps (s : State) : s.Keeps s.settleClock := by
  have ticked : ∀ s : State, s.Keeps (if s.tickDue = true then s.tickAlarm.settle else s) := fun s => by
    split
    · exact s.tickAlarm_keeps.trans (State.settle_keeps _)
    · exact .refl s
  have warmed : ∀ s : State, s.Keeps (if s.warmUpDue = true then s.endEgressWarmUp.settle else s) := fun s => by
    split
    · exact s.endEgressWarmUp_keeps.trans (State.settle_keeps _)
    · exact .refl s
  have started : ∀ s : State, s.Keeps (if s.frameDue = true then s.startFrame.settle else s) := fun s => by
    split
    · next h => exact (State.startFrame_keeps h).trans (State.settle_keeps _)
    · exact .refl s
  unfold State.settleClock
  exact (ticked s).trans ((warmed _).trans ((started _).trans (State.promoteAll_noticed _).keeps))

/-- A house sample begins with no rule owed while a place is free (R144). -/
theorem State.houseSample_keeps (s : State) : s.Keeps s.settleClock.sampleHouse := by
  obtain ⟨hcore, hfull⟩ := s.settleClock.sampleHouse_keeps
  refine ⟨s.settleClock_keeps.toKeepsCore.trans hcore, fun _ _ => (hfull ?_).owedOk⟩
  exact fun r => State.promoteAll_owed _ r

/-! ### Each form of a command -/

theorem State.ownCommand_keeps {s : State} {due : Bool} {effect : State → State}
    (h : due = true → s.Keeps (effect s)) : s.Keeps (s.ownCommand due effect) := by
  unfold State.ownCommand
  split
  · next hdue => exact h (Bool.and_eq_true_iff.mp hdue).2
  · exact .refl s

theorem State.outside_keeps {s : State} {effect : State → State} (h : ∀ t : State, t.Keeps (effect t)) :
    s.Keeps (s.outside effect) := by
  unfold State.outside
  split
  · exact s.settle_keeps.trans (h _)
  · exact .refl s

theorem State.clockCommand_keeps {s : State} {due : State → Bool} {effect : State → State}
    (h : ∀ t : State, due t = true → t.Keeps (effect t)) : s.Keeps (s.clockCommand due effect) := by
  refine State.outside_keeps fun t => ?_
  split
  · next hdue => exact h t hdue
  · exact .refl t

theorem State.orderCommand_keeps {s : State} {row : Instr} {effect : State → Order → State}
    (h : ∀ (t : State) (o : Order), o.row = row → effect t o = t.carryOut o) : s.Keeps (s.orderCommand row effect) := by
  refine s.settleOwn_keeps.trans ?_
  unfold State.orderCommand
  dsimp only
  split
  · next o hnext =>
    split
    · next hrow =>
      rw [h _ o hrow]
      exact State.carryOut_takeHead_keeps hnext
    · exact .refl _
  · exact .refl _

/-- The outcome is a next state that keeps every invariant, or the machine stops. -/
def State.Advances (s : State) (x : Host.Outcome State Fault Refusal) : Prop := ∀ t, x = .next t → s.Keeps t

theorem State.advances_next {s t : State} (h : s.Keeps t) : s.Advances (.next t) := fun _ e =>
  Host.Outcome.next.inj e ▸ h

theorem State.slotCommand_advances {s : State} {slot : Slot} {row : SlotRow} {deliver : State → State}
    (h : slot.length = 84 → ∀ t : State, t.slotRow slot = row → t.Keeps (deliver t)) :
    s.Advances (s.slotCommand slot row deliver) := by
  unfold State.slotCommand
  split
  · next hlength => exact State.advances_next (State.outside_keeps fun _ => State.takeSlot_keeps (h hlength))
  · exact fun _ e => nomatch e

end Sys2Proof.Machine
end

section
/-! SUPPORT. Every command and every step keeps every invariant, and the obligations on the invariants. -/

namespace Sys2Proof.Machine

/-! ### Every command -/

section Forms
variable {s : State}

/-- A step of the part's own, named by the sender. -/
theorem State.advances_own (i : Instr) {due : Bool} (h : due = true → s.ownDue i) :
    s.Advances (.next (s.ownCommand due fun t => t.ownStep i)) :=
  State.advances_next (State.ownCommand_keeps fun hdue => State.ownStep_keeps (h hdue))

/-- An order's row is what the order of that row carries out. -/
theorem State.advances_order {row : Instr} {effect : State → Order → State}
    (h : ∀ (t : State) (o : Order), o.row = row → effect t o = t.carryOut o) :
    s.Advances (.next (s.orderCommand row effect)) := State.advances_next (State.orderCommand_keeps h)

end Forms

theorem exec_powerOnResetEnd_advances (s : State) (straps : BitVec 6) : s.Advances (execPowerOnResetEnd straps s) := by
  refine State.advances_next ?_
  split
  · exact s.afterPower_keeps straps
  · exact .refl s

theorem exec_resetLineLow_advances (s : State) : s.Advances (execResetLineLow s) := by
  refine State.advances_next ?_
  split
  · exact .refl s
  · exact s.lineFalls_keeps

theorem exec_resetLineHigh_advances (s : State) (straps : BitVec 6) : s.Advances (execResetLineHigh straps s) := by
  refine State.advances_next ?_
  split
  · exact s.lineRises_keeps straps
  · exact .refl s

theorem House.cycle_period (h : House) (good : Bool) :
    (h.cycle good).warmedUp = h.warmedUp ∧ (h.cycle good).toFrame = h.toFrame := by
  unfold House.cycle
  split <;> exact ⟨rfl, rfl⟩

theorem exec_referenceCycle_advances (s : State) (good : Bool) : s.Advances (execReferenceCycle good s) := by
  refine State.advances_next (State.outside_keeps fun t => ?_)
  split
  · obtain ⟨hwarm, hframe⟩ := t.house.cycle_period good
    exact t.setHouse_keeps fun h => by rwa [hwarm, hframe]
  · exact .refl t

theorem exec_advances (i : Instr) (s : State) : s.Advances (exec i s) := by
  cases i with
  | powerOn => exact State.advances_next s.powerRises_keeps
  | powerOnResetEnd straps => exact exec_powerOnResetEnd_advances s straps
  | resetLineLow => exact exec_resetLineLow_advances s
  | resetLineHigh straps => exact exec_resetLineHigh_advances s straps
  | lineFault => exact State.advances_next (State.outside_keeps fun t => t.setRx_keeps Receiver.fault_inRange)
  | syncFound position head =>
    exact State.advances_next (State.outside_keeps fun t => t.setRx_keeps (Receiver.found_inRange position head))
  | checkSync head => exact State.advances_next (State.outside_keeps fun t => t.setRx_keeps (Receiver.check_inRange head))
  | lockedSync head => exact State.advances_next (State.outside_keeps fun t => t.setRx_keeps (Receiver.examine_inRange head))
  | rejectedSlot slot => exact State.slotCommand_advances fun _ t _ => t.setRx_keeps (Receiver.reject_inRange _)
  | audioParcel slot => exact State.slotCommand_advances fun _ t _ => (t.deliverAudio_handed _).keeps
  | cueParcel slot => exact State.slotCommand_advances fun _ t _ => (t.deliverCue_tranquil _).handed.keeps
  | pictureReport slot => exact State.slotCommand_advances fun _ t _ => (t.deliverPicture_tranquil _).handed.keeps
  | orderParcel slot => exact State.slotCommand_advances fun _ t _ => t.deliverOrder_keeps _
  | passthroughParcel slot =>
    exact State.slotCommand_advances fun hlength t hrow =>
      t.passThrough_keeps ((State.slotBytes_of_passthrough hrow).trans hlength)
  | referenceCycle good => exact exec_referenceCycle_advances s good
  | houseSample => exact State.advances_next (State.outside_keeps fun t => t.houseSample_keeps)
  | alarmTick => exact State.advances_next (State.clockCommand_keeps fun t _ => t.tickAlarm_keeps)
  | egressWarmUpEnd => exact State.advances_next (State.clockCommand_keeps fun t _ => t.endEgressWarmUp_keeps)
  | egressFrameStart => exact State.advances_next (State.clockCommand_keeps fun t h => State.startFrame_keeps h)
  | receiverLocked => exact State.advances_own .receiverLocked fun _ => trivial
  | referenceLock => exact State.advances_own .referenceLock fun _ => trivial
  | laneStalled l => exact State.advances_own (.laneStalled l) id
  | laneLost l => exact State.advances_own (.laneLost l) id
  | pictureTimeout p => exact State.advances_own (.pictureTimeout p) fun _ => trivial
  | recordRaised r => exact State.advances_own (.recordRaised r) id
  | countWindowEnd r => exact State.advances_own (.countWindowEnd r) id
  | releaseEnd r => exact State.advances_own (.releaseEnd r) id
  | autoRevert p => exact State.advances_own (.autoRevert p) fun _ => trivial
  | fillReached p => exact State.advances_own (.fillReached p) id
  | warmUpEnd p => exact State.advances_own (.warmUpEnd p) id
  | resyncFlush p => exact State.advances_own (.resyncFlush p) id
  | parkingEnd p => exact State.advances_own (.parkingEnd p) id
  | jumpFadeOutEnd p => exact State.advances_own (.jumpFadeOutEnd p) id
  | jumpRelease p => exact State.advances_own (.jumpRelease p) fun _ => trivial
  | autoStart => exact State.advances_own .autoStart fun _ => trivial
  | resetBegin straps => exact State.advances_own (.resetBegin straps) fun _ => trivial
  | resetOrderDone => exact State.advances_own .resetOrderDone id
  | unknownOrder => exact State.advances_order fun t o h => by rw [State.carryOut, h]
  | writeLane => exact State.advances_order fun t o h => by rw [State.carryOut, h]
  | writeProgram => exact State.advances_order fun t o h => by rw [State.carryOut, h]
  | writeProfile => exact State.advances_order fun t o h => by rw [State.carryOut, h]
  | writeWeighting => exact State.advances_order fun t o h => by rw [State.carryOut, h]
  | writeCoefficients => exact State.advances_order fun t o h => by rw [State.carryOut, h]
  | writeBandSet => exact State.advances_order fun t o h => by rw [State.carryOut, h]
  | writeRule => exact State.advances_order fun t o h => by rw [State.carryOut, h]
  | writeEgressMap => exact State.advances_order fun t o h => by rw [State.carryOut, h]
  | writeSettings => exact State.advances_order fun t o h => by rw [State.carryOut, h]
  | readLane => exact State.advances_order fun t o h => by rw [State.carryOut, h]
  | readProgram => exact State.advances_order fun t o h => by rw [State.carryOut, h]
  | readProfile => exact State.advances_order fun t o h => by rw [State.carryOut, h]
  | readWeighting => exact State.advances_order fun t o h => by rw [State.carryOut, h]
  | readCoefficients => exact State.advances_order fun t o h => by rw [State.carryOut, h]
  | readBandSet => exact State.advances_order fun t o h => by rw [State.carryOut, h]
  | readRule => exact State.advances_order fun t o h => by rw [State.carryOut, h]
  | readEgressMap => exact State.advances_order fun t o h => by rw [State.carryOut, h]
  | readSettings => exact State.advances_order fun t o h => by rw [State.carryOut, h]
  | statusPart => exact State.advances_order fun t o h => by rw [State.carryOut, h]
  | statusLane => exact State.advances_order fun t o h => by rw [State.carryOut, h]
  | statusRule => exact State.advances_order fun t o h => by rw [State.carryOut, h]
  | statusProgramPlay => exact State.advances_order fun t o h => by rw [State.carryOut, h]
  | statusProgramServo => exact State.advances_order fun t o h => by rw [State.carryOut, h]
  | statusProgramMeter => exact State.advances_order fun t o h => by rw [State.carryOut, h]
  | statusProgramGain => exact State.advances_order fun t o h => by rw [State.carryOut, h]
  | statusProgramChangeover => exact State.advances_order fun t o h => by rw [State.carryOut, h]
  | statusProgramCounters => exact State.advances_order fun t o h => by rw [State.carryOut, h]
  | start => exact State.advances_order fun t o h => by rw [State.carryOut, h]
  | park => exact State.advances_order fun t o h => by rw [State.carryOut, h]
  | delay => exact State.advances_order fun t o h => by rw [State.carryOut, h]
  | changeover => exact State.advances_order fun t o h => by rw [State.carryOut, h]
  | acknowledge => exact State.advances_order fun t o h => by rw [State.carryOut, h]
  | cue => exact State.advances_order fun t o h => by rw [State.carryOut, h]
  | reset => exact State.advances_order fun t o h => by rw [State.carryOut, h]

/-! ### Every step -/

/-- The queue of commands is none of what the invariants speak of. -/
def State.withCommands (s : State) (rest : List Instr) : State := { s with pending := rest }

/-- A step keeps every invariant, the command taken from the queue beforehand. -/
theorem step_keeps {s t : State} (h : step s = .next t) : ∃ rest, (s.withCommands rest).Keeps t := by
  unfold step at h
  split at h
  · exact ⟨s.pending, Host.Outcome.next.inj h ▸ .refl s⟩
  · next c rest _ => exact ⟨rest, exec_advances c _ t h⟩

/-- Settles O54: every step keeps every invariant, the form of the memory among them. -/
theorem stepsKeepMemory : Obligations.StepsKeepMemory := fun s _ hs h =>
  let ⟨rest, hkeeps⟩ := step_keeps h
  hkeeps.memory (show (s.withCommands rest).memOk from hs)

/-- Settles O55: the invariants of the queues are together one of those that every step keeps. -/
theorem stepsKeepQueues : Obligations.StepsKeepQueues := fun s t hqueues hreplies hparcels hnotices h =>
  let ⟨rest, hkeeps⟩ := step_keeps h
  (State.queuesOk_iff t).mp
    (hkeeps.queues ((State.queuesOk_iff (s.withCommands rest)).mpr ⟨hqueues, hreplies, hparcels, hnotices⟩))

/-- Settles O56: the ranges of positions, trims and counters are together one of the invariants that every step keeps. -/
theorem stepsKeepRanges : Obligations.StepsKeepRanges := fun s t hpositions htrims hcounters h =>
  let ⟨rest, hkeeps⟩ := step_keeps h
  (State.rangesOk_iff t).mp
    (hkeeps.ranges ((State.rangesOk_iff (s.withCommands rest)).mpr ⟨hpositions, htrims, hcounters⟩))

/-- Settles O57: every step keeps the lane table and the egress map without clashes. -/
theorem stepsKeepTables : Obligations.StepsKeepTables := fun s _ hlanes hslots h =>
  let ⟨rest, hkeeps⟩ := step_keeps h
  ⟨hkeeps.lanes (show (s.withCommands rest).lanesOk from hlanes),
    hkeeps.slots (show (s.withCommands rest).slotsOk from hslots)⟩

/-- Settles O58: every step keeps started lanes those of started programs, and their regions apart, each by itself. -/
theorem stepsKeepStarted : Obligations.StepsKeepStarted := fun s _ h =>
  let ⟨rest, hkeeps⟩ := step_keeps h
  ⟨fun hs => hkeeps.started (show (s.withCommands rest).startedOk from hs),
    fun hs => hkeeps.apart (show (s.withCommands rest).ringsApart from hs)⟩

/-- Settles O59: every step keeps the hold counts true, the due moves strengthening the induction. -/
theorem stepsKeepHolds : Obligations.StepsKeepHolds := fun s _ hs h =>
  let ⟨rest, hkeeps⟩ := step_keeps h
  hkeeps.holds (show (s.withCommands rest).holdsOk from hs)

/-- Settles O60: every step hands on what lines and fade targets are derived from. -/
theorem stepsKeepDerived : Obligations.StepsKeepDerived := fun s _ hholds hlines hfades h =>
  let ⟨rest, hkeeps⟩ := step_keeps h
  hkeeps.derived (show (s.withCommands rest).holdsOk from hholds) (show (s.withCommands rest).linesOk from hlines)
    (show (s.withCommands rest).fadesOk from hfades)

/-! ### Every command completes -/

theorem State.slotCommand_completes {s : State} {slot : Slot} (h : slot.length = 84) (row : SlotRow)
    (deliver : State → State) : ∃ t, s.slotCommand slot row deliver = .next t :=
  ⟨_, if_pos h⟩

theorem State.slotCommand_of_malformed {s : State} {slot : Slot} (h : ¬ slot.length = 84) (row : SlotRow)
    (deliver : State → State) : s.slotCommand slot row deliver = .fault .malformedSlot := if_neg h

theorem exec_completes {c : Instr} (s : State) (h : c.wf = true) : ∃ t, exec c s = .next t := by
  cases c with
  | rejectedSlot slot => exact State.slotCommand_completes (beq_iff_eq.mp h) _ _
  | audioParcel slot => exact State.slotCommand_completes (beq_iff_eq.mp h) _ _
  | cueParcel slot => exact State.slotCommand_completes (beq_iff_eq.mp h) _ _
  | pictureReport slot => exact State.slotCommand_completes (beq_iff_eq.mp h) _ _
  | orderParcel slot => exact State.slotCommand_completes (beq_iff_eq.mp h) _ _
  | passthroughParcel slot => exact State.slotCommand_completes (beq_iff_eq.mp h) _ _
  | _ => exact ⟨_, rfl⟩

theorem exec_of_malformed {c : Instr} (s : State) (h : c.wf = false) : exec c s = .fault .malformedSlot := by
  cases c with
  | rejectedSlot slot => exact State.slotCommand_of_malformed (beq_eq_false_iff_ne.mp h) _ _
  | audioParcel slot => exact State.slotCommand_of_malformed (beq_eq_false_iff_ne.mp h) _ _
  | cueParcel slot => exact State.slotCommand_of_malformed (beq_eq_false_iff_ne.mp h) _ _
  | pictureReport slot => exact State.slotCommand_of_malformed (beq_eq_false_iff_ne.mp h) _ _
  | orderParcel slot => exact State.slotCommand_of_malformed (beq_eq_false_iff_ne.mp h) _ _
  | passthroughParcel slot => exact State.slotCommand_of_malformed (beq_eq_false_iff_ne.mp h) _ _
  | _ => exact Bool.noConfusion h

/-- Settles O2: only a slot can stop a command, and what every command keeps holds the queue of commands too. -/
theorem commandsCompleteAndLeaveQueue : Obligations.CommandsCompleteAndLeaveQueue := fun c s =>
  ⟨fun hwf =>
    let ⟨t, ht⟩ := exec_completes s hwf
    ⟨t, ht, (exec_advances c s t ht).commands⟩,
  exec_of_malformed s⟩

/-- Settles O1: both are the equations of a step. -/
theorem frontCommandRuns : Obligations.FrontCommandRuns :=
  ⟨fun _ _ _ => rfl, fun s h => by rw [step, h]⟩

end Sys2Proof.Machine
end

section
/-! SUPPORT. The three resets as they begin and as they leave the part (R11, R53, R141, R148, R149, R164, R175, R180). -/

namespace Sys2Proof.Machine

/-! ### The lines with every record CLEAR -/

/-- With every record CLEAR, driving the lines leaves MAJOR active in strap fault alone (R12, R141). -/
theorem State.driveLines_of_clear {s : State} (h : ∀ r, (s.record r).state = .clear) :
    s.driveLines =
      { s with alarm := { s.alarm with majorLine := s.strapFault && s.running, minorLine := false } } := by
  have hline : ∀ severity, s.lineActive severity = (s.strapFault && s.running && severity == .major) := fun severity => by
    cases hrun : s.running with
    | true => rw [State.lineActive_of_clear hrun h, Bool.and_true]
    | false => rw [State.lineActive, hrun, Bool.false_and, Bool.and_false, Bool.false_and]
  rw [State.driveLines, hline, hline]
  simp

theorem State.record_of_default {s : State} (h : s.alarm = {}) (r : Fin 64) : (s.record r).state = .clear := by
  rw [State.record, h]
  simp

/-! ### The part as a reset leaves it -/

theorem State.afterPower_eq (s : State) (straps : BitVec 6) : s.afterPower straps =
    { pending := s.pending, resetLow := s.resetLow, straps := straps, node := straps
      alarm := { majorLine := straps == 0 && !s.resetLow } } := by
  rw [State.afterPower, State.driveLines_of_clear (State.record_of_default rfl)]
  rfl

theorem State.afterLine_eq (s : State) (straps : BitVec 6) : s.afterLine straps =
    { pending := s.pending, straps := straps, node := straps, tables := s.tables
      house := { reference := startReference s.select, trimmed := s.house.trimmed, warmUpLeft := shortWarmUp }
      egress := { map := s.tables.map }, orders := { cause := .line }, alarm := { majorLine := straps == 0 } } := by
  rw [State.afterLine, State.driveLines_of_clear (State.record_of_default rfl)]
  simp [State.strapFault, State.running]

theorem startReference_eq (select : RefSelect) :
    startReference select = if select = .external then .seeking else .locked := by
  cases select <;> rfl

/-- Settles O4: the power-on reset leaves every default of the model, and the lines are driven from CLEAR records. -/
theorem powerOnLeavesPowerOnValues : Obligations.PowerOnLeavesPowerOnValues := by
  intro s straps hpower
  have hrun : exec (.powerOnResetEnd straps) s = .next (s.afterPower straps) := by
    simp only [exec, execPowerOnResetEnd, hpower, if_true]
  rw [hrun, State.afterPower_eq]
  rfl

/-- Settles O5: the line reset leaves the defaults of every block, the tables and the trim. -/
theorem lineResetKeepsTables : Obligations.LineResetKeepsTables := by
  intro s straps hlow hpower
  have hrun : exec (.resetLineHigh straps) s = .next (s.afterLine straps) := by
    simp only [exec, execResetLineHigh, hlow, if_true, State.lineRises, hpower, Bool.false_eq_true, if_false]
  rw [hrun, State.afterLine_eq, startReference_eq]
  rfl

/-- Settles O6: the reset of a RESET order is the line reset with the cause, the frame on the trunk and the pending
order kept. -/
theorem orderResetKeepsPendingOrder : Obligations.OrderResetKeepsPendingOrder := by
  intro s straps hrunning hunit hdone hreplies
  have hdue : s.resetDue = true := by
    rw [State.resetDue, hunit, hdone, hreplies]
    rfl
  have hrun : exec (.resetBegin straps) s = .next (s.afterOrder straps) :=
    congrArg Host.Outcome.next (State.ownCommand_of_due hrunning hdue _)
  rw [hrun, State.afterOrder, State.afterLine_eq, startReference_eq]
  rfl

/-! ### While a reset is in progress -/

theorem State.urgentStep_of_reset {s : State} (h : s.running = false) : s.urgentStep = none := by
  rw [State.urgentStep, h, if_neg Bool.false_ne_true]

theorem State.settleOwn_of_reset {s : State} (h : s.running = false) : s.settleOwn = s := by
  simp only [State.settleOwn, settleFuel, State.takeOwnSteps, State.urgentStep_of_reset h]

theorem State.nextOrder_of_reset {s : State} (h : s.running = false) : s.nextOrder = none := by
  have hready : s.unitReady = false := by
    simp only [State.unitReady, h, Bool.false_and]
  rw [State.nextOrder, hready, if_neg Bool.false_ne_true]

section Held
variable {s : State} (h : s.running = false)
include h

theorem State.ownCommand_of_reset (due : Bool) (effect : State → State) : s.ownCommand due effect = s := by
  rw [State.ownCommand, h, Bool.false_and, if_neg Bool.false_ne_true]

theorem State.clockCommand_of_reset (due : State → Bool) (effect : State → State) : s.clockCommand due effect = s :=
  State.outside_of_reset h _

theorem State.orderCommand_of_reset (row : Instr) (effect : State → Order → State) : s.orderCommand row effect = s := by
  simp only [State.orderCommand, State.settleOwn_of_reset h, State.nextOrder_of_reset h]

theorem State.slotCommand_of_reset {slot : Slot} (hslot : slot.length = 84) (row : SlotRow) (deliver : State → State) :
    s.slotCommand slot row deliver = .next s := by
  rw [State.slotCommand, if_pos hslot, State.outside_of_reset h]

end Held


/-- While a reset is in progress a step of the part's own, something from outside, a step on the house clock and an
order's step all leave the part as it stands (R14, R180). -/
theorem exec_of_reset {c : Instr} {s : State} (h : s.running = false) (hwf : c.wf = true) (hpower : c ≠ .powerOn)
    (hpowerEnd : ∀ straps, c ≠ .powerOnResetEnd straps) (hlow : c ≠ .resetLineLow)
    (hhigh : ∀ straps, c ≠ .resetLineHigh straps) : exec c s = .next s := by
  have own : ∀ due effect, Host.Outcome.next (s.ownCommand due effect) = (.next s : Host.Outcome State Fault Refusal) :=
    fun due effect => congrArg Host.Outcome.next (State.ownCommand_of_reset h due effect)
  have outside : ∀ effect, Host.Outcome.next (s.outside effect) = (.next s : Host.Outcome State Fault Refusal) :=
    fun effect => congrArg Host.Outcome.next (State.outside_of_reset h effect)
  cases c with
  | powerOn => exact absurd rfl hpower
  | powerOnResetEnd straps => exact absurd rfl (hpowerEnd straps)
  | resetLineLow => exact absurd rfl hlow
  | resetLineHigh straps => exact absurd rfl (hhigh straps)
  | rejectedSlot slot => exact State.slotCommand_of_reset h (beq_iff_eq.mp hwf) _ _
  | audioParcel slot => exact State.slotCommand_of_reset h (beq_iff_eq.mp hwf) _ _
  | cueParcel slot => exact State.slotCommand_of_reset h (beq_iff_eq.mp hwf) _ _
  | pictureReport slot => exact State.slotCommand_of_reset h (beq_iff_eq.mp hwf) _ _
  | orderParcel slot => exact State.slotCommand_of_reset h (beq_iff_eq.mp hwf) _ _
  | passthroughParcel slot => exact State.slotCommand_of_reset h (beq_iff_eq.mp hwf) _ _
  | lineFault => exact outside _
  | syncFound position head => exact outside _
  | checkSync head => exact outside _
  | lockedSync head => exact outside _
  | referenceCycle good => exact outside _
  | houseSample => exact outside _
  | egressWarmUpEnd => exact outside _
  | alarmTick => exact outside _
  | egressFrameStart => exact outside _
  | receiverLocked => exact own _ _
  | referenceLock => exact own _ _
  | fillReached p => exact own _ _
  | warmUpEnd p => exact own _ _
  | resyncFlush p => exact own _ _
  | parkingEnd p => exact own _ _
  | jumpFadeOutEnd p => exact own _ _
  | jumpRelease p => exact own _ _
  | autoStart => exact own _ _
  | resetOrderDone => exact own _ _
  | laneStalled l => exact own _ _
  | laneLost l => exact own _ _
  | pictureTimeout p => exact own _ _
  | recordRaised r => exact own _ _
  | countWindowEnd r => exact own _ _
  | releaseEnd r => exact own _ _
  | autoRevert p => exact own _ _
  | resetBegin straps => exact own _ _
  | _ => exact congrArg Host.Outcome.next (State.orderCommand_of_reset h _ _)

/-- Settles O3: each reset begins by silencing the part alone, and while one is in progress no form of a command acts. -/
theorem resetsHoldThePart : Obligations.ResetsHoldThePart := by
  refine ⟨fun s => ⟨rfl, fun hhigh => ?_⟩, fun c s => exec_of_reset⟩
  have hrun : exec .resetLineLow s = .next s.lineFalls := by
    simp only [exec, execResetLineLow, hhigh, Bool.false_eq_true, if_false]
  exact hrun

end Sys2Proof.Machine
end

section
/-! SUPPORT. The Trunk Receiver: a sync position by its four characters, runs of damaged bytes, and what a slot of each row
brings (R1 to R5, R9, R10, R13, R162, R165). -/

namespace Sys2Proof.Machine

/-! ### Sync positions (R3 to R5) -/

theorem syncGood_data {a b : Byte} {n : BitVec 16} (h : a ++ b = n) : syncGood ⟨.sync, .data 0xC5, .data a, .data b⟩ n = true := by
  subst h
  simp [syncGood, syncPattern, frameNumber]

theorem syncGood_iff (h : FrameHead) (n : BitVec 16) : syncGood h n = true ↔
    h.c0 = .sync ∧ h.c1 = .data 0xC5 ∧ ∃ a b : Byte, h.c2 = .data a ∧ h.c3 = .data b ∧ a ++ b = n := by
  obtain ⟨c0, c1, c2, c3⟩ := h
  constructor
  · intro hgood
    obtain ⟨hpattern, hnumber⟩ := Bool.and_eq_true_iff.mp hgood
    obtain ⟨hsync, hsecond⟩ := Bool.and_eq_true_iff.mp hpattern
    refine ⟨beq_iff_eq.mp hsync, beq_iff_eq.mp hsecond, ?_⟩
    have hnumber := beq_iff_eq.mp hnumber
    unfold frameNumber at hnumber
    split at hnumber
    · next a b ha hb => exact ⟨a, b, ha, hb, Option.some.inj hnumber⟩
    · cases hnumber
  · rintro ⟨rfl, rfl, a, b, rfl, rfl, hn⟩
    exact syncGood_data hn

theorem frameNumber_of_damaged {c0 c1 c d : LineChar} (h : c = .damaged ∨ d = .damaged) :
    frameNumber ⟨c0, c1, c, d⟩ = none := by
  rcases h with rfl | rfl
  · rfl
  · cases c <;> rfl

/-! ### Runs of damaged bytes (R1) -/

/-- Every one of so many bytes from here on is damaged. -/
def allDamaged (bad : List Bool) (k : Nat) : Prop := ∀ x ∈ bad.take k, x = true

theorem allDamaged_zero (bad : List Bool) : allDamaged bad 0 := fun _ h => by cases h

theorem allDamaged_cons (b : Bool) (rest : List Bool) (k : Nat) :
    allDamaged (b :: rest) (k + 1) ↔ b = true ∧ allDamaged rest k := by
  simp [allDamaged]

/-- A run reaches 32 exactly within the bytes themselves, or at their front together with those before. -/
theorem damagedRun_eq_none (bad : List Bool) (n : Nat) : damagedRun n bad = none ↔
    (∃ i, i + 32 ≤ bad.length ∧ allDamaged (bad.drop i) 32) ∨
      ∃ k, 1 ≤ k ∧ k ≤ bad.length ∧ allDamaged bad k ∧ 32 ≤ n + k := by
  induction bad generalizing n with
  | nil =>
    simp only [damagedRun, List.length_nil, reduceCtorEq, false_iff, not_or, not_exists]
    exact ⟨fun i hi => absurd hi.1 (by omega), fun k hk => absurd (hk.1.trans hk.2.1) (by omega)⟩
  | cons b rest ih =>
    have hshift : (∃ i, i + 32 ≤ rest.length ∧ allDamaged (rest.drop i) 32) →
        ∃ i, i + 32 ≤ (b :: rest).length ∧ allDamaged ((b :: rest).drop i) 32 := fun ⟨i, hi, hall⟩ =>
      ⟨i + 1, by rw [List.length_cons]; omega, hall⟩
    cases b with
    | false =>
      have hfront : ∀ k, 1 ≤ k → ¬ allDamaged (false :: rest) k := fun k hk hall => by
        obtain ⟨k, rfl⟩ := Nat.exists_eq_add_of_le' hk
        exact Bool.noConfusion ((allDamaged_cons _ _ _).mp hall).1
      rw [damagedRun, ih 0]
      constructor
      · rintro (h | ⟨k, _, hk, hall, hlong⟩)
        · exact .inl (hshift h)
        · refine .inl (hshift ⟨0, by omega, fun x hx => hall x ?_⟩)
          exact (List.take_subset_take_left rest (by omega)) hx
      · rintro (⟨i, hi, hall⟩ | ⟨k, hk, _, hall, _⟩)
        · cases i with
          | zero => exact absurd hall (hfront 32 (by omega))
          | succ i => exact .inl ⟨i, by rw [List.length_cons] at hi; omega, hall⟩
        · exact absurd hall (hfront k hk)
    | true =>
      rw [damagedRun]
      split
      · next hshort =>
        rw [ih (n + 1)]
        constructor
        · rintro (h | ⟨k, _, hk, hall, hlong⟩)
          · exact .inl (hshift h)
          · exact .inr ⟨k + 1, by omega, by rw [List.length_cons]; omega, (allDamaged_cons _ _ _).mpr ⟨rfl, hall⟩, by omega⟩
        · have hfront : ∀ k, k + 1 ≤ (true :: rest).length → allDamaged (true :: rest) (k + 1) → 32 ≤ n + (k + 1) →
              ∃ j, 1 ≤ j ∧ j ≤ rest.length ∧ allDamaged rest j ∧ 32 ≤ n + 1 + j := fun k hk hall hlong =>
            ⟨k, by unfold faultRun at hshort; omega, by rw [List.length_cons] at hk; omega, ((allDamaged_cons _ _ _).mp hall).2,
              by omega⟩
          rintro (⟨i, hi, hall⟩ | ⟨k, hk, hle, hall, hlong⟩)
          · cases i with
            | zero => exact .inr (hfront 31 (by omega) hall (by omega))
            | succ i => exact .inl ⟨i, by rw [List.length_cons] at hi; omega, hall⟩
          · obtain ⟨k, rfl⟩ := Nat.exists_eq_add_of_le' hk
            exact .inr (hfront k hle hall hlong)
      · next hlong =>
        unfold faultRun at hlong
        exact iff_of_true rfl (.inr ⟨1, le_refl 1, by rw [List.length_cons]; omega,
          (allDamaged_cons _ _ _).mpr ⟨rfl, allDamaged_zero rest⟩, by omega⟩)

/-- Bytes that are not all damaged end in the run of damaged ones at their tail, whatever stood before. -/
theorem damagedRun_eq_some {bad : List Bool} {n r : Nat} (h : damagedRun n bad = some r) :
    r = if bad.all id then n + bad.length else (bad.reverse.takeWhile id).length := by
  induction bad generalizing n with
  | nil => exact (Option.some.inj h).symm
  | cons b rest ih =>
    have htail : ∀ c, rest.all id = false →
        ((c :: rest).reverse.takeWhile id).length = (rest.reverse.takeWhile id).length := fun c hrest => by
      rw [List.reverse_cons, List.takeWhile_append, if_neg]
      intro hlen
      have hall : rest.reverse.takeWhile id = rest.reverse :=
        (List.takeWhile_sublist _).eq_of_length hlen
      rw [List.takeWhile_eq_self_iff] at hall
      rw [← Bool.not_eq_true, List.all_eq_true] at hrest
      exact hrest fun x hx => hall x (List.mem_reverse.mpr hx)
    cases b with
    | false =>
      rw [ih h]
      simp only [List.all_cons, id, Bool.false_and, Bool.false_eq_true, if_false]
      split
      · next hall =>
        rw [List.reverse_cons, List.takeWhile_append, if_pos]
        · simp
        · rw [List.takeWhile_eq_self_iff.mpr]
          exact fun x hx => List.all_eq_true.mp hall x (List.mem_reverse.mp hx)
      · next hall => exact (htail false (Bool.not_eq_true _ ▸ hall)).symm
    | true =>
      rw [damagedRun] at h
      split at h
      · rw [ih h]
        simp only [List.all_cons, id, Bool.true_and, List.length_cons]
        split
        · omega
        · next hall => exact (htail true (Bool.not_eq_true _ ▸ hall)).symm
      · cases h

/-! ### The commands of the trunk's framing -/

section Framing
variable {s : State} (h : s.atRest)
include h

theorem exec_syncFound_of_rest (position : Nat) (head : FrameHead) :
    exec (.syncFound position head) s = .next { s with rx := s.rx.found position head } :=
  congrArg Host.Outcome.next (State.outside_of_rest h _)

theorem exec_checkSync_of_rest (head : FrameHead) :
    exec (.checkSync head) s = .next { s with rx := s.rx.check head } :=
  congrArg Host.Outcome.next (State.outside_of_rest h _)

theorem exec_lockedSync_of_rest (head : FrameHead) :
    exec (.lockedSync head) s = .next { s with rx := s.rx.examine head } :=
  congrArg Host.Outcome.next (State.outside_of_rest h _)

theorem exec_lineFault_of_rest : exec .lineFault s = .next { s with rx := s.rx.fault } :=
  congrArg Host.Outcome.next (State.outside_of_rest h _)

end Framing

theorem Receiver.found_data {x : Receiver} (h : x.framing = .hunt) (position : Nat) (a b : Byte) :
    x.found position ⟨.sync, .data 0xC5, .data a, .data b⟩ =
      { x with framing := .check, goodSyncs := 1, expectedPos := position + frameBytes, expectedNum := (a ++ b) + 1 } := by
  have hpattern : syncPattern ⟨.sync, .data 0xC5, .data a, .data b⟩ = true := rfl
  simp only [Receiver.found, h, decide_true, hpattern, Bool.and_self, if_true, frameNumber]

theorem Receiver.found_damaged {head : FrameHead} (h : frameNumber head = none) (x : Receiver) (position : Nat) :
    x.found position head = x := by
  unfold Receiver.found
  rw [h]
  split <;> rfl

theorem Receiver.check_good {x : Receiver} (h : x.framing = .check) {head : FrameHead}
    (hgood : syncGood head x.expectedNum = true) : x.check head = { x.expectNext with goodSyncs := x.goodSyncs + 1 } := by
  simp only [Receiver.check, h, hgood, if_true]

theorem Receiver.check_bad {x : Receiver} (h : x.framing = .check) {head : FrameHead}
    (hbad : ¬ syncGood head x.expectedNum = true) : x.check head = x.hunt := by
  simp only [Receiver.check, h, hbad, if_true, if_false, Bool.false_eq_true]

/-- Settles O10: a sync opens CHECK by its pattern and number, and counts there exactly when pattern and number are
good. -/
theorem goodSyncsLeadToLock : Obligations.GoodSyncsLeadToLock := by
  intro s
  refine ⟨fun hrest hhunt position => ⟨fun a b => ?_, fun c d hdamaged => ?_⟩, fun hcheck =>
    ⟨fun a b hrest hnumber => ?_, fun head hrest hbad => ?_, fun hrunning hgood => ?_⟩⟩
  · rw [exec_syncFound_of_rest hrest, Receiver.found_data hhunt]
    rfl
  · rw [exec_syncFound_of_rest hrest, Receiver.found_damaged (frameNumber_of_damaged hdamaged)]
  · rw [exec_checkSync_of_rest hrest, Receiver.check_good hcheck (syncGood_data hnumber)]
    rfl
  · rw [exec_checkSync_of_rest hrest, Receiver.check_bad hcheck (mt (syncGood_iff _ _).mp hbad)]
    rfl
  · have hdue : s.rx.lockDue = true := by
      rw [Receiver.lockDue, hcheck, beq_self_eq_true, Bool.true_and]
      exact decide_eq_true hgood
    exact congrArg Host.Outcome.next (State.ownCommand_of_due hrunning hdue _)

section Examine
variable {x : Receiver} (h : x.framing = .locked) {head : FrameHead}
include h

theorem Receiver.fault_of_locked : x.fault = x.loseLock := by
  rw [Receiver.fault, if_pos h]

theorem Receiver.examine_good (hgood : syncGood head x.expectedNum = true) :
    x.examine head = { x.expectNext with misses := 0, slotsLeft := frameSlots, damaged := 0 } := by
  simp only [Receiver.examine, h, hgood, if_true]

theorem Receiver.examine_first (hbad : ¬ syncGood head x.expectedNum = true)
    (hrun : ¬ damagedRun x.runAtSync (headDamaged head) = none) (hmisses : x.misses = 0) :
    x.examine head = { x.expectNext with misses := 1, slotsLeft := 0, damaged := 0 } := by
  have hsome : ¬ (damagedRun x.runAtSync (headDamaged head)).isNone = true := mt Option.isNone_iff_eq_none.mp hrun
  rw [Receiver.examine, if_pos h, if_neg hbad, if_neg hsome, if_pos hmisses]

theorem Receiver.examine_lost (hbad : ¬ syncGood head x.expectedNum = true)
    (hlost : x.misses ≠ 0 ∨ damagedRun x.runAtSync (headDamaged head) = none) : x.examine head = x.loseLock := by
  rw [Receiver.examine, if_pos h, if_neg hbad, Receiver.fault_of_locked h]
  rcases hlost with hmisses | hrun
  · rw [if_neg hmisses, ite_self]
  · rw [hrun, Option.isNone_none, if_pos rfl]

end Examine

/-- The four bytes of a sync position complete a run that the bytes before began, or none. -/
theorem damagedRun_headDamaged (h : FrameHead) (n : Nat) : damagedRun n (headDamaged h) = none ↔
    ∃ k, 1 ≤ k ∧ k ≤ 4 ∧ allDamaged (headDamaged h) k ∧ 32 ≤ n + k := by
  have hlength : (headDamaged h).length = 4 := rfl
  rw [damagedRun_eq_none, hlength]
  exact ⟨fun hrun => hrun.elim (fun ⟨i, hi, _⟩ => absurd hi (by omega)) id, .inr⟩

/-- Settles O11: a bad sync is a line fault exactly when its damaged bytes complete a run of 32. -/
theorem lockedSyncTakesOrDiscards : Obligations.LockedSyncTakesOrDiscards := by
  intro s hrest hlocked
  refine ⟨fun a b hnumber => ?_, fun head hbad => ?_⟩
  · rw [exec_lockedSync_of_rest hrest, Receiver.examine_good hlocked (syncGood_data hnumber)]
    rfl
  · have hbad := mt (syncGood_iff _ _).mp hbad
    have hrun := damagedRun_headDamaged head s.rx.runAtSync
    refine ⟨fun hmisses hfault => ?_, fun hlost => ?_⟩
    · rw [exec_lockedSync_of_rest hrest, Receiver.examine_first hlocked hbad (mt hrun.mp hfault) hmisses]
      rfl
    · rw [exec_lockedSync_of_rest hrest, Receiver.examine_lost hlocked hbad (hlost.imp_right hrun.mpr)]
      rfl

/-- Settles O12: a line fault hunts, and counts a lock loss from LOCKED alone. -/
theorem lineFaultHunts : Obligations.LineFaultHunts := by
  intro s hrest
  rw [exec_lineFault_of_rest hrest, Receiver.fault]
  split <;> rfl

/-! ### Slots by their rows -/

/-- What a slot command does with the slot next taken: a line fault, a free slot taken, or its row's effect. -/
theorem State.slotCommand_eq {s : State} (h : s.slotNext) {slot : Slot} (hl : slot.length = 84) (row : SlotRow)
    (f : State → State) : s.slotCommand slot row f = .next
      (match damagedRun s.rx.damaged (damagedBytes slot) with
        | none => { s with rx := s.rx.fault }
        | some run =>
          if s.slotRow slot = .free then s.slotTaken run
          else if s.slotRow slot = row then f (s.slotTaken run) else s) := by
  obtain ⟨hrest, htakes⟩ := h
  rw [State.slotCommand, if_pos hl, State.outside_of_rest hrest, State.takeSlot, hrest.1, htakes]
  rfl

theorem State.slotRow_of_content {s : State} {slot : Slot} {c : SlotContent} (h : slotContent slot = c) :
    s.slotRow slot = s.contentRow c := congrArg s.contentRow h

section Rejected
variable {s : State} {slot : Slot} (h : s.slotNext) (hl : slot.length = 84)
include h hl

theorem exec_rejectedSlot_of_fault (hrun : damagedRun s.rx.damaged (damagedBytes slot) = none) :
    exec (.rejectedSlot slot) s = .next { s with rx := s.rx.loseLock } := by
  have hlocked : s.rx.framing = .locked := beq_iff_eq.mp (Bool.and_eq_true_iff.mp h.2).1
  rw [exec, execRejectedSlot, State.slotCommand_eq h hl, hrun, Receiver.fault_of_locked hlocked]

theorem exec_rejectedSlot_of_run {run : Nat} (hrun : damagedRun s.rx.damaged (damagedBytes slot) = some run)
    (hrow : s.slotRow slot = .rejected) :
    exec (.rejectedSlot slot) s = .next ((s.slotTaken run).rejectSlot (slotContent slot)) := by
  rw [exec, execRejectedSlot, State.slotCommand_eq h hl, hrun, hrow]
  rfl

end Rejected

/-- A slot that does not fail its check, of 84 characters, ends every run of damaged bytes. -/
theorem damagedRun_of_content {slot : Slot} (hl : slot.length = 84) {c : SlotContent} (hc : slotContent slot = c)
    (hne : c ≠ .badCheck) (n : Nat) : damagedRun n (damagedBytes slot) = some 0 :=
  damagedRun_of_checked n hl (hc ▸ hne)

/-- Settles O14: a slot is a line fault exactly when 32 damaged bytes stand in a row, and otherwise its counter rises. -/
theorem rejectedSlotsAreCounted : Obligations.RejectedSlotsAreCounted := by
  intro s slot hnext hl
  have hlength : (damagedBytes slot).length = 84 := (List.length_map _).trans hl
  have hfault := damagedRun_eq_none (damagedBytes slot) s.rx.damaged
  rw [hlength] at hfault
  refine ⟨fun hrun => ?_, fun hc hsound => ?_, fun hc => ?_, fun hc => ?_, fun hc => ?_⟩
  · rw [exec_rejectedSlot_of_fault hnext hl (hfault.mpr hrun)]
    rfl
  · have hnone := mt hfault.mp hsound
    cases hrun : damagedRun s.rx.damaged (damagedBytes slot) with
    | none => exact absurd hrun hnone
    | some run =>
      have hsome : ¬ (damagedBytes slot).all id = true := fun hall =>
        hsound (.inl ⟨0, by omega, fun x hx => List.all_eq_true.mp hall x (List.mem_of_mem_take hx)⟩)
      have hvalue := damagedRun_eq_some hrun
      rw [if_neg hsome] at hvalue
      rw [exec_rejectedSlot_of_run hnext hl hrun (State.slotRow_of_content hc), hc, hvalue]
      rfl
  · rw [exec_rejectedSlot_of_run hnext hl (damagedRun_of_content hl hc nofun _) (State.slotRow_of_content hc), hc]
    rfl
  · rw [exec_rejectedSlot_of_run hnext hl (damagedRun_of_content hl hc nofun _) (State.slotRow_of_content hc), hc]
    rfl
  · have hrow : s.slotRow slot = .free := State.slotRow_of_content hc
    rw [exec, execRejectedSlot, State.slotCommand_eq hnext hl, damagedRun_of_content hl hc nofun, hrow]
    rfl

/-! ### Orders and passthrough (R12, R13, R162, R165) -/

theorem State.contentRow_order {s : State} (h : s.strapFault = false) (o : Order) :
    s.contentRow (.order s.nodeByte o) = .order := by
  simp [State.contentRow, h]

/-- Settles O16: an order for the own node joins the intake while it has room. -/
theorem ordersJoinIntake : Obligations.OrdersJoinIntake := by
  intro s slot o hnext hl hstrap hc
  have hrow : s.slotRow slot = .order := (State.slotRow_of_content hc).trans (State.contentRow_order hstrap o)
  have hrun : exec (.orderParcel slot) s = .next { s.slotTaken 0 with orders := s.orders.offer o } := by
    rw [exec, execOrderParcel, State.slotCommand_of_checked hnext hl (by rw [hc]; nofun) hrow nofun, hc]
    rfl
  refine ⟨fun hroom => ?_, fun hfull => ?_⟩
  · rw [hrun, Orders.offer, if_pos (show s.orders.intake.length < intakeSize from hroom)]
    rfl
  · rw [hrun, Orders.offer, if_neg (show ¬ s.orders.intake.length < intakeSize from Nat.not_lt.mpr hfull)]
    rfl

theorem State.keyHeard_of_laneFor {s : State} {node tag : Byte} (h : (s.laneFor node tag).isSome = true) :
    s.keyHeard node tag := by
  obtain ⟨l, hl⟩ := Option.isSome_iff_exists.mp h
  have hfound := List.find?_some hl
  simp only [Bool.and_eq_true, beq_iff_eq, bne_iff_ne] at hfound
  obtain ⟨⟨⟨hdefined, horigin⟩, htag⟩, hstatus⟩ := hfound
  exact ⟨l, hdefined, horigin, htag, hstatus⟩

theorem State.sourceHeard_of_watched {s : State} {node tag : Byte} (h : s.watched node tag = true) :
    s.sourceHeard node tag := by
  obtain ⟨p, -, hp⟩ := List.any_eq_true.mp h
  obtain ⟨hsource, hactive⟩ := Bool.and_eq_true_iff.mp hp
  exact ⟨p, hactive, beq_iff_eq.mp hsource⟩

/-- What the part does not consume passes through. -/
theorem State.contentRow_of_passes {s : State} {c : SlotContent} (h : s.passes c) : s.contentRow c = .passthrough := by
  obtain ⟨haccepted, hpasses⟩ := h
  have away : ∀ {heard : Bool} {row : SlotRow}, s.strapFault = true ∨ ¬ heard = true →
      (if (!s.strapFault && heard) = true then row else .passthrough) = SlotRow.passthrough := fun {heard row} haway => by
    rcases haway with hstrap | hnot
    · rw [hstrap]
      rfl
    · rw [eq_false_of_ne_true hnot, Bool.and_false]
      rfl
  cases c with
  | audio => exact away (hpasses.imp_right (mt State.keyHeard_of_laneFor))
  | cue => exact away (hpasses.imp_right (mt State.keyHeard_of_laneFor))
  | picture => exact away (hpasses.imp_right (mt State.sourceHeard_of_watched))
  | order => exact away (hpasses.imp_right (mt beq_iff_eq.mp))
  | otherControl => rfl
  | _ => exact Bool.noConfusion haccepted

theorem slotBytes_data (b : List Byte) : slotBytes (b.map .data) = some b := by
  induction b with
  | nil => rfl
  | cons x rest ih => rw [List.map_cons, slotBytes, ih]; rfl

/-- Settles O17: what passes joins the passthrough queue while it has room, byte for byte. -/
theorem otherParcelsPassThrough : Obligations.OtherParcelsPassThrough := by
  intro s b hnext hl hpasses
  have hlength : (b.map LineChar.data).length = 84 := (List.length_map _).trans hl
  have hchecked : slotContent (b.map .data) ≠ .badCheck := fun hbad => by
    have haccepted := hpasses.1
    rw [hbad] at haccepted
    cases haccepted
  have hrun : exec (.passthroughParcel (b.map .data)) s = .next ((s.slotTaken 0).passThrough b) := by
    rw [exec, execPassthroughParcel, State.slotCommand_of_checked hnext hlength hchecked
      (State.contentRow_of_passes hpasses) nofun, State.deliverPassthrough, slotBytes_data]
    rfl
  refine ⟨fun hroom => ?_, fun hfull => ?_⟩
  · rw [hrun, State.passThrough, if_pos (show (s.slotTaken 0).egress.passthrough.length < passthroughSize from hroom)]
    rfl
  · rw [hrun, State.passThrough, if_neg (show ¬ (s.slotTaken 0).egress.passthrough.length < passthroughSize from Nat.not_lt.mpr hfull)]
    rfl

end Sys2Proof.Machine
end

section
/-! SUPPORT. Values, fields and parcels as bytes (11.1, 11.3): what is written at a place is read there, and a sealed slot
passes its check (R9, R178, R179). -/

namespace Sys2Proof.Machine

/-! ### Values in bytes (11.1) -/

@[simp] theorem beBytes_length (width : Nat) (x : Int) : (beBytes width x).length = width := by
  simp [beBytes]

theorem beBytes_succ (width : Nat) (x : Int) :
    beBytes (width + 1) x = BitVec.ofInt 8 (x / 2 ^ (8 * width)) :: beBytes width x := by
  simp only [beBytes, List.range_succ_eq_map, List.map_cons, List.map_map, Nat.add_sub_cancel, Nat.sub_zero,
    List.cons.injEq, true_and]
  exact List.map_congr_left fun i _ => by rw [Function.comp, Nat.succ_eq_add_one, Nat.add_comm i 1, Nat.sub_sub]

theorem beNat_cons (b : Byte) (rest : List Byte) : beNat (b :: rest) = b.toNat * 2 ^ (8 * rest.length) + beNat rest := by
  have fold : ∀ (xs : List Byte) (n : Nat),
      xs.foldl (fun n b => n * 256 + b.toNat) n = n * 2 ^ (8 * xs.length) + xs.foldl (fun n b => n * 256 + b.toNat) 0 := by
    intro xs
    induction xs with
    | nil => simp
    | cons y ys ih =>
      intro n
      rw [List.foldl_cons, List.foldl_cons, ih (n * 256 + y.toNat), ih (0 * 256 + y.toNat), List.length_cons, Nat.mul_add,
        Nat.pow_add]
      ring
  rw [beNat, List.foldl_cons, fold rest]
  simp [beNat]

/-- A remainder by a product, digit by digit. -/
theorem emod_mul_eq {m k : Int} (hm : 0 < m) (hk : 0 < k) (x : Int) : x % (m * k) = x / m % k * m + x % m := by
  have hdigit := Int.emod_nonneg (x / m) hk.ne'
  have hbelow := Int.emod_lt_of_pos (x / m) hk
  have hrest := Int.emod_nonneg x hm.ne'
  have hunder := Int.emod_lt_of_pos x hm
  refine ((Int.ediv_emod_unique (mul_pos hm hk) (q := x / m / k)).mpr ⟨?_, by positivity, by nlinarith⟩).2
  have hx := Int.emod_add_mul_ediv x m
  have hq := Int.emod_add_mul_ediv (x / m) k
  linear_combination hx + m * hq

/-- A number in so many bytes reads back as the number modulo what they hold. -/
theorem beNat_beBytes (width : Nat) (x : Int) : (beNat (beBytes width x) : Int) = x % 2 ^ (8 * width) := by
  induction width with
  | zero => simp [beBytes, beNat]
  | succ width ih =>
    have hpow : (2 : Int) ^ (8 * (width + 1)) = 2 ^ (8 * width) * 256 := by rw [Nat.mul_add, pow_add]; norm_num
    rw [beBytes_succ, beNat_cons, beBytes_length, hpow, emod_mul_eq (by positivity) (by norm_num)]
    push_cast
    rw [ih, BitVec.toNat_ofInt, Int.toNat_of_nonneg (Int.emod_nonneg _ (by decide))]
    norm_num

/-! ### Fields (11.1) -/

theorem field_congr {xs ys : List Byte} {offset offset' width : Nat}
    (h : ∀ i < width, xs.getD (offset + i) 0 = ys.getD (offset' + i) 0) : field xs offset width = field ys offset' width := by
  unfold field
  exact congrArg beNat (List.map_congr_left fun i hi => h i (List.mem_range.mp hi))

@[simp] theorem field_append_right {xs ys : List Byte} {offset width : Nat} (h : xs.length ≤ offset) :
    field (xs ++ ys) offset width = field ys (offset - xs.length) width :=
  field_congr fun i _ => by
    rw [List.getD_append_right _ _ _ _ (by omega)]
    congr 1
    omega

theorem field_append_left {xs ys : List Byte} {offset width : Nat} (h : offset + width ≤ xs.length) :
    field (xs ++ ys) offset width = field xs offset width :=
  field_congr fun i hi => List.getD_append _ _ _ _ (by omega)

@[simp] theorem field_cons_succ (b : Byte) (xs : List Byte) (offset width : Nat) :
    field (b :: xs) (offset + 1) width = field xs offset width :=
  field_congr fun i _ => by rw [Nat.add_right_comm, List.getD_cons_succ]

@[simp] theorem field_cons_one (b : Byte) (xs : List Byte) : field (b :: xs) 0 1 = b.toNat := by
  simp [field, beNat]

theorem field_whole (xs : List Byte) : field xs 0 xs.length = beNat xs := by
  have hmap : ((List.range xs.length).map fun i => xs.getD (0 + i) 0) = xs :=
    List.ext_getElem (by simp) fun i _ hi => by simp [hi]
  rw [field, hmap]

/-- A number written at a place is read there modulo what its bytes hold. -/
theorem field_beBytes (width : Nat) (x : Int) (rest : List Byte) :
    (field (beBytes width x ++ rest) 0 width : Int) = x % 2 ^ (8 * width) := by
  have hwhole := field_whole (beBytes width x)
  rw [beBytes_length] at hwhole
  rw [field_append_left (by simp), hwhole, beNat_beBytes]

/-- A natural number that fits its bytes is read back. -/
theorem field_nat {width n : Nat} (h : n < 2 ^ (8 * width)) (rest : List Byte) :
    field (beBytes width n ++ rest) 0 width = n := by
  have hfield := field_beBytes width n rest
  rw [Int.emod_eq_of_lt (Int.natCast_nonneg n) (by exact_mod_cast h)] at hfield
  exact_mod_cast hfield

/-- A number that fits its bytes in two's complement is read back. -/
theorem signedField_beBytes {width : Nat} {x : Int} (hlow : -2 ^ (8 * width - 1) ≤ x) (hhigh : x < 2 ^ (8 * width - 1))
    (hwidth : 1 ≤ width) (rest : List Byte) : signedField (beBytes width x ++ rest) 0 width = x := by
  have hfield := field_beBytes width x rest
  have hpow : (2 : Int) ^ (8 * width) = 2 * 2 ^ (8 * width - 1) := by rw [← pow_succ', Nat.sub_add_cancel (by omega)]
  have hhalf : ((2 ^ (8 * width - 1) : Nat) : Int) = 2 ^ (8 * width - 1) := by push_cast; rfl
  rw [hpow] at hfield
  unfold signedField
  dsimp only
  rw [hpow]
  by_cases hneg : x < 0
  · rw [Int.emod_eq_add_self_emod, Int.emod_eq_of_lt (by omega) (by omega)] at hfield
    rw [if_pos (by omega)]
    omega
  · rw [Int.emod_eq_of_lt (by omega) (by omega)] at hfield
    rw [if_neg (by omega)]
    exact hfield

/-! ### The check (R9, R179) -/

/-- What a slot with sound bytes and check holds is never a failed check. -/
theorem parcelContent_ne_badCheck (b : List Byte) : parcelContent b ≠ .badCheck := by
  have haudio : audioContent b ≠ .badCheck := by
    unfold audioContent
    dsimp only
    split <;> nofun
  have hcue : cueContent b ≠ .badCheck := by
    unfold cueContent
    split <;> nofun
  have hcontrol : controlContent b ≠ .badCheck := by
    unfold controlContent
    split <;> nofun
  unfold parcelContent
  split
  · nofun
  · exact haudio
  · exact hcue
  · nofun
  · exact hcontrol
  · nofun

theorem slotContent_ne_badCheck {slot : Slot} : slotContent slot ≠ .badCheck ↔ (checkedBytes slot).isSome = true := by
  unfold slotContent
  split
  · next b hb =>
    rw [hb]
    exact iff_of_true (parcelContent_ne_badCheck b) rfl
  · next hb =>
    rw [hb]
    exact iff_of_false (fun h => h rfl) Bool.false_ne_true

/-- Two bytes as a field are their concatenation. -/
theorem field_two (b : List Byte) (offset : Nat) : field b offset 2 = (b.getD offset 0 ++ b.getD (offset + 1) 0).toNat := by
  rw [BitVec.toNat_append, Nat.shiftLeft_eq, ← Nat.shiftLeft_eq, ← Nat.shiftLeft_add_eq_or_of_lt (b.getD (offset + 1) 0).isLt,
    Nat.shiftLeft_eq]
  simp [field, beNat, List.range_succ]

theorem checkedBytes_data (b : List Byte) : checkedBytes (b.map .data) =
    if crc16 (b.take 82) = b.getD 82 0 ++ b.getD 83 0 then some b else none := by
  rw [checkedBytes, slotBytes_data]
  simp only [field_two, BitVec.toNat_inj]

/-! ### Sealed slots (R179) -/

/-- The 82 bytes of header and payload of a sealed slot. -/
def slotBody (content : List Byte) : List Byte := (List.range 82).map fun i => content.getD i 0

theorem slotBody_length (content : List Byte) : (slotBody content).length = 82 := by
  simp [slotBody]

theorem sealSlot_eq (content : List Byte) :
    sealSlot content = slotBody content ++ beBytes 2 (crc16 (slotBody content)).toNat := rfl

theorem sealSlot_length (content : List Byte) : (sealSlot content).length = 84 := by
  rw [sealSlot_eq, List.length_append, slotBody_length, beBytes_length]

theorem sealSlot_checked (content : List Byte) : checkedBytes ((sealSlot content).map .data) = some (sealSlot content) := by
  have hlength := slotBody_length content
  have hcheck : field (sealSlot content) 82 2 = (crc16 (slotBody content)).toNat := by
    rw [sealSlot_eq, field_append_right (by omega), hlength]
    have hfield := field_nat (width := 2) (crc16 (slotBody content)).isLt []
    rwa [List.append_nil] at hfield
  have htake : (sealSlot content).take 82 = slotBody content := by
    rw [sealSlot_eq, List.take_append_of_le_length hlength.ge, List.take_of_length_le hlength.le]
  rw [checkedBytes, slotBytes_data]
  simp only [htake, hcheck, if_true]

theorem sealSlot_getD (content : List Byte) {i : Nat} (h : i < 82) : (sealSlot content).getD i 0 = content.getD i 0 := by
  rw [sealSlot_eq, List.getD_append _ _ _ _ (by rwa [slotBody_length])]
  simp [slotBody, h]

theorem sealSlot_field (content : List Byte) {offset width : Nat} (h : offset + width ≤ 82) :
    field (sealSlot content) offset width = field content offset width :=
  field_congr fun _ _ => sealSlot_getD content (by omega)

/-- Settles O13: the check of a slot of sound bytes is that of its bytes, and a sealed slot is sealed with it. -/
theorem checkDecidesSlots : Obligations.CheckDecidesSlots := by
  refine ⟨fun slot _ => ?_, fun content => ⟨sealSlot_length content, sealSlot_checked content⟩⟩
  rw [slotContent_ne_badCheck]
  constructor
  · intro hsome
    cases hb : slotBytes slot with
    | none =>
      rw [checkedBytes, hb] at hsome
      cases hsome
    | some b =>
      have hslot := slotBytes_eq_some hb
      refine ⟨b, hslot, ?_⟩
      rw [hslot, checkedBytes_data] at hsome
      split at hsome
      · next hcheck => exact hcheck
      · cases hsome
  · rintro ⟨b, rfl, hcheck⟩
    rw [checkedBytes_data, if_pos hcheck]
    rfl

/-! ### Parcels as sent (R118, R159, R178) -/

theorem slotContent_sealed (content : List Byte) : slotContent ((sealSlot content).map .data) = parcelContent (sealSlot content) := by
  rw [slotContent, sealSlot_checked]

/-- The content of a parcel: its six header bytes, its stamp and its payload. -/
def parcelContentBytes (node kind tag seq count flags : Byte) (stamp : Stamp) (payload : List Byte) : List Byte :=
  node :: kind :: tag :: seq :: count :: flags :: (beBytes 4 stamp.toNat ++ payload)

theorem parcelBytes_eq (node kind tag seq count flags : Byte) (stamp : Stamp) (payload : List Byte) :
    parcelBytes node kind tag seq count flags stamp payload =
      sealSlot (parcelContentBytes node kind tag seq count flags stamp payload) := by
  rw [parcelBytes, List.append_assoc]
  rfl

section Header
variable (node kind tag seq count flags : Byte) (stamp : Stamp) (payload : List Byte)

theorem headerStamp_parcel : headerStamp (parcelBytes node kind tag seq count flags stamp payload) = stamp := by
  have hfield : field (parcelContentBytes node kind tag seq count flags stamp payload) 6 4 = stamp.toNat := by
    simp only [parcelContentBytes, field_cons_succ]
    exact field_nat stamp.isLt payload
  rw [headerStamp, parcelBytes_eq, sealSlot_field _ (by omega), hfield, BitVec.ofNat_toNat, BitVec.setWidth_eq]

theorem field_payload {offset width : Nat} (h : 10 + offset + width ≤ 82) :
    field (parcelBytes node kind tag seq count flags stamp payload) (10 + offset) width = field payload offset width := by
  rw [parcelBytes_eq, sealSlot_field _ h]
  have hshift : field (parcelContentBytes node kind tag seq count flags stamp payload) (4 + offset + 6) width =
      field (beBytes 4 stamp.toNat ++ payload) (4 + offset) width := by
    simp only [parcelContentBytes, field_cons_succ]
  rw [show 10 + offset = 4 + offset + 6 by omega, hshift, field_append_right (by simp), beBytes_length, Nat.add_sub_cancel_left]

theorem getD_payload {i : Nat} (h : i < 72) :
    (parcelBytes node kind tag seq count flags stamp payload).getD (10 + i) 0 = payload.getD i 0 := by
  rw [parcelBytes_eq, sealSlot_getD _ (by omega), show 10 + i = 4 + i + 1 + 1 + 1 + 1 + 1 + 1 by omega]
  simp only [parcelContentBytes, List.getD_cons_succ]
  rw [List.getD_append_right _ _ _ _ (by simp), beBytes_length, Nat.add_sub_cancel_left]

/-- The six bytes that stand before the stamp. -/
theorem parcelBytes_header :
    (parcelBytes node kind tag seq count flags stamp payload).getD 0 0 = node ∧
      (parcelBytes node kind tag seq count flags stamp payload).getD 1 0 = kind ∧
      (parcelBytes node kind tag seq count flags stamp payload).getD 2 0 = tag ∧
      (parcelBytes node kind tag seq count flags stamp payload).getD 3 0 = seq ∧
      (parcelBytes node kind tag seq count flags stamp payload).getD 4 0 = count ∧
      (parcelBytes node kind tag seq count flags stamp payload).getD 5 0 = flags := by
  have hat : ∀ i < 82, (parcelBytes node kind tag seq count flags stamp payload).getD i 0 =
      (parcelContentBytes node kind tag seq count flags stamp payload).getD i 0 := fun i hi => by
    rw [parcelBytes_eq, sealSlot_getD _ hi]
  refine ⟨?_, ?_, ?_, ?_, ?_, ?_⟩ <;> exact hat _ (by omega)

end Header

/-- Of numbers written one behind the other, each is read at its place. -/
theorem field_flatten (width : Nat) (xs : List Int) (rest : List Byte) {i : Nat} (h : i < xs.length) :
    (field ((xs.map fun x => beBytes width x).flatten ++ rest) (width * i) width : Int) = xs[i] % 2 ^ (8 * width) := by
  induction xs generalizing i with
  | nil => cases h
  | cons x xs ih =>
    rw [List.map_cons, List.flatten_cons, List.append_assoc]
    cases i with
    | zero => exact field_beBytes width x _
    | succ i =>
      rw [field_append_right (by rw [beBytes_length]; exact Nat.le_mul_of_pos_right _ (Nat.succ_pos i)), beBytes_length,
        Nat.mul_succ, Nat.add_sub_cancel]
      exact ih (Nat.lt_of_succ_lt_succ h)

theorem audioContent_of_parcel (node tag seq : Byte) (suspect discontinuity : Bool) (stamp : Stamp) {samples : List Int}
    (hone : 1 ≤ samples.length) (hmost : samples.length ≤ 24) :
    audioContent (audioParcelBytes node tag seq suspect discontinuity stamp samples) =
      .audio node tag seq suspect discontinuity stamp (samples.map (BitVec.ofInt 24)) := by
  unfold audioParcelBytes
  generalize hpayload : (samples.map fun x => beBytes 3 x).flatten = payload
  obtain ⟨hnode, -, htag, hseq, hcount, hflags⟩ := parcelBytes_header node 1 tag seq (BitVec.ofNat 8 samples.length)
    ((if suspect then 1 else 0) ||| (if discontinuity then 2 else 0)) stamp payload
  have hlength : (BitVec.ofNat 8 samples.length).toNat = samples.length := by
    rw [BitVec.toNat_ofNat, Nat.mod_eq_of_lt (by omega)]
  have hsuspect : ((if suspect then 1 else 0 : Byte) ||| (if discontinuity then 2 else 0)).getLsbD 0 = suspect := by
    cases suspect <;> cases discontinuity <;> rfl
  have hdiscontinuity : ((if suspect then 1 else 0 : Byte) ||| (if discontinuity then 2 else 0)).getLsbD 1 = discontinuity := by
    cases suspect <;> cases discontinuity <;> rfl
  have hsamples : ((List.range samples.length).map fun i => BitVec.ofNat 24 (field
      (parcelBytes node 1 tag seq (BitVec.ofNat 8 samples.length)
        ((if suspect then 1 else 0) ||| (if discontinuity then 2 else 0)) stamp payload) (10 + 3 * i) 3)) =
      samples.map (BitVec.ofInt 24) := by
    refine List.ext_getElem (by simp) fun i hi _ => ?_
    have hi : i < samples.length := by simpa using hi
    have hread := field_flatten 3 samples [] hi
    rw [List.append_nil, hpayload] at hread
    rw [List.getElem_map, List.getElem_map, List.getElem_range, field_payload _ _ _ _ _ _ _ _ (by omega)]
    apply BitVec.eq_of_toInt_eq
    rw [← BitVec.ofInt_natCast, hread, BitVec.toInt_ofInt, BitVec.toInt_ofInt]
    exact Int.emod_bmod _ _
  unfold audioContent
  dsimp only
  rw [hnode, htag, hseq, hcount, hflags, hlength, hsuspect, hdiscontinuity, hsamples, headerStamp_parcel, if_neg]
  simp only [Bool.or_eq_true, decide_eq_true_eq]
  omega

theorem CueType.ofCode_code (k : CueType) (rest : List Byte) :
    CueType.ofCode ((beBytes 1 k.code ++ rest).getD 0 0).toNat = some k := by
  cases k <;> rfl

theorem cueContent_of_parcel (c : CueOut) (node : Byte) :
    cueContent (c.bytes node) = .cue node c.tag c.stamp c.kind (if c.kind = .userMark then c.mark else 0) := by
  unfold CueOut.bytes
  generalize hpayload : beBytes 1 c.kind.code ++ beBytes 2 c.mark.toNat = payload
  obtain ⟨hnode, -, htag, -, -, -⟩ := parcelBytes_header node 2 c.tag 0 0 0 c.stamp payload
  have hkind := getD_payload node 2 c.tag 0 0 0 c.stamp payload (i := 0) (by omega)
  have hmark := field_payload node 2 c.tag 0 0 0 c.stamp payload (offset := 1) (width := 2) (by omega)
  have hvalue : field payload 1 2 = c.mark.toNat := by
    rw [← hpayload, field_append_right (by simp), beBytes_length]
    have hfield := field_nat (width := 2) c.mark.isLt []
    rwa [List.append_nil] at hfield
  unfold cueContent
  rw [hnode, htag, hkind, hmark, hvalue, ← hpayload, CueType.ofCode_code, headerStamp_parcel]
  simp

/-- Settles O15: each parcel as sent is a sealed slot whose fields stand where they are read. -/
theorem sentParcelsReadBack : Obligations.SentParcelsReadBack := by
  refine ⟨fun node tag seq suspect discontinuity stamp samples hone hmost => ?_, fun c node => ?_⟩
  · have hkind := (parcelBytes_header node 1 tag seq (BitVec.ofNat 8 samples.length)
      ((if suspect then 1 else 0) ||| (if discontinuity then 2 else 0)) stamp
      (samples.map fun x => beBytes 3 x).flatten).2.1
    have hcontent := audioContent_of_parcel node tag seq suspect discontinuity stamp hone hmost
    rw [audioParcelBytes] at hcontent ⊢
    rw [parcelBytes_eq, slotContent_sealed, ← parcelBytes_eq, parcelContent, hkind]
    exact hcontent
  · have hkind := (parcelBytes_header node 2 c.tag 0 0 0 c.stamp (beBytes 1 c.kind.code ++ beBytes 2 c.mark.toNat)).2.1
    have hcontent := cueContent_of_parcel c node
    rw [CueOut.bytes] at hcontent ⊢
    rw [parcelBytes_eq, slotContent_sealed, ← parcelBytes_eq, parcelContent, hkind]
    exact hcontent

end Sys2Proof.Machine
end

section
/-! SUPPORT. The table layouts of 11.4: the bytes with which a READ returns an entry are the entry that a WRITE carries. -/

namespace Sys2Proof.Machine

/-! ### Reading on from a place -/

theorem signedField_congr {xs ys : List Byte} {offset offset' width : Nat}
    (h : field xs offset width = field ys offset' width) : signedField xs offset width = signedField ys offset' width := by
  simp only [signedField, h]

@[simp] theorem signedField_cons_succ (b : Byte) (xs : List Byte) (offset width : Nat) :
    signedField (b :: xs) (offset + 1) width = signedField xs offset width :=
  signedField_congr (field_cons_succ b xs offset width)

@[simp] theorem signedField_append_right {xs ys : List Byte} {offset width : Nat} (h : xs.length ≤ offset) :
    signedField (xs ++ ys) offset width = signedField ys (offset - xs.length) width :=
  signedField_congr (field_append_right h)

@[simp] theorem flagField_cons_succ (b : Byte) (xs : List Byte) (offset : Nat) :
    flagField (b :: xs) (offset + 1) = flagField xs offset := rfl

@[simp] theorem flagField_append_right {xs ys : List Byte} {offset : Nat} (h : xs.length ≤ offset) :
    flagField (xs ++ ys) offset = flagField ys (offset - xs.length) := by
  rw [flagField, List.getD_append_right _ _ _ _ h]
  rfl

@[simp] theorem getD_append_right {xs ys : List Byte} {offset : Nat} (h : xs.length ≤ offset) (d : Byte) :
    (xs ++ ys).getD offset d = ys.getD (offset - xs.length) d := List.getD_append_right _ _ _ _ h

@[simp] theorem flagByte_length (b : Bool) : (flagByte b).length = 1 := by
  simp only [flagByte, List.length_cons, List.length_nil]

@[simp] theorem flagField_flagByte (b : Bool) (rest : List Byte) : flagField (flagByte b ++ rest) 0 = b := by
  cases b <;> rfl

/-! ### Positions in lists read back -/

@[simp] theorem field_rateClass (x : RateClass) (rest : List Byte) : field (beBytes 1 x.code ++ rest) 0 1 = x.code.toNat := by
  cases x <;> rfl
@[simp] theorem field_conceal (x : ConcealMode) (rest : List Byte) : field (beBytes 1 x.code ++ rest) 0 1 = x.code.toNat := by
  cases x <;> rfl
@[simp] theorem field_delayMode (x : DelayMode) (rest : List Byte) : field (beBytes 1 x.code ++ rest) 0 1 = x.code.toNat := by
  cases x <;> rfl
@[simp] theorem field_glideRate (x : GlideRate) (rest : List Byte) : field (beBytes 1 x.code ++ rest) 0 1 = x.code.toNat := by
  cases x <;> rfl
@[simp] theorem field_autoManual (x : AutoManual) (rest : List Byte) : field (beBytes 1 x.code ++ rest) 0 1 = x.code.toNat := by
  cases x <;> rfl
@[simp] theorem field_condKind (x : CondKind) (rest : List Byte) : field (beBytes 1 x.code ++ rest) 0 1 = x.code.toNat := by
  cases x <;> rfl
@[simp] theorem field_qualify (x : QualifyMode) (rest : List Byte) : field (beBytes 1 x.code ++ rest) 0 1 = x.code.toNat := by
  cases x <;> rfl
@[simp] theorem field_severity (x : Severity) (rest : List Byte) : field (beBytes 1 x.code ++ rest) 0 1 = x.code.toNat := by
  cases x <;> rfl
@[simp] theorem field_timing (x : Timing) (rest : List Byte) : field (beBytes 1 x.code ++ rest) 0 1 = x.code.toNat := by
  cases x <;> rfl
@[simp] theorem field_refSelect (x : RefSelect) (rest : List Byte) : field (beBytes 1 x.code ++ rest) 0 1 = x.code.toNat := by
  cases x <;> rfl

@[simp] theorem RateClass.ofCode_code (x : RateClass) : RateClass.ofCode x.code.toNat = some x := by cases x <;> rfl
@[simp] theorem ConcealMode.ofCode_code (x : ConcealMode) : ConcealMode.ofCode x.code.toNat = some x := by cases x <;> rfl
@[simp] theorem DelayMode.ofCode_code (x : DelayMode) : DelayMode.ofCode x.code.toNat = some x := by cases x <;> rfl
@[simp] theorem GlideRate.ofCode_code (x : GlideRate) : GlideRate.ofCode x.code.toNat = some x := by cases x <;> rfl
@[simp] theorem AutoManual.ofCode_code (x : AutoManual) : AutoManual.ofCode x.code.toNat = some x := by cases x <;> rfl
@[simp] theorem CondKind.ofCode_code (x : CondKind) : CondKind.ofCode x.code.toNat = some x := by cases x <;> rfl
@[simp] theorem QualifyMode.ofCode_code (x : QualifyMode) : QualifyMode.ofCode x.code.toNat = some x := by cases x <;> rfl
@[simp] theorem Severity.ofCode_code (x : Severity) : Severity.ofCode x.code.toNat = some x := by cases x <;> rfl
@[simp] theorem Timing.ofCode_code (x : Timing) : Timing.ofCode x.code.toNat = some x := by cases x <;> rfl
@[simp] theorem RefSelect.ofCode_code (x : RefSelect) : RefSelect.ofCode x.code.toNat = some x := by cases x <;> rfl

/-! ### Lane entries (R15) -/

/-- A lane entry as a WRITE carries it. -/
def LaneEntry.carried (e : LaneEntry) : LaneWrite :=
  ⟨e.defined, e.origin, e.tag, e.rateClass.code.toNat, e.startPage, e.sizePages, e.conceal.code.toNat, e.lostTime⟩

theorem laneWrite_bytes (a b : Byte) (rest : List Byte) {e : LaneEntry} (hstart : e.startPage < 2 ^ (8 * 2))
    (hsize : e.sizePages < 2 ^ (8 * 2)) (hlost : e.lostTime < 2 ^ (8 * 2)) :
    laneWrite (a :: b :: (e.bytes ++ rest)) = e.carried := by
  simp [-List.getD_eq_getElem?_getD, List.getD_cons_succ, List.getD_cons_zero, laneWrite, LaneEntry.bytes, LaneEntry.carried, field_nat hstart, field_nat hsize,
    field_nat hlost]

theorem clampNat_of_mem {lo hi x : Nat} (hlow : lo ≤ x) (hhigh : x ≤ hi) : clampNat lo hi x = x := by
  rw [clampNat, if_neg (Nat.not_lt.mpr hlow), if_neg (Nat.not_lt.mpr hhigh)]

theorem LaneEntry.entry_carried {e : LaneEntry} (hlow : 5 ≤ e.lostTime) (hhigh : e.lostTime ≤ 2000) :
    e.carried.entry e.rateClass e.conceal = e := by
  simp only [LaneEntry.carried, LaneWrite.entry, clampNat_of_mem hlow hhigh]

/-! ### Profiles, weightings, egress map, settings and band sets (R77, R94, R110, R152, R171) -/

theorem profileWrite_bytes (a b : Byte) (rest : List Byte) {e : Profile} (h : e.clamp = e) :
    profileWrite (a :: b :: (e.bytes ++ rest)) = e := by
  rw [Profile.clamp_eq] at h
  obtain ⟨target, maxBoost, maxCut, attack, release, holdGate, absGate, relGate⟩ := e
  simp only [Profile.mk.injEq] at h
  obtain ⟨htarget, hboost, hcut, hattack, hrelease, hhold, habs, hrel⟩ := h
  simp only [profileWrite, Profile.bytes, List.append_assoc, signedField_cons_succ, signedField_append_right, beBytes_length,
    Nat.reduceLeDiff, Nat.reduceSub, le_refl, Nat.sub_self, Profile.mk.injEq]
  refine ⟨?_, ?_, ?_, ?_, ?_, ?_, ?_, ?_⟩ <;> refine signedField_beBytes ?_ ?_ (by omega) _ <;> norm_num <;> omega

theorem field_word (x : BitVec 32) (rest : List Byte) : field (beBytes 4 x.toNat ++ rest) 0 4 = x.toNat :=
  field_nat x.isLt rest

theorem biquadField_bytes (e : Biquad) (rest : List Byte) : biquadField (e.bytes ++ rest) 0 = e := by
  simp [biquadField, Biquad.bytes, field_word e.b0, field_word e.b1, field_word e.b2, field_word e.a1,
    field_word e.a2]

theorem biquadField_append_right {xs ys : List Byte} {offset : Nat} (h : xs.length ≤ offset) :
    biquadField (xs ++ ys) offset = biquadField ys (offset - xs.length) := by
  have hat : ∀ k, field (xs ++ ys) (offset + k) 4 = field ys (offset - xs.length + k) 4 := fun k => by
    rw [field_append_right (by omega), Nat.sub_add_comm h]
  have hhere := hat 0
  rw [Nat.add_zero, Nat.add_zero] at hhere
  simp only [biquadField, hat, hhere]

theorem Biquad.bytes_length (e : Biquad) : e.bytes.length = 20 := by simp [Biquad.bytes]

theorem weightingWrite_bytes (a b : Byte) (rest : List Byte) (e : Weighting) :
    weightingWrite (a :: b :: (e.bytes ++ rest)) = e := by
  have hbytes : a :: b :: (e.bytes ++ rest) = [a, b] ++ (e.first.bytes ++ (e.second.bytes ++ rest)) := by
    rw [Weighting.bytes, List.append_assoc]
    rfl
  have hlength := e.first.bytes_length
  have hfirst : biquadField (a :: b :: (e.bytes ++ rest)) 2 = e.first := by
    rw [hbytes, biquadField_append_right (xs := [a, b]) (by simp)]
    exact biquadField_bytes _ _
  have hsecond : biquadField (a :: b :: (e.bytes ++ rest)) 22 = e.second := by
    rw [hbytes, biquadField_append_right (by simp), biquadField_append_right (by simp [hlength]), hlength]
    exact biquadField_bytes _ _
  rw [weightingWrite, hfirst, hsecond]

theorem mapWrite_bytes (a b : Byte) (rest : List Byte) (e : MapEntry) :
    mapWrite (a :: b :: (e.bytes ++ rest)) = ⟨e.enabled, e.tag, e.slot.val, e.program.val, e.member.val⟩ := by
  have hslot : e.slot.val < 2 ^ (8 * 1) := e.slot.isLt.trans (by norm_num)
  have hprogram : e.program.val < 2 ^ (8 * 1) := e.program.isLt.trans (by norm_num)
  have hmember : e.member.val < 2 ^ (8 * 1) := e.member.isLt.trans (by norm_num)
  simp [-List.getD_eq_getElem?_getD, List.getD_cons_succ, List.getD_cons_zero, mapWrite, MapEntry.bytes, field_nat hslot, field_nat hprogram,
    field_nat hmember]

theorem settings_bytes (a b : Byte) (rest : List Byte) (e : Settings) :
    field (a :: b :: (e.bytes ++ rest)) 2 1 = e.node.toNat ∧
      RefSelect.ofCode (field (a :: b :: (e.bytes ++ rest)) 3 1) = some e.select := by
  have hnode : e.node.toNat < 2 ^ (8 * 1) := e.node.isLt.trans (by norm_num)
  simp [Settings.bytes, field_nat hnode]

theorem bandSet_bytes (a b : Byte) (rest : List Byte) {e : BandSet} (hfirst : e.b1 ≤ 255) (hsecond : e.b2 ≤ 4095) :
    field (a :: b :: (e.bytes ++ rest)) 2 2 = e.b1 ∧ field (a :: b :: (e.bytes ++ rest)) 4 2 = e.b2 := by
  have hb1 : e.b1 < 2 ^ (8 * 2) := by omega
  have hb2 : e.b2 < 2 ^ (8 * 2) := by omega
  simp [BandSet.bytes, field_nat hb1, field_nat hb2]

/-! ### Coefficient taps (R67) -/

theorem tapValue_bytes (a b phase first count : Byte) (rest : List Byte) (taps : List Sample) {i : Nat} (h : i < taps.length) :
    tapValue (a :: b :: phase :: first :: count :: ((taps.flatMap fun c => beBytes 3 c.toInt) ++ rest)) i = taps[i] := by
  have hflat : (taps.flatMap fun c => beBytes 3 c.toInt) = ((taps.map BitVec.toInt).map fun x => beBytes 3 x).flatten := by
    rw [List.flatMap_def, List.map_map]
    rfl
  have hread := field_flatten 3 (taps.map BitVec.toInt) rest (i := i) (by simpa using h)
  rw [tapValue, hflat, Nat.add_comm 5]
  simp only [field_cons_succ]
  apply BitVec.eq_of_toInt_eq
  rw [← BitVec.ofInt_natCast, hread, List.getElem_map, BitVec.toInt_ofInt]
  exact (Int.emod_bmod _ _).trans (BitVec.toInt_bmod_cancel _)

/-! ### Rules (R128) -/

/-- The positions of a rule's entry. -/
def Rule.names (e : Rule) : RuleNames := ⟨e.kind, e.scope, e.qualify, e.ackMode, e.severity, e.timing⟩

/-- A rule as a WRITE carries it. -/
def Rule.carried (e : Rule) : RuleWrite where
  enabled := e.enabled
  kind := e.kind.code.toNat
  scope := (scopeCode e.scope).toNat
  level := e.level
  qualify := e.qualify.code.toNat
  n := e.n
  w := e.w
  releaseTime := e.releaseTime
  stretch := e.stretch
  ackMode := e.ackMode.code.toNat
  severity := e.severity.code.toNat
  actions := e.actions
  notice := e.notice
  timing := e.timing.code.toNat

theorem scopeCode_lt (x : Option (Fin 16)) : (scopeCode x).toNat < 2 ^ (8 * 1) ∧ ((scopeCode x).toNat : Int) = scopeCode x := by
  cases x with
  | none => exact ⟨by decide, rfl⟩
  | some p =>
    have hp : p.val < 2 ^ (8 * 1) := p.isLt.trans (by norm_num)
    exact ⟨hp, rfl⟩

@[simp] theorem field_scopeCode (x : Option (Fin 16)) (rest : List Byte) :
    field (beBytes 1 (scopeCode x) ++ rest) 0 1 = (scopeCode x).toNat := by
  obtain ⟨hlt, hcast⟩ := scopeCode_lt x
  have hfield := field_nat hlt rest
  rwa [hcast] at hfield

theorem toFin?_scopeCode (x : Option (Fin 16)) : (scopeCode x).toNat ≤ 16 ∧ toFin? 16 (scopeCode x).toNat = x := by
  cases x with
  | none => exact ⟨le_refl _, rfl⟩
  | some p =>
    have := p.isLt
    exact ⟨by simp only [scopeCode, Int.toNat_natCast]; omega, toFin?_of_eq (Int.toNat_natCast _)⟩

/-- The actions byte holds a bit for each action. -/
theorem actions_byte (x : Actions) (rest : List Byte) (d : Byte) :
    (Actions.mk ((beBytes 1 x.code ++ rest).getD 0 d)[0] ((beBytes 1 x.code ++ rest).getD 0 d)[1]
      ((beBytes 1 x.code ++ rest).getD 0 d)[2] ((beBytes 1 x.code ++ rest).getD 0 d)[3]) = x := by
  have hbyte : (beBytes 1 x.code ++ rest).getD 0 d = BitVec.ofInt 8 x.code := by simp [beBytes]
  rw [hbyte]
  obtain ⟨mute, freeze, holdDelay, changeover⟩ := x
  cases mute <;> cases freeze <;> cases holdDelay <;> cases changeover <;> decide

section RuleEntry
variable {e : Rule}

theorem ruleWrite_bytes (a b : Byte) (rest : List Byte) (hlow : -7000 ≤ e.level) (hhigh : e.level ≤ 7000)
    (hn : e.n ≤ 60000) (hw : e.w ≤ 60000) (hrelease : e.releaseTime ≤ 60000) (hstretch : e.stretch ≤ 60000) :
    ruleWrite (a :: b :: (e.bytes ++ rest)) = e.carried := by
  have hn : e.n < 2 ^ (8 * 2) := by omega
  have hw : e.w < 2 ^ (8 * 2) := by omega
  have hrelease : e.releaseTime < 2 ^ (8 * 2) := by omega
  have hstretch : e.stretch < 2 ^ (8 * 2) := by omega
  have hlevel : ∀ rest, signedField (beBytes 2 e.level ++ rest) 0 2 = e.level :=
    signedField_beBytes (by norm_num; omega) (by norm_num; omega) (by omega)
  simp [-List.getD_eq_getElem?_getD, List.getD_cons_succ, ruleWrite, Rule.bytes, Rule.carried, field_nat hn, field_nat hw,
    field_nat hrelease, field_nat hstretch, hlevel, actions_byte]

theorem Rule.names_carried : e.carried.names = some e.names := by
  obtain ⟨hle, hscope⟩ := toFin?_scopeCode e.scope
  simp [RuleWrite.names, Rule.carried, Rule.names, hle, hscope]

theorem clampQualify_of_mem {mode : QualifyMode} {n w : Nat} (hn : 1 ≤ n) (hn' : n ≤ 60000) (hw : 1 ≤ w) (hw' : w ≤ 60000)
    (hcount : mode = .count → n ≤ w) : clampQualify mode n w = n := by
  cases mode with
  | persist => exact clampNat_of_mem hn hn'
  | count => rw [clampQualify, clampNat_of_mem hn hn', clampNat_of_mem hw hw', Nat.min_eq_left (hcount rfl)]

theorem Rule.rule_carried (hlow : -7000 ≤ e.level) (hhigh : e.level ≤ 7000) (hn : 1 ≤ e.n) (hn' : e.n ≤ 60000)
    (hw : 1 ≤ e.w) (hw' : e.w ≤ 60000) (hcount : e.qualify = .count → e.n ≤ e.w) (hrelease : e.releaseTime ≤ 60000)
    (hstretch : e.stretch ≤ 60000) : e.carried.rule e.names = e := by
  have hlevel : clampInt (-7000) 7000 e.level = e.level := by
    rw [clampInt_eq (by norm_num)]
    omega
  simp only [Rule.carried, Rule.names, RuleWrite.rule, hlevel, clampQualify_of_mem hn hn' hw hw' hcount,
    clampNat_of_mem hw hw', Nat.min_eq_left hrelease, Nat.min_eq_left hstretch]

theorem Rule.clamped_carried : e.carried.clamped e = false := by
  simp [Rule.carried, RuleWrite.clamped]

end RuleEntry

/-! ### Program entries (R38) -/

/-- The positions of a program's entry. -/
def ProgramEntry.names (e : ProgramEntry) : ProgramNames :=
  ⟨e.profile, e.bank, e.delayMode, e.bandSet, e.glideRate, e.revertMode⟩

/-- A program entry as a WRITE carries it. -/
def ProgramEntry.carried (e : ProgramEntry) : ProgramWrite where
  defined := e.defined
  count := e.members.length
  members := e.members.map Fin.val
  weights := e.weights
  profile := e.profile.val
  bank := e.bank.val
  houseLocked := e.houseLocked
  delayMode := e.delayMode.code.toNat
  manualDelay := e.manualDelay
  picture := e.picture
  pictureOffset := e.pictureOffset
  deadband := e.deadband
  pictureTimeout := e.pictureTimeout
  cushion := e.cushion
  bandSet := e.bandSet.val
  glideRate := e.glideRate.code.toNat
  jumpThreshold := e.jumpThreshold
  warmUp := e.warmUp
  alternate := e.alternate.map Fin.val
  revertMode := e.revertMode.code.toNat
  revertTime := e.revertTime
  meterInterval := e.meterInterval
  autoStart := e.autoStart

/-- The eight member bytes. -/
def ProgramEntry.memberBytes (e : ProgramEntry) : List Byte :=
  (List.range 8).map fun i => BitVec.ofNat 8 ((e.members.map Fin.val).getD i 0)

/-- The eight weights in their bytes. -/
def ProgramEntry.weightBytes (e : ProgramEntry) : List Byte := (e.weights.toList.map fun w => beBytes 2 w).flatten

/-- The picture source in its three bytes. -/
def ProgramEntry.pictureBytes (e : ProgramEntry) : List Byte :=
  match e.picture with
  | some (n, t) => [1, n, t]
  | none => [0, 0, 0]

@[simp] theorem ProgramEntry.memberBytes_length (e : ProgramEntry) : e.memberBytes.length = 8 := by
  simp [ProgramEntry.memberBytes]

@[simp] theorem ProgramEntry.weightBytes_length (e : ProgramEntry) : e.weightBytes.length = 16 := by
  simp [ProgramEntry.weightBytes, List.length_flatten, Function.comp_def]

@[simp] theorem ProgramEntry.pictureBytes_length (e : ProgramEntry) : e.pictureBytes.length = 3 := by
  unfold ProgramEntry.pictureBytes
  split <;> simp

@[simp] theorem optBytes_length (width : Nat) (x : Option Int) : (optBytes width x).length = width + 1 := by
  cases x <;> simp [optBytes]

theorem ProgramEntry.weightBytes_eq (e : ProgramEntry) :
    e.weightBytes = ((e.weights.toList.map fun w : Nat => (w : Int)).map fun x => beBytes 2 x).flatten := by
  rw [ProgramEntry.weightBytes, bind_pure_comp, List.map_eq_map]

theorem ProgramEntry.field_member (e : ProgramEntry) (rest : List Byte) {i : Nat} (h : i < e.members.length)
    (hi : i < 8) : field (e.memberBytes ++ rest) i 1 = e.members[i].val := by
  have hsmall : e.members[i].val < 256 := e.members[i].isLt.trans (by norm_num)
  rw [field_append_left (by simp; omega)]
  simp [field, beNat, ProgramEntry.memberBytes, hi, h, hsmall]

theorem ProgramEntry.field_weight (e : ProgramEntry) (rest : List Byte) {i : Nat} (h : i < 8) (hw : e.weights[i] ≤ 2000) :
    field (e.weightBytes ++ rest) (2 * i) 2 = e.weights[i] := by
  have hread := field_flatten 2 (e.weights.toList.map fun w : Nat => (w : Int)) rest (i := i) (by simpa using h)
  rw [← e.weightBytes_eq] at hread
  simp only [List.getElem_map, Vector.getElem_toList] at hread
  omega

theorem ProgramEntry.picture_bytes (e : ProgramEntry) (rest : List Byte) :
    (if flagField (e.pictureBytes ++ rest) 0 = true then
      some ((e.pictureBytes ++ rest).getD 1 0#8, (e.pictureBytes ++ rest).getD 2 0#8) else none) = e.picture := by
  unfold ProgramEntry.pictureBytes
  split
  · next n t h =>
    rw [h]
    rfl
  · next h =>
    rw [h]
    rfl

theorem alternate_bytes (x : Option (Fin 16)) (rest : List Byte) :
    (if flagField (optBytes 1 (x.map fun p => (p.val : Int)) ++ rest) 0 = true then
      some (field (optBytes 1 (x.map fun p => (p.val : Int)) ++ rest) 1 1) else none) = x.map Fin.val := by
  cases x with
  | none => rfl
  | some p =>
    have hp : p.val < 2 ^ (8 * 1) := p.isLt.trans (by norm_num)
    have hfield := field_nat hp rest
    have hbyte : optBytes 1 ((some p).map fun p => (p.val : Int)) ++ rest = 1 :: (beBytes 1 p.val ++ rest) := rfl
    rw [hbyte, field_cons_succ, hfield]
    rfl

/-- The bytes of a program entry, part by part. -/
theorem ProgramEntry.bytes_eq (e : ProgramEntry) : e.bytes =
    flagByte e.defined ++ beBytes 1 e.members.length ++ e.memberBytes ++ e.weightBytes ++ beBytes 1 e.profile.val ++
      beBytes 1 e.bank.val ++ flagByte e.houseLocked ++ beBytes 1 e.delayMode.code ++ beBytes 3 e.manualDelay ++
      e.pictureBytes ++ beBytes 3 e.pictureOffset ++ beBytes 2 e.deadband ++ beBytes 2 e.pictureTimeout ++
      beBytes 2 e.cushion ++ beBytes 1 e.bandSet.val ++ beBytes 1 e.glideRate.code ++ beBytes 3 e.jumpThreshold ++
      beBytes 2 e.warmUp ++ optBytes 1 (e.alternate.map fun p => (p.val : Int)) ++ beBytes 1 e.revertMode.code ++
      beBytes 2 e.revertTime ++ beBytes 1 e.meterInterval ++ flagByte e.autoStart := rfl

/-- The fields of a program entry are within their ranges (R38). -/
structure ProgramEntry.InRange (e : ProgramEntry) : Prop where
  members : e.members.length ≤ 8
  undefined : e.defined = false → e.members = []
  weights : ∀ w ∈ e.weights.toList, w ≤ 2000
  manualDelay : e.manualDelay ≤ 480000
  offsetLow : -48000 ≤ e.pictureOffset
  offsetHigh : e.pictureOffset ≤ 48000
  deadband : e.deadband ≤ 4800
  timeoutLow : 100 ≤ e.pictureTimeout
  timeoutHigh : e.pictureTimeout ≤ 10000
  cushionLow : 24 ≤ e.cushion
  cushionHigh : e.cushion ≤ 480
  jump : e.jumpThreshold = 0 ∨ (256 ≤ e.jumpThreshold ∧ e.jumpThreshold ≤ 480000)
  warmUp : e.warmUp ≤ 2000
  revertLow : 100 ≤ e.revertTime
  revertHigh : e.revertTime ≤ 60000
  meterInterval : e.meterInterval ≤ 100

section ProgramBytes
variable {e : ProgramEntry} (h : e.InRange)
include h

theorem ProgramEntry.weight_le {i : Nat} (hi : i < 8) : e.weights[i] ≤ 2000 :=
  h.weights _ (by rw [← Vector.getElem_toList (by simpa using hi)]; exact List.getElem_mem _)

theorem programWrite_bytes (a b : Byte) (rest : List Byte) : programWrite (a :: b :: (e.bytes ++ rest)) = e.carried := by
  have hcount : e.members.length < 2 ^ (8 * 1) := by have := h.members; omega
  have hprofile : e.profile.val < 2 ^ (8 * 1) := e.profile.isLt.trans (by norm_num)
  have hbank : e.bank.val < 2 ^ (8 * 1) := e.bank.isLt.trans (by norm_num)
  have hband : e.bandSet.val < 2 ^ (8 * 1) := e.bandSet.isLt.trans (by norm_num)
  have hdelay : e.manualDelay < 2 ^ (8 * 3) := by have := h.manualDelay; omega
  have hdead : e.deadband < 2 ^ (8 * 2) := by have := h.deadband; omega
  have htimeout : e.pictureTimeout < 2 ^ (8 * 2) := by have := h.timeoutHigh; omega
  have hcushion : e.cushion < 2 ^ (8 * 2) := by have := h.cushionHigh; omega
  have hjump : e.jumpThreshold < 2 ^ (8 * 3) := by have := h.jump; omega
  have hwarm : e.warmUp < 2 ^ (8 * 2) := by have := h.warmUp; omega
  have hrevert : e.revertTime < 2 ^ (8 * 2) := by have := h.revertHigh; omega
  have hmeter : e.meterInterval < 2 ^ (8 * 1) := by have := h.meterInterval; omega
  have hlow := h.offsetLow
  have hhigh := h.offsetHigh
  have hoffset : ∀ rest, signedField (beBytes 3 e.pictureOffset ++ rest) 0 3 = e.pictureOffset :=
    signedField_beBytes (by norm_num; omega) (by norm_num; omega) (by omega)
  have hweights : ∀ rest, (Vector.ofFn fun i : Fin 8 => field (e.weightBytes ++ rest) (2 * i.val) 2) = e.weights :=
    fun rest => Vector.ext fun i hi => by
      rw [Vector.getElem_ofFn]
      exact e.field_weight rest hi (ProgramEntry.weight_le h hi)
  have hmembers : ∀ rest, ((List.range e.members.length).map fun i => field (e.memberBytes ++ rest) i 1) =
      e.members.map Fin.val := fun rest => List.ext_getElem (by simp) fun i hi _ => by
    have hi : i < e.members.length := by simpa using hi
    have := h.members
    rw [List.getElem_map, List.getElem_map, List.getElem_range, e.field_member rest hi (by omega)]
  have hmin : min e.members.length 8 = e.members.length := Nat.min_eq_left h.members
  have hmemberAt : ∀ (n : Int) (ys : List Byte) (i : Nat),
      field (a :: b :: (flagByte e.defined ++ (beBytes 1 n ++ ys))) (4 + i) 1 = field ys i 1 := fun n ys i => by
    have hsplit : a :: b :: (flagByte e.defined ++ (beBytes 1 n ++ ys)) =
        (a :: b :: (flagByte e.defined ++ beBytes 1 n)) ++ ys := by simp
    rw [hsplit, field_append_right (by simp)]
    simp
  have hweightAt : ∀ (n : Int) (ys : List Byte) (i : Nat),
      field (a :: b :: (flagByte e.defined ++ (beBytes 1 n ++ (e.memberBytes ++ ys)))) (12 + 2 * i) 2 = field ys (2 * i) 2 :=
    fun n ys i => by
      have hsplit : a :: b :: (flagByte e.defined ++ (beBytes 1 n ++ (e.memberBytes ++ ys))) =
          (a :: b :: (flagByte e.defined ++ (beBytes 1 n ++ e.memberBytes))) ++ ys := by simp
      rw [hsplit, field_append_right (by simp)]
      simp
  rw [e.bytes_eq]
  simp [-List.getD_eq_getElem?_getD, List.getD_cons_succ, programWrite, ProgramEntry.carried, field_nat hcount,
    field_nat hprofile, field_nat hbank, field_nat hband, field_nat hdelay, field_nat hdead, field_nat htimeout,
    field_nat hcushion, field_nat hjump, field_nat hwarm, field_nat hrevert, field_nat hmeter, hoffset, hmin, hmemberAt,
    hweightAt, hmembers, hweights, e.picture_bytes, alternate_bytes]

theorem ProgramEntry.entry_carried : e.carried.entry e.names = e := by
  have hmembers : (if e.defined = true then (e.members.map Fin.val).filterMap (toFin? 32) else []) = e.members := by
    rw [filterMap_toFin?_val]
    split
    · rfl
    · next hnot => exact (h.undefined (eq_false_of_ne_true hnot)).symm
  have hweights : (e.weights.map fun x => min x 2000) = e.weights := Vector.ext fun i hi => by
    rw [Vector.getElem_map]
    exact Nat.min_eq_left (ProgramEntry.weight_le h hi)
  have hoffset : clampInt (-48000) 48000 e.pictureOffset = e.pictureOffset := by
    have hlow := h.offsetLow
    have hhigh := h.offsetHigh
    rw [clampInt_eq (by norm_num)]
    omega
  have hjump : clampJump e.jumpThreshold = e.jumpThreshold := by
    unfold clampJump
    split
    · next hzero => exact hzero.symm
    · next hne =>
      obtain ⟨hlow, hhigh⟩ := h.jump.resolve_left hne
      exact clampNat_of_mem hlow hhigh
  have halternate : (e.alternate.map Fin.val).bind (toFin? 16) = e.alternate := by
    cases e.alternate with
    | none => rfl
    | some p => exact toFin?_of_eq rfl
  simp only [ProgramEntry.carried, ProgramEntry.names, ProgramWrite.entry, hweights, hoffset, hjump, halternate,
    Nat.min_eq_left h.manualDelay, Nat.min_eq_left h.deadband, clampNat_of_mem h.timeoutLow h.timeoutHigh,
    clampNat_of_mem h.cushionLow h.cushionHigh, Nat.min_eq_left h.warmUp, clampNat_of_mem h.revertLow h.revertHigh,
    Nat.min_eq_left h.meterInterval]
  exact congrArg (fun members => ({ e with members := members } : ProgramEntry)) hmembers

end ProgramBytes

theorem ProgramEntry.names_carried (e : ProgramEntry) : e.carried.names = some e.names := by
  have hfin : ∀ {n : Nat} (i : Fin n), toFin? n i.val = some i := fun i => toFin?_of_eq rfl
  simp [ProgramWrite.names, ProgramEntry.carried, ProgramEntry.names, hfin]

theorem ProgramEntry.clamped_carried (e : ProgramEntry) : e.carried.clamped e = false := by
  simp [ProgramEntry.carried, ProgramWrite.clamped]

/-- Settles O52: each layout's bytes are the entry as carried, and an entry within its ranges is stored as carried. -/
theorem entriesReadBackAsWritten : Obligations.EntriesReadBackAsWritten := by
  intro a b rest
  refine ⟨fun e hstart hsize hlow hhigh => ?lane, fun e hmembers hundefined hweights hdelay hoffsetLow hoffsetHigh hdead
    htimeoutLow htimeoutHigh hcushionLow hcushionHigh hjump hwarm hrevertLow hrevertHigh hmeter => ?program,
    fun e h => profileWrite_bytes a b rest h, fun e hlow hhigh hn hn' hw hw' hcount hrelease hstretch => ?rule,
    weightingWrite_bytes a b rest, mapWrite_bytes a b rest, settings_bytes a b rest,
    fun e hfirst hsecond => bandSet_bytes a b rest hfirst hsecond,
    fun phase first count taps i h => tapValue_bytes a b phase first count rest taps h⟩
  case lane =>
    rw [laneWrite_bytes a b rest (by omega) (by omega) (by omega)]
    exact ⟨RateClass.ofCode_code _, ConcealMode.ofCode_code _, LaneEntry.entry_carried hlow hhigh⟩
  case program =>
    have h : e.InRange := ⟨hmembers, hundefined, hweights, hdelay, hoffsetLow, hoffsetHigh, hdead, htimeoutLow, htimeoutHigh,
      hcushionLow, hcushionHigh, hjump, hwarm, hrevertLow, hrevertHigh, hmeter⟩
    rw [programWrite_bytes h]
    exact ⟨rfl, e.names, e.names_carried, ProgramEntry.entry_carried h, e.clamped_carried⟩
  case rule =>
    rw [ruleWrite_bytes a b rest hlow hhigh hn' hw' hrelease hstretch]
    exact ⟨e.names, Rule.names_carried, Rule.rule_carried hlow hhigh hn hn' hw hw' hcount hrelease hstretch,
      Rule.clamped_carried⟩

end Sys2Proof.Machine
end

section
/-! SUPPORT. An order taken now is carried out (R166, R167): the READs (R170), the STATUS orders (R172 to R174), and that a
refused order changes nothing (R167). -/

namespace Sys2Proof.Machine

/-! ### An order taken now -/

/-- The commands that carry an order out. -/
def Instr.carriesOrder : Instr → Bool
  | .unknownOrder | .writeLane | .writeProgram | .writeProfile | .writeWeighting | .writeCoefficients | .writeBandSet
  | .writeRule | .writeEgressMap | .writeSettings | .readLane | .readProgram | .readProfile | .readWeighting
  | .readCoefficients | .readBandSet | .readRule | .readEgressMap | .readSettings | .statusPart | .statusLane | .statusRule
  | .statusProgramPlay | .statusProgramServo | .statusProgramMeter | .statusProgramGain | .statusProgramChangeover
  | .statusProgramCounters | .start | .park | .delay | .changeover | .acknowledge | .cue | .reset => true
  | _ => false

theorem writeRow_carriesOrder (n : Nat) : Instr.carriesOrder (writeRow n) = true := by
  unfold writeRow
  split <;> rfl

theorem readRow_carriesOrder (n : Nat) : Instr.carriesOrder (readRow n) = true := by
  unfold readRow
  split <;> rfl

theorem viewRow_carriesOrder (n : Nat) : Instr.carriesOrder (viewRow n) = true := by
  unfold viewRow
  split <;> rfl

theorem statusRow_carriesOrder (n k : Nat) : Instr.carriesOrder (match n with
    | 0 => .statusPart
    | 1 => .statusLane
    | 2 => viewRow k
    | 3 => .statusRule
    | _ => .unknownOrder) = true := by
  split
  · rfl
  · rfl
  · exact viewRow_carriesOrder k
  · rfl
  · rfl

theorem Order.row_carriesOrder (o : Order) : Instr.carriesOrder o.row = true := by
  unfold Order.row
  split
  · exact writeRow_carriesOrder _
  · exact readRow_carriesOrder _
  · exact statusRow_carriesOrder _ _
  all_goals rfl

/-- What the command of an order's row does: the Order Unit's step, with the order carried out (R166). -/
theorem exec_orderRow {i : Instr} (hi : Instr.carriesOrder i = true) : ∃ effect : State → Order → State,
    (∀ s, exec i s = .next (s.orderCommand i effect)) ∧ ∀ (t : State) (o : Order), o.row = i → effect t o = t.carryOut o := by
  cases i with
  | unknownOrder | writeLane | writeProgram | writeProfile | writeWeighting | writeCoefficients | writeBandSet | writeRule
  | writeEgressMap | writeSettings | readLane | readProgram | readProfile | readWeighting | readCoefficients | readBandSet
  | readRule | readEgressMap | readSettings | statusPart | statusLane | statusRule | statusProgramPlay | statusProgramServo
  | statusProgramMeter | statusProgramGain | statusProgramChangeover | statusProgramCounters | start | park | delay
  | changeover | acknowledge | cue | reset => exact ⟨_, fun _ => rfl, fun t o hrow => by rw [State.carryOut, hrow]⟩
  | _ => exact Bool.noConfusion hi

/-- An order taken now leaves the intake and is carried out. -/
theorem exec_of_takes {s : State} {o : Order} (h : s.takesNow o) {i : Instr} (hrow : o.row = i) :
    exec i s = .next (s.dropHead.carryOut o) := by
  obtain ⟨effect, hexec, heffect⟩ := exec_orderRow (hrow ▸ o.row_carriesOrder)
  rw [hexec, State.orderCommand_of_takes h hrow effect, heffect _ o hrow]

/-! ### READ (R170) -/

section Read
variable {s : State} {o : Order} {row : Instr} {n : Nat} {bytes : Fin n → List Byte}
  (hrun : exec row s = .next (s.dropHead.finishRead o (o.readEntry n bytes)))
include hrun

theorem exec_read_at {i : Fin n} (hi : o.index = i.val) :
    exec row s = .next (s.dropHead.answer o .done (o.args.take 2 ++ bytes i)) := by
  rw [hrun, Order.readEntry_at hi]
  rfl

theorem exec_read_of_le (hi : n ≤ o.index) : exec row s = .next (s.dropHead.answer o .refusedIndex []) := by
  rw [hrun, Order.readEntry_of_le hi]
  rfl

end Read

/-- The three fixed band sets in their bytes (R77). -/
theorem State.bandSet_bytes (s : State) : (s.bandSet 0).bytes = [0, 2, 0, 16] ∧ (s.bandSet 1).bytes = [0, 4, 0, 48] ∧
    (s.bandSet 2).bytes = [0, 12, 0, 192] := by
  have hfixed : BandSet.bytes ⟨2, 16⟩ = [0, 2, 0, 16] ∧ BandSet.bytes ⟨4, 48⟩ = [0, 4, 0, 48] ∧
      BandSet.bytes ⟨12, 192⟩ = [0, 12, 0, 192] := by decide
  exact hfixed

/-- Settles O37: each READ is one lookup by its index, behind the selector and index echoed. -/
theorem readsReturnEntries : Obligations.ReadsReturnEntries := by
  intro s o h
  have run : ∀ {row : Instr} {n : Nat} {bytes : Fin n → List Byte}, o.row = row →
      (o.row = row → s.dropHead.carryOut o = s.dropHead.finishRead o (o.readEntry n bytes)) →
      exec row s = .next (s.dropHead.finishRead o (o.readEntry n bytes)) := fun hrow heq => by
    rw [exec_of_takes h hrow, heq hrow]
  refine ⟨fun hrow => ?_, fun hrow => ?_, fun hrow => ?_, fun hrow => ?_, fun hrow => ?_, fun hrow => ?_, fun hrow => ?_⟩
  · have hrun := run (bytes := fun l => (s.dropHead.laneEntry l).bytes) hrow fun hrow => by rw [State.carryOut, hrow]; rfl
    exact ⟨fun l hl => exec_read_at hrun hl, exec_read_of_le hrun⟩
  · have hrun := run (bytes := fun p => (s.dropHead.entry p).bytes) hrow fun hrow => by rw [State.carryOut, hrow]; rfl
    exact ⟨fun p hp => exec_read_at hrun hp, exec_read_of_le hrun⟩
  · have hrun := run (bytes := fun i : Fin 5 => s.dropHead.tables.weightings[i].bytes) hrow fun hrow => by
      rw [State.carryOut, hrow]; rfl
    exact ⟨fun i hi => exec_read_at hrun hi, exec_read_of_le hrun⟩
  · have hrun := run (bytes := fun i => (s.dropHead.bandSet i).bytes) hrow fun hrow => by rw [State.carryOut, hrow]; rfl
    obtain ⟨hnarrow, hmedium, hwide⟩ := s.dropHead.bandSet_bytes
    refine ⟨fun hi => ?_, fun hi => ?_, fun hi => ?_, exec_read_at (i := 3) hrun, exec_read_of_le hrun⟩
    · rw [exec_read_at (i := 0) hrun hi, hnarrow]
    · rw [exec_read_at (i := 1) hrun hi, hmedium]
    · rw [exec_read_at (i := 2) hrun hi, hwide]
  · have hrun := run (bytes := fun r => (s.dropHead.rule r).bytes) hrow fun hrow => by rw [State.carryOut, hrow]; rfl
    exact ⟨fun r hr => exec_read_at hrun hr, exec_read_of_le hrun⟩
  · have hrun := run (bytes := fun e : Fin 32 => s.dropHead.tables.map[e].bytes) hrow fun hrow => by
      rw [State.carryOut, hrow]; rfl
    exact ⟨fun e he => exec_read_at hrun he, exec_read_of_le hrun⟩
  · have hrun := run (n := 1) (bytes := fun _ => s.dropHead.tables.settings.bytes) hrow fun hrow => by
      rw [State.carryOut, hrow]; rfl
    exact ⟨exec_read_at (i := 0) hrun, exec_read_of_le hrun⟩

/-! ### STATUS (R172 to R174) -/

theorem State.record_clearPart (s : State) (r : Fin 64) : s.clearPart.record r = (s.record r).clearRaises := by
  obtain ⟨t, ht, hclear⟩ := s.clearPart_eq
  have hrecord : t.record r = s.record r := by
    rw [ht]
    simp [State.record, State.clearScalars]
  rw [hclear, ← hrecord]
  simp [State.record]

theorem State.lane_clearPart (s : State) (l : Fin 32) : s.clearPart.lane l = (s.lane l).clearCounters := by
  obtain ⟨t, ht, hclear⟩ := s.clearPart_eq
  rw [hclear, ht]
  simp [State.lane, State.clearScalars, State.mapLanes, State.mapPrograms]

theorem State.program_clearPart (s : State) (p : Fin 16) : s.clearPart.program p = (s.program p).clearCounters := by
  obtain ⟨t, ht, hclear⟩ := s.clearPart_eq
  rw [hclear, ht]
  simp [State.program, State.clearScalars, State.mapLanes, State.mapPrograms]

theorem State.clearPart_frame (s : State) : s.clearPart = { s with
    rx := { s.rx with checkFails := 0, unknownKinds := 0, countErrors := 0, lockLosses := 0 }
    egress := { s.egress with shed := 0 }
    orders := { s.orders with drops := 0 }
    lanes := s.clearPart.lanes, programs := s.clearPart.programs
    alarm := { s.alarm with records := s.clearPart.alarm.records } } := by
  obtain ⟨t, ht, hclear⟩ := s.clearPart_eq
  rw [hclear, ht]
  rfl

section Status
variable {s : State} {o : Order}

theorem State.statusView_at {p : Fin 16} (h : o.index = p.val) (view : Fin 16 → List Byte) :
    s.statusView o view = if o.clear then (.refusedValue, [], s) else (.done, view p, s) := by
  rw [State.statusView, toFin?_of_eq h]

theorem State.statusView_of_le (h : 16 ≤ o.index) (view : Fin 16 → List Byte) :
    s.statusView o view = (.refusedIndex, [], s) := by
  rw [State.statusView, toFin?_of_le h]

theorem State.statusLane_at {l : Fin 32} (h : o.index = l.val) : s.statusLane o =
    (.done, s.laneView l, if o.clear then s.setLane l (s.lane l).clearCounters else s) := by
  rw [State.statusLane, toFin?_of_eq h]

theorem State.statusLane_of_le (h : 32 ≤ o.index) : s.statusLane o = (.refusedIndex, [], s) := by
  rw [State.statusLane, toFin?_of_le h]

theorem State.statusRule_at {r : Fin 64} (h : o.index = r.val) : s.statusRule o =
    (.done, s.ruleView r, if o.clear then s.setRecord r (s.record r).clearRaises else s) := by
  rw [State.statusRule, toFin?_of_eq h]

theorem State.statusRule_of_le (h : 64 ≤ o.index) : s.statusRule o = (.refusedIndex, [], s) := by
  rw [State.statusRule, toFin?_of_le h]

theorem State.statusChangeover_at {p : Fin 16} (h : o.index = p.val) : s.statusChangeover o =
    if o.clear = true ∨ 31 < field o.args 4 1 then (.refusedValue, [], s)
    else (.done, s.changeoverView p (field o.args 4 1), s) := by
  rw [State.statusChangeover, toFin?_of_eq h]
  simp only [Bool.or_eq_true, decide_eq_true_eq]

theorem State.statusChangeover_of_le (h : 16 ≤ o.index) : s.statusChangeover o = (.refusedIndex, [], s) := by
  rw [State.statusChangeover, toFin?_of_le h]

theorem State.statusCounters_at {p : Fin 16} (h : o.index = p.val) : s.statusCounters o =
    (.done, s.countersView p, if o.clear then s.setProgram p (s.program p).clearCounters else s) := by
  rw [State.statusCounters, toFin?_of_eq h]

theorem State.statusCounters_of_le (h : 16 ≤ o.index) : s.statusCounters o = (.refusedIndex, [], s) := by
  rw [State.statusCounters, toFin?_of_le h]

/-- A view that clears nothing, answered. -/
theorem State.finishStatus_view {p : Fin 16} (h : o.index = p.val) (view : Fin 16 → List Byte) :
    Host.Outcome.next (State.finishStatus o (s.statusView o view)) =
      (if o.clear then .next (s.answer o .refusedValue []) else .next (s.answer o .done (view p)) :
        Host.Outcome State Fault Refusal) := by
  rw [State.statusView_at h]
  split <;> rfl

end Status

/-- Settles O38: each STATUS is its view and then what its clear option leaves. -/
theorem statusReturnsViews : Obligations.StatusReturnsViews := by
  intro s o h
  have run : ∀ {row : Instr} {t : State}, o.row = row → (o.row = row → s.dropHead.carryOut o = t) →
      exec row s = .next t := fun hrow heq => by
    rw [exec_of_takes h hrow, heq hrow]
  refine ⟨fun hrow => ?part, fun hrow => ?lane, fun hrow => ?rule, fun p hp => ?program, fun hp => ?beyond⟩
  case part =>
    have hrun := run (t := State.finishStatus o (s.dropHead.statusPart o)) hrow fun hrow => by rw [State.carryOut, hrow]
    refine ⟨fun hclear => ?_, fun hclear => ⟨s.dropHead.clearPart, ?_, s.dropHead.clearPart_frame, fun l => ?_, fun p => ?_,
      fun r => ?_⟩⟩
    · rw [hrun, State.statusPart, hclear]
      rfl
    · rw [hrun, State.statusPart, hclear]
      rfl
    · rw [State.lane_clearPart, State.lane_dropHead]
      rfl
    · rw [State.program_clearPart, State.program_dropHead]
      rfl
    · rw [State.record_clearPart, State.record_dropHead]
      rfl
  case lane =>
    have hrun := run (t := State.finishStatus o (s.dropHead.statusLane o)) hrow fun hrow => by rw [State.carryOut, hrow]
    refine ⟨fun l hl => ?_, fun hl => ?_⟩
    · rw [hrun, State.statusLane_at hl]
      rfl
    · rw [hrun, State.statusLane_of_le hl]
      rfl
  case rule =>
    have hrun := run (t := State.finishStatus o (s.dropHead.statusRule o)) hrow fun hrow => by rw [State.carryOut, hrow]
    refine ⟨fun r hr => ?_, fun hr => ?_⟩
    · rw [hrun, State.statusRule_at hr]
      rfl
    · rw [hrun, State.statusRule_of_le hr]
      rfl
  case program =>
    refine ⟨fun hrow => ?_, fun hrow => ?_, fun hrow => ?_, fun hrow => ?_, fun hrow => ?_, fun hrow => ?_⟩
    · rw [exec_of_takes h hrow, State.carryOut, hrow]
      exact State.finishStatus_view hp _
    · rw [exec_of_takes h hrow, State.carryOut, hrow]
      exact State.finishStatus_view hp _
    · rw [exec_of_takes h hrow, State.carryOut, hrow]
      exact State.finishStatus_view hp _
    · rw [exec_of_takes h hrow, State.carryOut, hrow]
      exact State.finishStatus_view hp _
    · rw [exec_of_takes h hrow, State.carryOut, hrow]
      dsimp only
      rw [State.statusChangeover_at hp]
      split <;> rfl
    · rw [exec_of_takes h hrow, State.carryOut, hrow]
      dsimp only
      rw [State.statusCounters_at hp]
      rfl
  case beyond =>
    have refused : ∀ view, State.finishStatus o (s.dropHead.statusView o view) = s.dropHead.answer o .refusedIndex [] :=
      fun view => by
        rw [State.statusView_of_le hp]
        rfl
    refine ⟨fun hrow => ?_, fun hrow => ?_, fun hrow => ?_, fun hrow => ?_, fun hrow => ?_, fun hrow => ?_⟩
    all_goals rw [exec_of_takes h hrow, State.carryOut, hrow]
    · exact congrArg _ (refused _)
    · exact congrArg _ (refused _)
    · exact congrArg _ (refused _)
    · exact congrArg _ (refused _)
    · dsimp only
      rw [State.statusChangeover_of_le hp]
      rfl
    · dsimp only
      rw [State.statusCounters_of_le hp]
      rfl

end Sys2Proof.Machine
end

section
/-! SUPPORT. A refused order changes nothing but the intake and the reply queue (R167, R168). -/

namespace Sys2Proof.Machine

/-- The status of an order that is carried out (R167). -/
def Status.carried (x : Status) : Prop := x = .done ∨ x = .clamped

theorem doneOr_carried (clamped : Bool) : (doneOr clamped).carried := by
  cases clamped
  · exact .inl rfl
  · exact .inr rfl

/-- A write that is refused leaves the part as it stands. -/
def State.Declines (s : State) (x : Status × State) : Prop := x.1.carried ∨ x.2 = s

/-- The answer of a refused order: no results, and nothing else of the part moved. -/
def State.Refuses (s : State) (o : Order) (t : State) : Prop :=
  ∀ status results, t.orders.replies = s.orders.replies ++ [⟨o.replyTo, o.tag, o.kind, status, results⟩] →
    ¬ status.carried → results = [] ∧ t = s.answer o status []

theorem State.refuses_answer {s u : State} {o : Order} {st : Status} {rs : List Byte}
    (h : st.carried ∨ (rs = [] ∧ u = s)) : s.Refuses o (u.answer o st rs) := by
  intro status results hreplies hrefused
  obtain ⟨-, hlast⟩ := List.append_inj' hreplies rfl
  obtain ⟨rfl, rfl⟩ : st = status ∧ rs = results := by
    simpa using hlast
  obtain ⟨rfl, rfl⟩ := h.resolve_left hrefused
  exact ⟨rfl, rfl⟩

theorem State.refuses_finish {s : State} {o : Order} {x : Status × State} (h : s.Declines x) :
    s.Refuses o (State.finish o x) := State.refuses_answer (h.imp_right fun hs => ⟨rfl, hs⟩)

theorem State.refuses_read {s : State} {o : Order} {x : Status × List Byte} (h : x.1.carried ∨ x.2 = []) :
    s.Refuses o (s.finishRead o x) := State.refuses_answer (h.imp_right fun hrs => ⟨hrs, rfl⟩)

theorem State.refuses_status {s : State} {o : Order} {x : Status × List Byte × State}
    (h : x.1.carried ∨ (x.2.1 = [] ∧ x.2.2 = s)) : s.Refuses o (State.finishStatus o x) := State.refuses_answer h

/-- An order that is owed its reply has made none. -/
theorem State.refuses_recordOwing {s u : State} {o : Order} (h : u.orders.replies = s.orders.replies) (unit : UnitState) :
    s.Refuses o (u.recordOwing o unit) := by
  intro status results hreplies _
  have hlength := congrArg List.length (h.symm.trans hreplies)
  rw [List.length_append, List.length_singleton] at hlength
  omega

theorem Order.readEntry_refuses (o : Order) (n : Nat) (bytes : Fin n → List Byte) :
    (o.readEntry n bytes).1.carried ∨ (o.readEntry n bytes).2 = [] := by
  unfold Order.readEntry
  split
  · exact .inl (.inl rfl)
  · exact .inr rfl

section Orders
variable (s : State) (o : Order)

theorem State.writeLane_declines : s.Declines (s.writeLane o) := by
  unfold State.writeLane
  dsimp only
  split
  · exact .inr rfl
  · split
    · exact .inr rfl
    · split
      · split
        · exact .inr rfl
        · split
          · exact .inr rfl
          · exact .inl (doneOr_carried _)
      · exact .inr rfl

theorem State.writeProgram_declines : s.Declines (s.writeProgram o) := by
  unfold State.writeProgram
  dsimp only
  split
  · exact .inr rfl
  · split
    · exact .inr rfl
    · split
      · exact .inr rfl
      · split
        · exact .inr rfl
        · split
          · exact .inr rfl
          · exact .inl (doneOr_carried _)

theorem State.writeProfile_declines : s.Declines (s.writeProfile o) := by
  unfold State.writeProfile
  dsimp only
  split
  · exact .inr rfl
  · exact .inl (doneOr_carried _)

theorem State.writeWeighting_declines : s.Declines (s.writeWeighting o) := by
  unfold State.writeWeighting
  split
  · exact .inr rfl
  · split
    · exact .inr rfl
    · exact .inl (.inl rfl)

theorem State.writeCoefficients_declines : s.Declines (s.writeCoefficients o) := by
  unfold State.writeCoefficients
  dsimp only
  split
  · split
    · exact .inr rfl
    · split
      · exact .inr rfl
      · exact .inl (.inl rfl)
  · exact .inr rfl

theorem State.writeBandSet_declines : s.Declines (s.writeBandSet o) := by
  unfold State.writeBandSet
  dsimp only
  split
  · exact .inl (doneOr_carried _)
  · exact .inr rfl

theorem State.writeRule_declines : s.Declines (s.writeRule o) := by
  unfold State.writeRule
  dsimp only
  split
  · exact .inr rfl
  · split
    · exact .inr rfl
    · split
      · exact .inl (doneOr_carried _)
      · exact .inr rfl

theorem State.writeEgressMap_declines : s.Declines (s.writeEgressMap o) := by
  unfold State.writeEgressMap
  dsimp only
  split
  · exact .inr rfl
  · split
    · split
      · exact .inr rfl
      · exact .inl (.inl rfl)
    · exact .inr rfl

theorem State.writeSettings_declines : s.Declines (s.writeSettings o) := by
  unfold State.writeSettings
  dsimp only
  split
  · exact .inr rfl
  · split
    · split
      · exact .inl (.inl rfl)
      · exact .inr rfl
    · exact .inr rfl

theorem State.orderStart_declines : s.Declines (s.orderStart o) := by
  unfold State.orderStart
  split
  · exact .inr rfl
  · split
    · exact .inr rfl
    · exact .inl (.inl rfl)

theorem State.orderDelay_declines : s.Declines (s.orderDelay o) := by
  unfold State.orderDelay
  dsimp only
  split
  · exact .inr rfl
  · split
    · exact .inr rfl
    · split
      · exact .inr rfl
      · exact .inl (doneOr_carried _)

theorem State.orderChangeover_declines : s.Declines (s.orderChangeover o) := by
  unfold State.orderChangeover
  split
  · exact .inr rfl
  · split
    · exact .inr rfl
    · exact .inl (.inl rfl)

theorem State.orderAcknowledge_declines : s.Declines (s.orderAcknowledge o) := by
  unfold State.orderAcknowledge
  dsimp only
  split
  · exact .inl (.inl rfl)
  · split
    · exact .inl (.inl rfl)
    · exact .inr rfl

theorem State.orderCue_declines : s.Declines (s.orderCue o) := by
  unfold State.orderCue
  dsimp only
  split
  · exact .inr rfl
  · split
    · exact .inr rfl
    · split
      · exact .inr rfl
      · split
        · exact .inr rfl
        · split
          · exact .inr rfl
          · exact .inl (.inl rfl)

theorem State.readCoefficients_refuses : (s.readCoefficients o).1.carried ∨ (s.readCoefficients o).2 = [] := by
  unfold State.readCoefficients
  dsimp only
  split
  · split
    · exact .inr rfl
    · exact .inl (.inl rfl)
  · exact .inr rfl

theorem State.statusLane_refuses :
    (s.statusLane o).1.carried ∨ ((s.statusLane o).2.1 = [] ∧ (s.statusLane o).2.2 = s) := by
  unfold State.statusLane
  split
  · exact .inl (.inl rfl)
  · exact .inr ⟨rfl, rfl⟩

theorem State.statusRule_refuses :
    (s.statusRule o).1.carried ∨ ((s.statusRule o).2.1 = [] ∧ (s.statusRule o).2.2 = s) := by
  unfold State.statusRule
  split
  · exact .inl (.inl rfl)
  · exact .inr ⟨rfl, rfl⟩

theorem State.statusView_refuses (view : Fin 16 → List Byte) :
    (s.statusView o view).1.carried ∨ ((s.statusView o view).2.1 = [] ∧ (s.statusView o view).2.2 = s) := by
  unfold State.statusView
  split
  · split
    · exact .inr ⟨rfl, rfl⟩
    · exact .inl (.inl rfl)
  · exact .inr ⟨rfl, rfl⟩

theorem State.statusChangeover_refuses :
    (s.statusChangeover o).1.carried ∨ ((s.statusChangeover o).2.1 = [] ∧ (s.statusChangeover o).2.2 = s) := by
  unfold State.statusChangeover
  dsimp only
  split
  · split
    · exact .inr ⟨rfl, rfl⟩
    · exact .inl (.inl rfl)
  · exact .inr ⟨rfl, rfl⟩

theorem State.statusCounters_refuses :
    (s.statusCounters o).1.carried ∨ ((s.statusCounters o).2.1 = [] ∧ (s.statusCounters o).2.2 = s) := by
  unfold State.statusCounters
  split
  · exact .inl (.inl rfl)
  · exact .inr ⟨rfl, rfl⟩

theorem State.orderPark_refuses : s.Refuses o (s.orderPark o) := by
  unfold State.orderPark
  split
  · exact State.refuses_answer (.inr ⟨rfl, rfl⟩)
  · next p _ =>
    split
    · next hactive =>
      have hmoved : s.playState p ≠ .parked := bne_iff_ne.mp hactive
      exact State.refuses_recordOwing (congrArg Orders.replies (State.enterParking_handed hmoved).toOrderly.orders) _
    · exact State.refuses_answer (.inl (.inl rfl))

theorem State.carryOut_refuses : s.Refuses o (s.carryOut o) := by
  unfold State.carryOut
  split
  · exact State.refuses_finish (s.writeLane_declines o)
  · exact State.refuses_finish (s.writeProgram_declines o)
  · exact State.refuses_finish (s.writeProfile_declines o)
  · exact State.refuses_finish (s.writeWeighting_declines o)
  · exact State.refuses_finish (s.writeCoefficients_declines o)
  · exact State.refuses_finish (s.writeBandSet_declines o)
  · exact State.refuses_finish (s.writeRule_declines o)
  · exact State.refuses_finish (s.writeEgressMap_declines o)
  · exact State.refuses_finish (s.writeSettings_declines o)
  · exact State.refuses_read (o.readEntry_refuses _ _)
  · exact State.refuses_read (o.readEntry_refuses _ _)
  · exact State.refuses_read (o.readEntry_refuses _ _)
  · exact State.refuses_read (o.readEntry_refuses _ _)
  · exact State.refuses_read (s.readCoefficients_refuses o)
  · exact State.refuses_read (o.readEntry_refuses _ _)
  · exact State.refuses_read (o.readEntry_refuses _ _)
  · exact State.refuses_read (o.readEntry_refuses _ _)
  · exact State.refuses_read (o.readEntry_refuses _ _)
  · exact State.refuses_status (.inl (.inl rfl))
  · exact State.refuses_status (s.statusLane_refuses o)
  · exact State.refuses_status (s.statusRule_refuses o)
  · exact State.refuses_status (s.statusView_refuses o _)
  · exact State.refuses_status (s.statusView_refuses o _)
  · exact State.refuses_status (s.statusView_refuses o _)
  · exact State.refuses_status (s.statusView_refuses o _)
  · exact State.refuses_status (s.statusChangeover_refuses o)
  · exact State.refuses_status (s.statusCounters_refuses o)
  · exact State.refuses_finish (s.orderStart_declines o)
  · exact s.orderPark_refuses o
  · exact State.refuses_finish (s.orderDelay_declines o)
  · exact State.refuses_finish (s.orderChangeover_declines o)
  · exact State.refuses_finish (s.orderAcknowledge_declines o)
  · exact State.refuses_finish (s.orderCue_declines o)
  · exact State.refuses_recordOwing rfl _
  · exact State.refuses_answer (.inr ⟨rfl, rfl⟩)

end Orders

/-- Settles O51: each order either is carried out, or is owed its reply, or answers with the part as it stands. -/
theorem refusedOrdersChangeNothing : Obligations.RefusedOrdersChangeNothing := by
  intro s t o status results h hexec hreplies hdone hclamped
  rw [exec_of_takes h rfl] at hexec
  obtain rfl := Host.Outcome.next.inj hexec
  exact s.dropHead.carryOut_refuses o status results hreplies fun hcarried => hcarried.elim hdone hclamped

end Sys2Proof.Machine
end

section
/-! SUPPORT. WRITE of the tables that programs share (R68, R77, R94), of the egress map and the settings (R145, R149, R152,
R171) and of lane entries (R15, R16). -/

namespace Sys2Proof.Machine

/-! ### Positions in lists -/

theorem RateClass.ofCode_index (x : RateClass) : RateClass.ofCode x.index.val = some x := by cases x <;> rfl

theorem RateClass.ofCode_eq_none {n : Nat} (h : 4 < n) : RateClass.ofCode n = none := by
  obtain ⟨k, rfl⟩ := Nat.exists_eq_add_of_le' h
  rfl

theorem ConcealMode.ofCode_eq_none {n : Nat} (h : 1 < n) : ConcealMode.ofCode n = none := by
  obtain ⟨k, rfl⟩ := Nat.exists_eq_add_of_le' h
  rfl

theorem RefSelect.ofCode_eq_none {n : Nat} (h : 1 < n) : RefSelect.ofCode n = none := by
  obtain ⟨k, rfl⟩ := Nat.exists_eq_add_of_le' h
  rfl

theorem RateClass.ofCode_of_code {x : RateClass} {n : Nat} (h : x.code = n) : RateClass.ofCode n = some x := by
  rw [← x.ofCode_code, h, Int.toNat_natCast]

theorem ConcealMode.ofCode_of_code {x : ConcealMode} {n : Nat} (h : x.code = n) : ConcealMode.ofCode n = some x := by
  rw [← x.ofCode_code, h, Int.toNat_natCast]

theorem RefSelect.ofCode_of_code {x : RefSelect} {n : Nat} (h : x.code = n) : RefSelect.ofCode n = some x := by
  rw [← x.ofCode_code, h, Int.toNat_natCast]

theorem clampNat_eq {lo hi : Nat} (h : lo ≤ hi) (x : Nat) : clampNat lo hi x = max lo (min x hi) := by
  unfold clampNat
  split
  · omega
  · split <;> omega

/-! ### Weightings, coefficients and band sets (R68, R77, R94) -/

theorem State.writeWeighting_at {s : State} {o : Order} {cls : RateClass} (h : o.index = cls.index.val) :
    s.writeWeighting o = if s.classInUse cls then (.refusedInUse, s)
      else (.done, { s with tables := { s.tables with
        weightings := s.tables.weightings.set cls.index.val (weightingWrite o.args) cls.index.isLt } }) := by
  rw [State.writeWeighting, h, RateClass.ofCode_index]

theorem State.writeWeighting_of_le {s : State} {o : Order} (h : 5 ≤ o.index) : s.writeWeighting o = (.refusedIndex, s) := by
  rw [State.writeWeighting, RateClass.ofCode_eq_none h]

/-- The banks with the taps named of one phase rewritten (R68). -/
def State.banksWritten (s : State) (o : Order) (b : Fin 4) (f : Fin 65) : Vector Bank 4 :=
  s.tables.banks.set b.val (s.tables.banks[b].set f.val (s.tables.banks[b][f].write (tapRange o.args) (tapValue o.args)) f.isLt)
    b.isLt

theorem State.writeCoefficients_at {s : State} {o : Order} {b : Fin 4} {f : Fin 65} (hb : field o.args 1 1 = b.val)
    (hf : field o.args 2 1 = f.val) : s.writeCoefficients o = if s.bankInUse b then (.refusedInUse, s)
      else if !(tapRange o.args).inRange then (.refusedValue, s)
      else (.done, { s with tables := { s.tables with banks := s.banksWritten o b f } }) := by
  have hbank : toFin? 4 (tapRange o.args).bank = some b := toFin?_of_eq hb
  have hphase : toFin? 65 (tapRange o.args).phase = some f := toFin?_of_eq hf
  simp only [State.writeCoefficients, hbank, hphase, State.banksWritten]

theorem State.writeCoefficients_of_le {s : State} {o : Order} (h : 4 ≤ field o.args 1 1 ∨ 65 ≤ field o.args 2 1) :
    s.writeCoefficients o = (.refusedIndex, s) := by
  rcases h with hbank | hphase
  · have hnone : toFin? 4 (tapRange o.args).bank = none := toFin?_of_le hbank
    simp only [State.writeCoefficients, hnone]
  · have hnone : toFin? 65 (tapRange o.args).phase = none := toFin?_of_le hphase
    cases hb : toFin? 4 (tapRange o.args).bank <;> simp only [State.writeCoefficients, hb, hnone]

/-- Of the banks only the taps named move. -/
theorem State.banksWritten_tap (s : State) (o : Order) (b c : Fin 4) (f g : Fin 65) (k : Fin 32) :
    (s.banksWritten o b f)[c][g][k] =
      if c = b ∧ g = f ∧ field o.args 3 1 ≤ k.val ∧ k.val < field o.args 3 1 + field o.args 4 1 then
        tapValue o.args (k.val - field o.args 3 1)
      else s.tables.banks[c][g][k] := by
  unfold State.banksWritten
  by_cases hc : c = b
  · subst hc
    by_cases hg : g = f
    · subst hg
      simp only [Phase.write, tapRange, Fin.getElem_fin, Vector.getElem_set_self, Vector.getElem_ofFn, true_and]
      rfl
    · have hne : f.val ≠ g.val := fun h => hg (Fin.ext h.symm)
      simp [hg, hne, Vector.getElem_set_ne]
  · have hne : b.val ≠ c.val := fun h => hc (Fin.ext h.symm)
    simp [hc, hne, Vector.getElem_set_ne]

theorem State.writeBandSet_three {s : State} {o : Order} (h : o.index = 3) : s.writeBandSet o =
    (let b1 := field o.args 2 2
      let b2 := field o.args 4 2
      let c1 := max 1 (min b1 255)
      let c2 := max (c1 + 1) (min b2 4095)
      (if c1 = b1 ∧ c2 = b2 then .done else .clamped, { s with tables := { s.tables with band3 := ⟨c1, c2⟩ } })) := by
  have hfirst := clampNat_eq (show 1 ≤ 255 by decide) (field o.args 2 2)
  have hsecond := clampNat_eq (show max 1 (min (field o.args 2 2) 255) + 1 ≤ 4095 by omega) (field o.args 4 2)
  have hstatus : ∀ a b c d : Nat, doneOr (a != b || c != d) = if a = b ∧ c = d then .done else .clamped := fun a b c d => by
    by_cases hab : a = b <;> by_cases hcd : c = d <;> simp [doneOr, hab, hcd]
  rw [State.writeBandSet, if_pos h]
  simp only [hfirst, hsecond, hstatus]

/-- Settles O40: each write is its checks in order and then the entry stored. -/
theorem sharedTablesAreWritten : Obligations.SharedTablesAreWritten := by
  intro s o h
  refine ⟨fun hrow => ?weighting, fun hrow => ?coefficients, fun hrow => ?bands⟩
  case weighting =>
    have hrun : exec .writeWeighting s = .next (State.finish o (s.dropHead.writeWeighting o)) := by
      rw [exec_of_takes h hrow, State.carryOut, hrow]
    refine ⟨fun cls hcls => ⟨fun huse => ?_, fun hfree => ?_⟩, fun hi => ?_⟩
    · rw [hrun, State.writeWeighting_at hcls, if_pos (show s.dropHead.classInUse cls = true from huse)]
      rfl
    · have hfree : ¬ s.dropHead.classInUse cls = true := ne_true_of_eq_false hfree
      rw [hrun, State.writeWeighting_at hcls, if_neg hfree, State.dropHead_tables]
      rfl
    · rw [hrun, State.writeWeighting_of_le hi]
      rfl
  case coefficients =>
    have hrun : exec .writeCoefficients s = .next (State.finish o (s.dropHead.writeCoefficients o)) := by
      rw [exec_of_takes h hrow, State.carryOut, hrow]
    refine ⟨fun b f hb hf => ⟨fun huse => ?_, fun hfree htaps => ?_, fun hfree htaps => ?_⟩, fun hi => ?_⟩
    · rw [hrun, State.writeCoefficients_at hb hf, if_pos (show s.dropHead.bankInUse b = true from huse)]
      rfl
    · have hfree : ¬ s.dropHead.bankInUse b = true := ne_true_of_eq_false hfree
      have hout : (tapRange o.args).inRange = false := eq_false_of_ne_true (mt (TapRange.inRange_iff _).mp htaps)
      rw [hrun, State.writeCoefficients_at hb hf, if_neg hfree, hout]
      rfl
    · have hfree : ¬ s.dropHead.bankInUse b = true := ne_true_of_eq_false hfree
      have hin : (tapRange o.args).inRange = true := (TapRange.inRange_iff _).mpr htaps
      refine ⟨{ s.dropHead with tables := { s.tables with banks := s.banksWritten o b f } }, ?_, rfl,
        fun c g k => s.banksWritten_tap o b c f g k⟩
      rw [hrun, State.writeCoefficients_at hb hf, if_neg hfree, hin]
      rfl
    · rw [hrun, State.writeCoefficients_of_le hi]
      rfl
  case bands =>
    have hrun : exec .writeBandSet s = .next (State.finish o (s.dropHead.writeBandSet o)) := by
      rw [exec_of_takes h hrow, State.carryOut, hrow]
    refine ⟨fun hi => ?_, fun hi => ?_⟩
    · rw [hrun, State.writeBandSet_three hi, State.dropHead_tables]
      rfl
    · rw [hrun, State.writeBandSet, if_neg hi]
      rfl

/-! ### The egress map (R152) -/

section Map
variable {s : State} {o : Order} {e : Fin 32} (h : o.index = e.val)
include h

theorem State.writeEgressMap_refused (hbad : 128 ≤ (mapWrite o.args).slot ∨ 16 ≤ (mapWrite o.args).program ∨
    8 ≤ (mapWrite o.args).member) : s.writeEgressMap o = (.refusedValue, s) := by
  have hnone : ∀ (a : Option (Fin 128)) (b : Option (Fin 16)) (c : Option (Fin 8)) (f : Fin 128 → Fin 16 → Fin 8 → Status × State),
      a = none ∨ b = none ∨ c = none →
      (match a, b, c with | some i, some j, some k => f i j k | _, _, _ => (.refusedValue, s)) = (.refusedValue, s) := by
    rintro (_ | a) (_ | b) (_ | c) f (hn | hn | hn) <;> cases hn <;> rfl
  rw [State.writeEgressMap, toFin?_of_eq h]
  exact hnone _ _ _ _ (hbad.imp toFin?_of_le (Or.imp toFin?_of_le toFin?_of_le))

theorem State.writeEgressMap_at {slot : Fin 128} {program : Fin 16} {member : Fin 8}
    (hslot : (mapWrite o.args).slot = slot.val) (hprogram : (mapWrite o.args).program = program.val)
    (hmember : (mapWrite o.args).member = member.val) : s.writeEgressMap o =
      if s.slotTakenBy e (mapWrite o.args) then (.refusedConflict, s)
      else (.done, s.storeMap e ⟨(mapWrite o.args).enabled, (mapWrite o.args).tag, slot, program, member⟩) := by
  rw [State.writeEgressMap, toFin?_of_eq h]
  dsimp only
  rw [toFin?_of_eq hslot, toFin?_of_eq hprogram, toFin?_of_eq hmember]

end Map

theorem State.slotTakenBy_iff (s : State) (e : Fin 32) (w : MapWrite) : s.slotTakenBy e w = true ↔
    w.enabled = true ∧ ∃ k, k ≠ e ∧ s.tables.map[k].enabled = true ∧ s.tables.map[k].slot.val = w.slot := by
  simp [State.slotTakenBy, and_assoc]

/-! ### The settings (R145, R149, R171) -/

theorem State.writeSettings_at {s : State} {o : Order} (h : o.index = 0) (hnode : field o.args 2 1 ≤ 63) {select : RefSelect}
    (hselect : (field o.args 3 1 : Int) = select.code) :
    s.writeSettings o = (.done, s.storeSettings ⟨BitVec.ofNat 6 (field o.args 2 1), select⟩) := by
  rw [State.writeSettings, if_neg (not_not.mpr h)]
  dsimp only
  rw [RefSelect.ofCode_of_code hselect.symm]
  exact if_pos hnode

theorem State.writeSettings_refused {s : State} {o : Order} (h : o.index = 0) (hbad : 63 < field o.args 2 1 ∨ 1 < field o.args 3 1) :
    s.writeSettings o = (.refusedValue, s) := by
  rw [State.writeSettings, if_neg (not_not.mpr h)]
  dsimp only
  split
  · next select hselect =>
    refine if_neg (Nat.not_le.mpr (hbad.resolve_right fun hcode => ?_))
    rw [RefSelect.ofCode_eq_none hcode] at hselect
    cases hselect
  · rfl

/-- What storing the settings does to the Alarm Unit (R145). -/
def State.alarmOfSettings (s : State) (node : BitVec 6) : Alarm :=
  if node = 0 ∧ s.tables.settings.node ≠ 0 then s.dropNotices.alarm else s.alarm

/-- What storing the settings does to House Timing (R149). -/
def State.houseOfSettings (s : State) (select : RefSelect) : House :=
  if select = s.tables.settings.select then s.house else s.house.reselect select

theorem State.storeSettings_eq (s : State) (x : Settings) : s.storeSettings x = { s with
    tables := { s.tables with settings := x }, alarm := s.alarmOfSettings x.node, house := s.houseOfSettings x.select } := by
  unfold State.storeSettings State.alarmOfSettings State.houseOfSettings
  dsimp only
  split
  · split <;> rfl
  · split <;> rfl

/-- Settles O41: a map entry is stored to wait, and the settings act on notices and reference by what changed. -/
theorem mapAndSettingsAreWritten : Obligations.MapAndSettingsAreWritten := by
  intro s o h
  refine ⟨fun hrow => ?map, fun hrow => ?settings⟩
  case map =>
    have hrun : exec .writeEgressMap s = .next (State.finish o (s.dropHead.writeEgressMap o)) := by
      rw [exec_of_takes h hrow, State.carryOut, hrow]
    refine ⟨fun e he => ⟨fun hbad => ?_, fun slot program member hslot hprogram hmember => ⟨fun hclash => ?_, fun hclash => ?_⟩⟩,
      fun hi => ?_⟩
    · rw [hrun, State.writeEgressMap_refused he hbad]
      rfl
    · have htaken : s.dropHead.slotTakenBy e (mapWrite o.args) = true := (State.slotTakenBy_iff _ _ _).mpr hclash
      rw [hrun, State.writeEgressMap_at he hslot hprogram hmember, if_pos htaken]
      rfl
    · have hfree : ¬ s.dropHead.slotTakenBy e (mapWrite o.args) = true := mt (State.slotTakenBy_iff _ _ _).mp hclash
      rw [hrun, State.writeEgressMap_at he hslot hprogram hmember, if_neg hfree]
      rfl
    · rw [hrun, State.writeEgressMap, toFin?_of_le hi]
      rfl
  case settings =>
    have hrun : exec .writeSettings s = .next (State.finish o (s.dropHead.writeSettings o)) := by
      rw [exec_of_takes h hrow, State.carryOut, hrow]
    refine ⟨fun hi => ?_, fun hi hbad => ?_, fun hi hnode select hselect => ?_⟩
    · rw [hrun, State.writeSettings, if_pos hi]
      rfl
    · rw [hrun, State.writeSettings_refused hi hbad]
      rfl
    · have hzero : BitVec.ofNat 6 (field o.args 2 1) = 0 ↔ field o.args 2 1 = 0 := by
        rw [← BitVec.toNat_inj, BitVec.toNat_ofNat, Nat.mod_eq_of_lt (by omega)]
        rfl
      refine ⟨s.dropHead.storeSettings ⟨BitVec.ofNat 6 (field o.args 2 1), select⟩, ?_, ?_, fun hkept => ?_,
        fun hnow hold => ?_, fun hsame => ?_, fun hchanged hinternal => ?_, fun hchanged hexternal => ?_⟩
      · rw [hrun, State.writeSettings_at hi hnode hselect]
        rfl
      all_goals rw [State.storeSettings_eq]
      · rfl
      · exact if_neg fun hboth => hkept.elim (absurd (hzero.mp hboth.1)) hboth.2
      · have hboth : BitVec.ofNat 6 (field o.args 2 1) = 0 ∧ s.dropHead.tables.settings.node ≠ 0 := ⟨hzero.mpr hnow, hold⟩
        have halarm : s.dropHead.alarmOfSettings (BitVec.ofNat 6 (field o.args 2 1)) = s.dropHead.dropNotices.alarm :=
          if_pos hboth
        rw [halarm]
        exact ⟨rfl, fun r => s.dropHead.record_dropNotices r⟩
      · exact if_pos hsame
      · subst hinternal
        exact if_neg hchanged
      · subst hexternal
        exact if_neg hchanged

/-! ### Lane entries (R15, R16) -/

theorem nodeInRange_iff (node : Byte) : nodeInRange node = true ↔ 1 ≤ node.toNat ∧ node.toNat ≤ 63 := by
  simp [nodeInRange]

theorem LaneWrite.inRange_iff (w : LaneWrite) : w.inRange = true ↔ w.startPage ≤ 4095 ∧ w.sizePages ∈ regionSizes ∧
    w.startPage + w.sizePages ≤ 4096 ∧ (w.defined = true → 1 ≤ w.origin.toNat ∧ w.origin.toNat ≤ 63) := by
  cases hd : w.defined <;> simp [LaneWrite.inRange, hd, nodeInRange_iff, and_assoc]

theorem State.keyTaken_iff (s : State) (l : Fin 32) (w : LaneWrite) : s.keyTaken l w = true ↔
    w.defined = true ∧ ∃ k, k ≠ l ∧ (s.laneEntry k).defined = true ∧ (s.laneEntry k).origin = w.origin ∧
      (s.laneEntry k).tag = w.tag := by
  simp [State.keyTaken, and_assoc]

section Lane
variable {s : State} {o : Order} {l : Fin 32} (h : o.index = l.val)
include h

theorem State.writeLane_of_active (hlane : (s.lane l).status ≠ .parked) : s.writeLane o = (.refusedState, s) := by
  rw [State.writeLane, toFin?_of_eq h]
  exact if_pos hlane

/-- The rate class or the concealment names nothing. -/
theorem State.writeLane_of_unnamed (hlane : (s.lane l).status = .parked)
    (hbad : 4 < (laneWrite o.args).rateClass ∨ 1 < (laneWrite o.args).conceal) : s.writeLane o = (.refusedValue, s) := by
  rw [State.writeLane, toFin?_of_eq h]
  dsimp only
  rw [if_neg (not_not.mpr hlane)]
  split
  · next cls conceal hcls hconceal =>
    rcases hbad with hbad | hbad
    · rw [RateClass.ofCode_eq_none hbad] at hcls
      cases hcls
    · rw [ConcealMode.ofCode_eq_none hbad] at hconceal
      cases hconceal
  · rfl

theorem State.writeLane_named (hlane : (s.lane l).status = .parked) {cls : RateClass} {conceal : ConcealMode}
    (hcls : cls.code = (laneWrite o.args).rateClass) (hconceal : conceal.code = (laneWrite o.args).conceal) :
    s.writeLane o = if !(laneWrite o.args).inRange then (.refusedValue, s)
      else if s.keyTaken l (laneWrite o.args) then (.refusedConflict, s)
      else (doneOr (((laneWrite o.args).entry cls conceal).lostTime != (laneWrite o.args).lostTime),
        s.setLaneEntry l ((laneWrite o.args).entry cls conceal)) := by
  rw [State.writeLane, toFin?_of_eq h]
  dsimp only
  rw [if_neg (not_not.mpr hlane), RateClass.ofCode_of_code hcls, ConcealMode.ofCode_of_code hconceal]

end Lane

theorem RateClass.exists_code {n : Nat} (h : n ≤ 4) : ∃ x : RateClass, x.code = n := by
  interval_cases n
  · exact ⟨.c32, rfl⟩
  · exact ⟨.c44, rfl⟩
  · exact ⟨.c48, rfl⟩
  · exact ⟨.c88, rfl⟩
  · exact ⟨.c96, rfl⟩

theorem ConcealMode.exists_code {n : Nat} (h : n ≤ 1) : ∃ x : ConcealMode, x.code = n := by
  interval_cases n
  · exact ⟨.repeatLast, rfl⟩
  · exact ⟨.zero, rfl⟩

/-- Settles O42: the checks of a lane's entry are taken in their order, each by what it names. -/
theorem laneEntriesAreWritten : Obligations.LaneEntriesAreWritten := by
  intro s o h hrow
  have hrun : exec .writeLane s = .next (State.finish o (s.dropHead.writeLane o)) := by
    rw [exec_of_takes h hrow, State.carryOut, hrow]
  refine ⟨fun hi => ?_, fun l hl => ⟨fun hactive => ?_, fun hparked hbad => ?_, fun hparked hsound hclash => ?_,
    fun hparked hsound hclash cls conceal hcls hconceal => ?_⟩⟩
  · rw [hrun, State.writeLane, toFin?_of_le hi]
    rfl
  · rw [hrun, State.writeLane_of_active hl (by rwa [State.lane_dropHead])]
    rfl
  · have hparked : (s.dropHead.lane l).status = .parked := by rwa [State.lane_dropHead]
    by_cases hnamed : (laneWrite o.args).rateClass ≤ 4 ∧ (laneWrite o.args).conceal ≤ 1
    · obtain ⟨cls, hcls⟩ := RateClass.exists_code hnamed.1
      obtain ⟨conceal, hconceal⟩ := ConcealMode.exists_code hnamed.2
      have hout : (laneWrite o.args).inRange = false := eq_false_of_ne_true fun hin =>
        hbad ⟨hnamed.1, hnamed.2, (LaneWrite.inRange_iff _).mp hin⟩
      rw [hrun, State.writeLane_named hl hparked hcls hconceal, hout]
      rfl
    · rw [hrun, State.writeLane_of_unnamed hl hparked (by omega)]
      rfl
  · obtain ⟨hclass, hmode, hrange⟩ := hsound
    obtain ⟨cls, hcls⟩ := RateClass.exists_code hclass
    obtain ⟨conceal, hconceal⟩ := ConcealMode.exists_code hmode
    have hin := (LaneWrite.inRange_iff _).mpr hrange
    have htaken : s.dropHead.keyTaken l (laneWrite o.args) = true :=
      (State.keyTaken_iff _ _ _).mpr (by simpa only [State.laneEntry_dropHead] using hclash)
    rw [hrun, State.writeLane_named hl (by rwa [State.lane_dropHead]) hcls hconceal, hin, if_pos htaken]
    rfl
  · have hin := (LaneWrite.inRange_iff _).mpr hsound.2.2
    have hfree : ¬ s.dropHead.keyTaken l (laneWrite o.args) = true :=
      mt (State.keyTaken_iff _ _ _).mp (by simpa only [State.laneEntry_dropHead] using hclash)
    have hlost : ((laneWrite o.args).entry cls conceal).lostTime = max 5 (min (laneWrite o.args).lostTime 2000) :=
      clampNat_eq (by decide) _
    have hstatus : doneOr (max 5 (min (laneWrite o.args).lostTime 2000) != (laneWrite o.args).lostTime) =
        if 5 ≤ (laneWrite o.args).lostTime ∧ (laneWrite o.args).lostTime ≤ 2000 then .done else .clamped := by
      rw [doneOr_bne]
      exact if_congr (by omega) rfl rfl
    have hentry : (laneWrite o.args).entry cls conceal = { defined := (laneWrite o.args).defined
                                                           origin := (laneWrite o.args).origin
                                                           tag := (laneWrite o.args).tag
                                                           rateClass := cls
                                                           startPage := (laneWrite o.args).startPage
                                                           sizePages := (laneWrite o.args).sizePages
                                                           conceal := conceal
                                                           lostTime := max 5 (min (laneWrite o.args).lostTime 2000) } := by
      rw [← hlost]
      rfl
    rw [hrun, State.writeLane_named hl (by rwa [State.lane_dropHead]) hcls hconceal, hin, if_neg hfree, hlost, hstatus, hentry]
    rfl

end Sys2Proof.Machine
end

section
/-! SUPPORT. PARK, RESET and an unknown order (R49, R166, R167, R175). -/

namespace Sys2Proof.Machine

/-! ### The program an order names -/

section Named
variable {o : Order} {p : Fin 16}

theorem Order.program_at (h : field o.args 0 1 = p.val) : o.program = some p := toFin?_of_eq h

theorem Order.program_of_le (h : 16 ≤ field o.args 0 1) : o.program = none := toFin?_of_le h

end Named

theorem State.active_iff (s : State) (p : Fin 16) : s.active p = true ↔ (s.program p).play.state ≠ .parked := by
  rw [State.active, bne_iff_ne]
  rfl

/-! ### PARK, RESET and unknown orders -/

theorem State.orderPark_at {s : State} {o : Order} {p : Fin 16} (h : field o.args 0 1 = p.val) : s.orderPark o =
    if s.active p then (s.enterParking p).recordOwing o .parkPending else s.answer o .done [] := by
  rw [State.orderPark, Order.program_at h]

theorem State.orderPark_of_le {s : State} {o : Order} (h : 16 ≤ field o.args 0 1) :
    s.orderPark o = s.answer o .refusedIndex [] := by
  rw [State.orderPark, Order.program_of_le h]

theorem writeRow_of_lt {n : Nat} (h : 8 < n) : writeRow n = .unknownOrder := by
  obtain ⟨k, rfl⟩ := Nat.exists_eq_add_of_le' h
  rfl

theorem readRow_of_lt {n : Nat} (h : 8 < n) : readRow n = .unknownOrder := by
  obtain ⟨k, rfl⟩ := Nat.exists_eq_add_of_le' h
  rfl

theorem viewRow_of_lt {n : Nat} (h : 5 < n) : viewRow n = .unknownOrder := by
  obtain ⟨k, rfl⟩ := Nat.exists_eq_add_of_le' h
  rfl

/-- An order whose kind, table, target type or view names nothing the part holds. -/
theorem Order.row_unknown {o : Order} (h : 9 < o.kind.toNat ∨ (o.kind.toNat ≤ 1 ∧ 8 < field o.args 0 1) ∨
    (o.kind.toNat = 2 ∧ 3 < field o.args 0 1) ∨ (o.kind.toNat = 2 ∧ field o.args 0 1 = 2 ∧ 5 < field o.args 2 1)) :
    o.row = .unknownOrder := by
  unfold Order.row
  rcases h with hkind | ⟨hkind, htable⟩ | ⟨hkind, htarget⟩ | ⟨hkind, htarget, hview⟩
  · obtain ⟨k, hk⟩ := Nat.exists_eq_add_of_le' hkind
    rw [hk]
    rfl
  · obtain hzero | hone : o.kind.toNat = 0 ∨ o.kind.toNat = 1 := by omega
    · rw [hzero]
      exact writeRow_of_lt htable
    · rw [hone]
      exact readRow_of_lt htable
  · obtain ⟨k, hk⟩ := Nat.exists_eq_add_of_le' htarget
    rw [hkind, hk]
    rfl
  · rw [hkind, htarget]
    exact viewRow_of_lt hview

/-- Settles O46: a PARK that is not answered at once suspends its program and is owed, a RESET is owed. -/
theorem parksAndResetsAreOwed : Obligations.ParksAndResetsAreOwed := by
  intro s o h
  refine ⟨fun hrow => ?park, fun hrow => ?reset, fun hunknown => ?unknown⟩
  case park =>
    have hrun : exec .park s = .next (s.dropHead.orderPark o) := by
      rw [exec_of_takes h hrow, State.carryOut, hrow]
    refine ⟨fun hi => ?_, fun p hp => ⟨fun hparked => ?_, fun hactive => ?_⟩⟩
    · rw [hrun, State.orderPark_of_le hi]
    · have hidle : ¬ s.dropHead.active p = true := by
        rw [State.active_iff, State.program_dropHead]
        exact not_not.mpr hparked
      rw [hrun, State.orderPark_at hp, if_neg hidle]
    · have hactive : s.dropHead.active p = true := by
        rw [State.active_iff, State.program_dropHead]
        exact hactive
      rw [hrun, State.orderPark_at hp, if_pos hactive, State.recordOwing, State.enterParking, State.program_dropHead,
        State.followThrough_orders, State.setProgram_orders]
      rfl
  case reset =>
    rw [exec_of_takes h hrow, State.carryOut, hrow]
    rfl
  case unknown =>
    have hrow := Order.row_unknown hunknown
    rw [exec_of_takes h hrow, State.carryOut, hrow]

end Sys2Proof.Machine
end

section
/-! SUPPORT. DELAY (R74, R75) and what a stored delay puts in force. -/

namespace Sys2Proof.Machine

/-! ### What a stored delay puts in force -/

section Stored
variable {s : State} {p : Fin 16} {old new : ProgramEntry}

theorem State.delayStored_of_parked (h : s.active p = false) : s.delayStored p old new = s := by
  rw [State.delayStored, h]
  rfl

theorem State.delayStored_manual (h : s.active p = true) (hnew : new.delayMode = .manual) :
    s.delayStored p old new = s.putInForce p new.manualDelay := by
  rw [State.delayStored, h, hnew]
  cases old.delayMode <;> rfl

/-- From MANUAL to FOLLOW the picture idle time restarts (R75). -/
def Servo.restartPicture (v : Servo) : Servo :=
  { v with pictureIdle := 0, pictureLast := none, pictureDue := false, pictureLate := false }

theorem State.delayStored_follow (h : s.active p = true) (hold : old.delayMode = .manual)
    (hnew : new.delayMode = .follow) : s.delayStored p old new =
      s.setProgram p { s.program p with servo := (s.program p).servo.restartPicture } := by
  rw [State.delayStored, h, hold, hnew]
  rfl

theorem State.delayStored_follows (hold : old.delayMode = .follow) (hnew : new.delayMode = .follow) :
    s.delayStored p old new = s := by
  rw [State.delayStored, hold, hnew]
  split <;> rfl

end Stored

theorem State.active_setEntry (s : State) (p q : Fin 16) (e : ProgramEntry) :
    (s.setEntry p e).active q = s.active q := rfl

/-- An entry with the members and the lock of the old one leaves its program's nominal ratio. -/
theorem State.nominal_setEntry {s : State} {p : Fin 16} {e : ProgramEntry} (hmem : e.members = (s.entry p).members)
    (hlock : e.houseLocked = (s.entry p).houseLocked) : (s.setEntry p e).nominal p = s.nominal p := by
  rw [State.nominal, State.classOf, State.leader, State.entry_setEntry_self, hmem, hlock]
  rfl

/-! ### DELAY (R75) -/

/-- The entry a DELAY stores: its mode and its delay of at most 480,000. -/
def ProgramEntry.delayed (e : ProgramEntry) (mode : DelayMode) (asked : Nat) : ProgramEntry :=
  { e with delayMode := mode, manualDelay := min asked 480000 }

section Delay
variable {s : State} {o : Order} {p : Fin 16} {mode : DelayMode}

theorem State.orderDelay_at (h : field o.args 0 1 = p.val) (hdef : (s.entry p).defined = true)
    (hmode : DelayMode.ofCode (field o.args 1 1) = some mode) :
    s.orderDelay o =
      let t := (s.setEntry p ((s.entry p).delayed mode (field o.args 2 3))).delayStored p (s.entry p)
        ((s.entry p).delayed mode (field o.args 2 3))
      (doneOr (min (field o.args 2 3) 480000 != field o.args 2 3 ||
        (s.active p && mode == .manual && (t.program p).servo.clamped)), t) := by
  rw [State.orderDelay, Order.program_at h]
  dsimp only
  rw [hmode, if_neg (by simp [hdef])]
  rfl

theorem State.orderDelay_undefined (h : field o.args 0 1 = p.val) (hdef : (s.entry p).defined = false) :
    s.orderDelay o = (.refusedState, s) := by
  rw [State.orderDelay, Order.program_at h]
  dsimp only
  rw [hdef]
  rfl

theorem State.orderDelay_unnamed (h : field o.args 0 1 = p.val) (hdef : (s.entry p).defined = true)
    (hmode : 1 < field o.args 1 1) : s.orderDelay o = (.refusedValue, s) := by
  have hnone : DelayMode.ofCode (field o.args 1 1) = none := by
    obtain ⟨k, hk⟩ := Nat.exists_eq_add_of_le' hmode
    rw [hk]
    rfl
  rw [State.orderDelay, Order.program_at h]
  dsimp only
  rw [hdef, hnone]
  rfl

theorem min_bne_self (n : Nat) : (min n 480000 != n) = decide (480000 < n) := by
  rcases Nat.lt_or_ge 480000 n with hlt | hle
  · rw [Nat.min_eq_right hlt.le, decide_eq_true hlt, bne_iff_ne]
    exact hlt.ne
  · rw [Nat.min_eq_left hle, decide_eq_false (Nat.not_lt.mpr hle), bne_self_eq_false]

theorem doneOr_lt (n : Nat) : doneOr (decide (480000 < n)) = if n ≤ 480000 then .done else .clamped := by
  rcases Nat.lt_or_ge 480000 n with hlt | hle
  · rw [decide_eq_true hlt, if_neg (Nat.not_le.mpr hlt)]
    rfl
  · rw [decide_eq_false (Nat.not_lt.mpr hle), if_pos hle]
    rfl

theorem doneOr_lt_or (n d v : Nat) : doneOr (decide (480000 < n) || decide (d < v)) =
    if n ≤ 480000 ∧ v ≤ d then .done else .clamped := by
  rcases Nat.lt_or_ge 480000 n with hlt | hle <;> rcases Nat.lt_or_ge d v with hlim | hlim <;>
    simp [doneOr, Nat.not_le.mpr, Nat.not_lt.mpr, *]

theorem State.orderDelay_manual (h : field o.args 0 1 = p.val) (hdef : (s.entry p).defined = true)
    (hmode : field o.args 1 1 = 0) (hactive : s.active p = true) :
    s.orderDelay o =
      (if field o.args 2 3 ≤ 480000 ∧ min (field o.args 2 3) 480000 ≤ (s.program p).servo.limit then .done else .clamped,
        (s.setEntry p ((s.entry p).delayed .manual (field o.args 2 3))).setProgram p { s.program p with servo :=
          { (s.program p).servo with
            delay := min (min (field o.args 2 3) 480000) (s.program p).servo.limit
            clamped := decide ((s.program p).servo.limit < min (field o.args 2 3) 480000)
            fill := fillTarget (min (min (field o.args 2 3) 480000) (s.program p).servo.limit) (s.nominal p)
              (s.entry p).cushion } }) := by
  have hstored : (s.setEntry p ((s.entry p).delayed .manual (field o.args 2 3))).active p = true := hactive
  rw [State.orderDelay_at (mode := .manual) h hdef (by rw [hmode]; rfl)]
  dsimp only
  rw [State.delayStored_manual hstored rfl, State.putInForce, State.program_setProgram_self, State.entry_setEntry_self,
    State.nominal_setEntry (e := (s.entry p).delayed .manual (field o.args 2 3)) rfl rfl, hactive, min_bne_self,
    ← doneOr_lt_or]
  rfl

end Delay

/-- Settles O47: DELAY stores mode and delay, and each mode puts in force what R75 says. -/
theorem delaysAreSet : Obligations.DelaysAreSet := by
  intro s o h hrow
  have hrun : exec .delay s = .next (State.finish o (s.dropHead.orderDelay o)) := by
    rw [exec_of_takes h hrow, State.carryOut, hrow]
  refine ⟨fun hi => ?_, fun p hp => ⟨fun hundef => ?_, fun hdef hmode => ?_, fun hdef hmode => ⟨fun hidle => ?_,
    fun hactive => ?_⟩, fun hdef hmode => ⟨fun hstays => ?_, fun hactive hold => ?_⟩⟩⟩
  · rw [hrun, State.orderDelay, Order.program_of_le hi]
    rfl
  · rw [hrun, State.orderDelay_undefined hp (by rwa [State.entry_dropHead])]
    rfl
  · rw [hrun, State.orderDelay_unnamed hp (by rwa [State.entry_dropHead]) hmode]
    rfl
  · have hidle : s.dropHead.active p = false := hidle
    rw [hrun, State.orderDelay_at (mode := .manual) hp (by rwa [State.entry_dropHead]) (by rw [hmode]; rfl)]
    dsimp only
    rw [State.delayStored_of_parked (by rwa [State.active_setEntry]), hidle, min_bne_self, Bool.false_and,
      Bool.false_and, Bool.or_false, doneOr_lt, State.entry_dropHead]
    rfl
  · rw [hrun, State.orderDelay_manual (s := s.dropHead) hp hdef hmode hactive]
    rfl
  · have hmode : DelayMode.ofCode (field o.args 1 1) = some .follow := by rw [hmode]; rfl
    have hsame : (s.dropHead.setEntry p ((s.dropHead.entry p).delayed .follow (field o.args 2 3))).delayStored p
        (s.dropHead.entry p) ((s.dropHead.entry p).delayed .follow (field o.args 2 3)) =
        s.dropHead.setEntry p ((s.dropHead.entry p).delayed .follow (field o.args 2 3)) := by
      rcases hstays with hidle | hfollow
      · exact State.delayStored_of_parked hidle
      · exact State.delayStored_follows hfollow rfl
    rw [hrun, State.orderDelay_at (s := s.dropHead) hp hdef hmode]
    dsimp only
    rw [hsame, min_bne_self, Bool.and_comm (s.dropHead.active p), Bool.and_assoc,
      show (DelayMode.follow == DelayMode.manual) = false from rfl, Bool.false_and, Bool.or_false, doneOr_lt]
    rfl
  · have hmode : DelayMode.ofCode (field o.args 1 1) = some .follow := by rw [hmode]; rfl
    have hswitch := State.delayStored_follow (old := s.dropHead.entry p)
      (new := (s.dropHead.entry p).delayed .follow (field o.args 2 3))
      (show (s.dropHead.setEntry p ((s.dropHead.entry p).delayed .follow (field o.args 2 3))).active p = true
        from hactive) hold rfl
    rw [hrun, State.orderDelay_at (s := s.dropHead) hp hdef hmode]
    dsimp only
    rw [hswitch, min_bne_self,
      Bool.and_comm (s.dropHead.active p), Bool.and_assoc,
      show (DelayMode.follow == DelayMode.manual) = false from rfl, Bool.false_and, Bool.or_false, doneOr_lt]
    rfl

end Sys2Proof.Machine
end

section
/-! SUPPORT. What every change hands on (R50, R141, R154 to R157), and CHANGEOVER (R169). -/

namespace Sys2Proof.Machine

/-! ### One re-evaluation and a cleared latch (R155 to R157), case by case -/

section Settle
variable {s : State} {p a : Fin 16} {c : Change}

/-- ALTERNATE with its latch on the candidate and the revert count 0 (R155). -/
def Change.switched (c : Change) (a : Fin 16) : Change :=
  { c with state := .alternate, latch := some a, revert := 0, revertDue := false }

theorem State.trySwitch_of_healthy (hcand : c.latch.or (s.entry p).alternate = some a) (hhealthy : s.healthy a = true) :
    s.trySwitch p c = some (c.switched a) := by
  rw [State.trySwitch, hcand]
  exact if_pos hhealthy

theorem State.trySwitch_of_unhealthy
    (h : ∀ a, c.latch.or (s.entry p).alternate = some a → s.healthy a = false) : s.trySwitch p c = none := by
  unfold State.trySwitch
  split
  next a hcand => rw [h a hcand]; rfl
  next => rfl

/-- The latch a WANTED or PRIMARY program keeps (R157). -/
def State.latchKept (s : State) (p : Fin 16) (c : Change) : Option (Fin 16) := if s.lanesHome p then none else c.latch

theorem State.clearLatch_home (h : c.state = .primary ∨ c.state = .wanted) :
    s.clearLatch p c = { c with latch := s.latchKept p c } := by
  have hhome : (c.state == .primary || c.state == .wanted) = true := by
    rcases h with h | h <;> rw [h] <;> rfl
  rw [State.clearLatch, hhome, Bool.true_and, State.latchKept]
  by_cases hl : s.lanesHome p = true
  · rw [if_pos hl, if_pos hl]
  · rw [if_neg hl, if_neg hl]

theorem State.clearLatch_crossed (h : c.state = .alternate ∨ c.state = .reverting) : s.clearLatch p c = c := by
  rcases h with h | h <;> simp [State.clearLatch, h]

/-- The three moves of `State.settleChange` on a changeover that need not be the program's own. -/
def State.settled (s : State) (p : Fin 16) (c : Change) : Change := s.evalChange p (s.clearLatch p (s.evalChange p c))

/-! #### With changeover wanted -/

section Wanted
variable (hwanted : s.wanted p = true)
include hwanted

theorem State.settled_healthy (hstate : c.state = .primary ∨ c.state = .wanted)
    (hcand : c.latch.or (s.entry p).alternate = some a) (hhealthy : s.healthy a = true) :
    s.settled p c = c.switched a := by
  have hswitch := State.trySwitch_of_healthy hcand hhealthy
  have hfirst : s.evalChange p c = c.switched a := by
    rcases hstate with h | h <;> simp [State.evalChange, h, hwanted, hswitch]
  rw [State.settled, hfirst, State.clearLatch_crossed (.inl rfl)]
  simp [State.evalChange, Change.switched, hwanted]

/-- Without a healthy candidate the program is WANTED, and its latch clears once its lanes are home. -/
theorem State.settled_unhealthy (hstate : c.state = .primary ∨ c.state = .wanted)
    (hcand : ∀ a, c.latch.or (s.entry p).alternate = some a → s.healthy a = false) :
    s.settled p c = s.evalChange p { c with state := .wanted, latch := s.latchKept p c } := by
  have hswitch := State.trySwitch_of_unhealthy hcand
  have hfirst : s.evalChange p c = { c with state := .wanted } := by
    rcases hstate with h | h
    · simp [State.evalChange, h, hwanted, hswitch]
    · simp only [State.evalChange, h, hwanted, hswitch, if_true, Option.getD_none]
      rw [← h]
  rw [State.settled, hfirst, State.clearLatch_home (.inr rfl)]
  rfl

theorem State.settled_unlatched (hstate : c.state = .primary ∨ c.state = .wanted)
    (hcand : ∀ a, c.latch.or (s.entry p).alternate = some a → s.healthy a = false) (hhome : s.lanesHome p = true)
    (halt : (s.entry p).alternate = some a) (hhealthy : s.healthy a = true) :
    s.settled p c = c.switched a := by
  have hkept : s.latchKept p c = none := if_pos hhome
  rw [State.settled_unhealthy hwanted hstate hcand, hkept]
  have hnew : ({ c with state := .wanted, latch := none } : Change).latch.or (s.entry p).alternate = some a := halt
  simp only [State.evalChange, hwanted, if_true, State.trySwitch_of_healthy hnew hhealthy, Option.getD_some]
  rfl

theorem State.settled_waits (hstate : c.state = .primary ∨ c.state = .wanted)
    (hcand : ∀ a, c.latch.or (s.entry p).alternate = some a → s.healthy a = false)
    (hnone : s.lanesHome p = false ∨ ∀ b, (s.entry p).alternate = some b → s.healthy b = false) :
    s.settled p c = { c with state := .wanted, latch := s.latchKept p c } := by
  have hafter : ∀ b, ({ c with state := .wanted, latch := s.latchKept p c } : Change).latch.or (s.entry p).alternate =
      some b → s.healthy b = false := by
    rcases hnone with haway | halt
    · rw [show s.latchKept p c = c.latch by rw [State.latchKept, haway]; rfl]
      exact hcand
    · unfold State.latchKept
      split
      · exact halt
      · exact hcand
  rw [State.settled_unhealthy hwanted hstate hcand]
  simp only [State.evalChange, hwanted, if_true, State.trySwitch_of_unhealthy hafter, Option.getD_none]

theorem State.settled_alternate (hstate : c.state = .alternate) : s.settled p c = c := by
  have hstays : s.evalChange p c = c := by simp [State.evalChange, hstate, hwanted]
  rw [State.settled, hstays, State.clearLatch_crossed (.inl hstate), hstays]

theorem State.settled_back (hstate : c.state = .reverting) :
    s.settled p c = { c with state := .alternate, revert := 0, revertDue := false } := by
  have hfirst : s.evalChange p c = { c with state := .alternate, revert := 0, revertDue := false } := by
    simp [State.evalChange, hstate, hwanted]
  rw [State.settled, hfirst, State.clearLatch_crossed (.inl rfl)]
  simp [State.evalChange, hwanted]

end Wanted

/-! #### With changeover not wanted -/

section Unwanted
variable (hunwanted : s.wanted p = false)
include hunwanted

theorem State.settled_reverts (hstate : c.state = .alternate) :
    s.settled p c = { c with state := .reverting, revert := 0, revertDue := false } := by
  have hfirst : s.evalChange p c = { c with state := .reverting, revert := 0, revertDue := false } := by
    simp [State.evalChange, hstate, hunwanted]
  rw [State.settled, hfirst, State.clearLatch_crossed (.inr rfl)]
  simp [State.evalChange, hunwanted]

theorem State.settled_reverting (hstate : c.state = .reverting) : s.settled p c = c := by
  have hstays : s.evalChange p c = c := by simp [State.evalChange, hstate, hunwanted]
  rw [State.settled, hstays, State.clearLatch_crossed (.inr hstate), hstays]

theorem State.settled_home (hstate : c.state = .primary ∨ c.state = .wanted) :
    s.settled p c = { c with state := .primary, latch := s.latchKept p c } := by
  have hfirst : s.evalChange p c = { c with state := .primary } := by
    rcases hstate with h | h
    · simp only [State.evalChange, h, hunwanted]
      rw [← h]
      rfl
    · simp [State.evalChange, h, hunwanted]
  rw [State.settled, hfirst, State.clearLatch_home (.inl rfl)]
  simp only [State.evalChange, hunwanted]
  rfl

end Unwanted

/-! #### The force setting stands -/

theorem State.evalChange_force (s : State) (p : Fin 16) (c : Change) : (s.evalChange p c).force = c.force := by
  have hswitch : ∀ d : Change, d.force = c.force → ((s.trySwitch p c).getD d).force = c.force := by
    intro d hd
    unfold State.trySwitch
    split
    · split
      · rfl
      · exact hd
    · exact hd
  unfold State.evalChange
  split <;> split
  · exact hswitch _ rfl
  · rfl
  · exact hswitch _ rfl
  · rfl
  · rfl
  · rfl
  · rfl
  · rfl

theorem State.settled_force (s : State) (p : Fin 16) (c : Change) : (s.settled p c).force = c.force := by
  have hclear : ∀ d : Change, (s.clearLatch p d).force = d.force := by
    intro d
    unfold State.clearLatch
    split <;> rfl
  rw [State.settled, State.evalChange_force, hclear, State.evalChange_force]

end Settle

/-! ### What the changeover reads of the part -/

/-- Two states that agree in all that the changeover of a program reads but the program's own changeover. -/
structure State.SameSource (s t : State) (p : Fin 16) : Prop where
  alternate : (t.entry p).alternate = (s.entry p).alternate
  healthy : ∀ a, t.healthy a = s.healthy a
  home : t.lanesHome p = s.lanesHome p
  held : (t.program p).holds.changeover = (s.program p).holds.changeover

theorem State.SameSource.settled {s t : State} {p : Fin 16} (h : s.SameSource t p) (hwanted : t.wanted p = s.wanted p)
    (c : Change) : t.settled p c = s.settled p c := by
  have heval : ∀ c, t.evalChange p c = s.evalChange p c := by
    intro c
    have hswitch : t.trySwitch p c = s.trySwitch p c := by
      simp only [State.trySwitch, h.alternate, h.healthy]
    simp only [State.evalChange, hwanted, hswitch]
  have hclear : ∀ c, t.clearLatch p c = s.clearLatch p c := fun c => by simp only [State.clearLatch, h.home]
  simp only [State.settled, heval, hclear]

theorem State.sameSource_retarget (s : State) (p : Fin 16) : s.SameSource (s.mapPrograms fun _ x => x.retarget) p where
  alternate := rfl
  healthy a := by
    simp only [State.healthy, State.playState, State.program_mapPrograms]
    rfl
  home := rfl
  held := by rw [State.program_mapPrograms]; rfl

theorem State.sameSource_setChange (s : State) (p q : Fin 16) (c : Change) :
    s.SameSource (s.setProgram p { s.program p with change := c }) q where
  alternate := rfl
  healthy a := by
    simp only [State.healthy, State.playState]
    by_cases ha : a = p
    · subst ha
      rw [State.program_setProgram_self]
      rfl
    · rw [State.program_setProgram_ne _ _ ha]
      rfl
  home := rfl
  held := by
    by_cases hq : q = p
    · subst hq
      rw [State.program_setProgram_self]
    · rw [State.program_setProgram_ne _ _ hq]

theorem State.settleChange_eq (s : State) (p : Fin 16) : s.settleChange p = s.settled p (s.program p).change := rfl

theorem Program.retarget_change (x : Program) : x.retarget.change = x.change := rfl

/-- The changeover of a program behind what every change hands on (R154). -/
theorem State.change_followThrough (s : State) (p : Fin 16) :
    (s.followThrough.program p).change = s.settled p (s.program p).change := by
  have hwanted : (s.mapPrograms fun _ x => x.retarget).wanted p = s.wanted p := by
    simp only [State.wanted, State.program_mapPrograms]
    rfl
  rw [State.program_followThrough]
  dsimp only
  rw [State.settleChange_eq, (s.sameSource_retarget p).settled hwanted, State.program_mapPrograms,
    Program.retarget_change]

/-! ### What is handed on (R50, R141) -/

/-- `t` follows `s` with fade targets and lines derived, and changeovers moved alone. -/
structure State.HandsOn (s t : State) : Prop where
  rest : t = { s with
    programs := t.programs
    alarm := { s.alarm with majorLine := s.lineActive .major, minorLine := s.lineActive .minor } }
  program : ∀ q, t.program q = { s.program q with
    play := { (s.program q).play with target := (s.program q).fadeTarget }, change := (t.program q).change }

theorem State.driveLines_withPrograms (s : State) (v : Vector Program 16) :
    ({ s with programs := v } : State).driveLines = { s with
      programs := v
      alarm := { s.alarm with majorLine := s.lineActive .major, minorLine := s.lineActive .minor } } := by
  have hline : ∀ severity, ({ s with programs := v } : State).lineActive severity = s.lineActive severity :=
    State.lineActive_congr rfl rfl fun _ _ => rfl
  rw [State.driveLines, hline, hline]

theorem State.exists_followThrough (s : State) : ∃ v, s.followThrough = ({ s with programs := v } : State).driveLines := by
  unfold State.followThrough State.mapPrograms
  exact ⟨_, rfl⟩

theorem State.handsOn_followThrough (s : State) : s.HandsOn s.followThrough where
  rest := by
    obtain ⟨v, hv⟩ := s.exists_followThrough
    rw [hv, State.driveLines_withPrograms]
  program q := by
    rw [State.program_followThrough]
    dsimp only [Program.retarget]

/-- Settles O18: following a change through moves fade targets, changeovers and lines alone. -/
theorem changesAreHandedOn : Obligations.ChangesAreHandedOn := by
  intro s
  refine ⟨s.handsOn_followThrough.rest, fun p => ⟨s.handsOn_followThrough.program p, ?_, fun hwanted => ⟨?_, ?_, ?_, ?_⟩,
    fun hunwanted => ⟨?_, ?_, ?_⟩⟩⟩ <;> rw [State.change_followThrough]
  · exact s.settled_force p _
  · intro a hcand hstate hhealthy
    rw [State.settled_healthy hwanted hstate hcand hhealthy]
    exact ⟨rfl, rfl, rfl⟩
  · intro hcand hstate
    refine ⟨fun b hhome halt hhealthy => ?_, fun hnone => ?_⟩
    · rw [State.settled_unlatched hwanted hstate hcand hhome halt hhealthy]
      exact ⟨rfl, rfl, rfl⟩
    · rw [State.settled_waits hwanted hstate hcand hnone]
      exact ⟨rfl, rfl⟩
  · exact State.settled_alternate hwanted
  · intro hstate
    rw [State.settled_back hwanted hstate]
    exact ⟨rfl, rfl, rfl⟩
  · intro hstate
    rw [State.settled_reverts hunwanted hstate]
    exact ⟨rfl, rfl, rfl⟩
  · exact State.settled_reverting hunwanted
  · intro hstate
    rw [State.settled_home hunwanted hstate]
    exact ⟨rfl, rfl⟩

end Sys2Proof.Machine
end

section
/-! SUPPORT. CHANGEOVER: a force setting stored and acted on (R154 to R157, R169). -/

namespace Sys2Proof.Machine

/-! ### Handing on twice, and behind a moved changeover -/

section HandsOn
variable {s t u : State} {p : Fin 16} {c : Change}

theorem State.HandsOn.fadeTarget (h : s.HandsOn t) (q : Fin 16) :
    (t.program q).fadeTarget = (s.program q).fadeTarget := by
  rw [h.program q]
  rfl

theorem State.HandsOn.lineActive (h : s.HandsOn t) (severity : Severity) :
    t.lineActive severity = s.lineActive severity := by
  rw [h.rest]
  exact State.lineActive_congr rfl rfl (fun _ _ => rfl) severity

theorem State.HandsOn.trans (h : s.HandsOn t) (k : t.HandsOn u) : s.HandsOn u where
  rest := by
    rw [k.rest, h.lineActive, h.lineActive, h.rest]
  program q := by
    rw [k.program q, h.fadeTarget, h.program q]

/-- The part with one program's changeover replaced. -/
def State.setChange (s : State) (p : Fin 16) (c : Change) : State :=
  s.setProgram p { s.program p with change := c }

theorem State.change_setChange (s : State) (p : Fin 16) (c : Change) : ((s.setChange p c).program p).change = c := by
  rw [State.setChange, State.program_setProgram_self]

theorem State.program_setChange (s : State) (p : Fin 16) (c : Change) (q : Fin 16) :
    (s.setChange p c).program q = { s.program q with change := ((s.setChange p c).program q).change } := by
  by_cases hq : q = p
  · subst hq
    rw [State.setChange, State.program_setProgram_self]
  · rw [State.setChange, State.program_setProgram_ne _ _ hq]

theorem State.HandsOn.setChange (h : (s.setChange p c).HandsOn u) : s.HandsOn u where
  rest := by
    have hline : ∀ severity, (s.setChange p c).lineActive severity = s.lineActive severity :=
      State.lineActive_congr rfl rfl fun _ _ => rfl
    rw [h.rest, hline, hline, State.setChange]
    rfl
  program q := by
    rw [h.program q, s.program_setChange]
    rfl

end HandsOn

/-- The changeover of a program behind what a replaced changeover hands on. -/
theorem State.change_followThrough_setChange {s : State} {p : Fin 16} {c : Change}
    (hwanted : (s.setChange p c).wanted p = s.wanted p) :
    ((s.setChange p c).followThrough.program p).change = s.settled p c := by
  rw [State.change_followThrough, State.change_setChange, State.setChange,
    (s.sameSource_setChange p p c).settled hwanted]

/-! ### A stored force setting -/

/-- A changeover with its force setting stored. -/
def Change.forced (c : Change) (f : Force) : Change := { c with force := f }

/-- The part with the force setting of a program stored. -/
def State.forced (s : State) (p : Fin 16) (f : Force) : State :=
  s.setChange p ((s.program p).change.forced f)

/-- A program is brought home and the change is handed on. -/
def State.goHome (s : State) (p : Fin 16) : State :=
  (s.setChange p (s.program p).change.backHome).followThrough

theorem State.applyForce_eq (s : State) (p : Fin 16) (f : Force) : s.applyForce p f =
    match f with
    | .forcePrimary => (s.forced p .forcePrimary).goHome p
    | .forceAlternate => (s.forced p .forceAlternate).followThrough
    | .automatic =>
      if ((s.forced p .automatic).followThrough.program p).change.state = .reverting then
        (s.forced p .automatic).followThrough.goHome p
      else (s.forced p .automatic).followThrough := by
  cases f <;> rfl

theorem State.handsOn_goHome (s : State) (p : Fin 16) : s.HandsOn (s.goHome p) :=
  (State.handsOn_followThrough _).setChange

theorem State.handsOn_forced (s : State) (p : Fin 16) (f : Force) : s.HandsOn (s.forced p f).followThrough :=
  (State.handsOn_followThrough _).setChange

theorem State.handsOn_applyForce (s : State) (p : Fin 16) (f : Force) : s.HandsOn (s.applyForce p f) := by
  rw [State.applyForce_eq]
  cases f with
  | forcePrimary => exact (State.handsOn_goHome _ p).setChange
  | forceAlternate => exact s.handsOn_forced p _
  | automatic =>
    dsimp only
    split
    · exact (s.handsOn_forced p _).trans (State.handsOn_goHome _ p)
    · exact s.handsOn_forced p _

section Forced
variable {s : State} {p : Fin 16} {f : Force}

theorem State.wanted_forced (s : State) (p : Fin 16) (f : Force) : (s.forced p f).wanted p =
    match f with
    | .forceAlternate => true
    | .automatic => decide (0 < (s.program p).holds.changeover)
    | .forcePrimary => false := by
  rw [State.wanted, State.forced, State.change_setChange, s.program_setChange]
  rfl

theorem Change.backHome_state (c : Change) : c.backHome.state = .primary ∨ c.backHome.state = .wanted := by
  cases h : c.state <;> simp [Change.backHome, ChangeoverState.crossed, h]

theorem Change.backHome_force (c : Change) : c.backHome.force = c.force := by
  unfold Change.backHome
  split <;> rfl

theorem State.wanted_setChange {c : Change} (hforce : c.force = (s.program p).change.force) :
    (s.setChange p c).wanted p = s.wanted p := by
  simp only [State.wanted, State.change_setChange, hforce]
  simp only [State.setChange, State.program_setProgram_self]

/-- A program whose changeover is not wanted is brought to PRIMARY. -/
theorem State.goHome_primary (hunwanted : s.wanted p = false) : ((s.goHome p).program p).change.state = .primary := by
  rw [State.goHome, State.change_followThrough_setChange (State.wanted_setChange (Change.backHome_force _)),
    State.settled_home hunwanted (Change.backHome_state _)]

theorem State.goHome_force (s : State) (p : Fin 16) :
    ((s.goHome p).program p).change.force = (s.program p).change.force := by
  rw [State.goHome, State.change_followThrough_setChange (State.wanted_setChange (Change.backHome_force _)),
    State.settled_force, Change.backHome_force]

/-- What the stored force setting makes of the program's changeover. -/
theorem State.change_forced (s : State) (p : Fin 16) (f : Force) :
    ((s.forced p f).followThrough.program p).change =
      (s.forced p f).settled p ((s.program p).change.forced f) := by
  rw [State.change_followThrough]
  congr 1
  exact State.change_setChange _ _ _

theorem State.applyForce_force (s : State) (p : Fin 16) (f : Force) :
    ((s.applyForce p f).program p).change.force = f := by
  have hforced : ∀ f, ((s.forced p f).followThrough.program p).change.force = f := fun f => by
    rw [State.change_forced, State.settled_force]
    rfl
  rw [State.applyForce_eq]
  cases f with
  | forcePrimary => exact (State.goHome_force _ p).trans (congrArg Change.force (State.change_setChange _ _ _))
  | forceAlternate => exact hforced _
  | automatic =>
    dsimp only
    split
    · exact (State.goHome_force _ p).trans (hforced _)
    · exact hforced _

theorem State.applyForce_primary (s : State) (p : Fin 16) :
    ((s.applyForce p .forcePrimary).program p).change.state = .primary := by
  rw [State.applyForce_eq]
  exact State.goHome_primary (s.wanted_forced p .forcePrimary)

/-- AUTOMATIC with no CHANGEOVER in force brings every program home. -/
theorem State.applyForce_released (hheld : (s.program p).holds.changeover = 0) :
    ((s.applyForce p .automatic).program p).change.state = .primary := by
  have hunwanted : (s.forced p .automatic).wanted p = false := by
    rw [State.wanted_forced, hheld]
    rfl
  have hstill : (s.forced p .automatic).followThrough.wanted p = false := by
    have hprogram : ((s.forced p .automatic).followThrough.program p).holds = ((s.forced p .automatic).program p).holds := by
      rw [State.program_followThrough]
      rfl
    rw [State.wanted, State.change_forced, State.settled_force, hprogram, State.forced, s.program_setChange]
    exact decide_eq_false (Nat.not_lt.mpr hheld.le)
  rw [State.applyForce_eq]
  dsimp only
  split
  next => exact State.goHome_primary hstill
  next hnot =>
    rw [State.change_forced] at hnot ⊢
    cases hstate : ((s.program p).change.forced .automatic).state with
    | primary => rw [State.settled_home hunwanted (.inl hstate)]
    | wanted => rw [State.settled_home hunwanted (.inr hstate)]
    | alternate => exact absurd (by rw [State.settled_reverts hunwanted hstate]) hnot
    | reverting => exact absurd (by rw [State.settled_reverting hunwanted hstate]; exact hstate) hnot

theorem State.trySwitch_getD_state (s : State) (p : Fin 16) (c d : Change) :
    ((s.trySwitch p c).getD d).state = .alternate ∨ ((s.trySwitch p c).getD d).state = d.state := by
  unfold State.trySwitch
  split
  · split
    · exact .inl rfl
    · exact .inr rfl
  · exact .inr rfl

/-- A changeover that is wanted does not revert. -/
theorem State.settled_state_ne {c : Change} (hwanted : s.wanted p = true) : (s.settled p c).state ≠ .reverting := by
  have heval : ∀ c, (s.evalChange p c).state ≠ .reverting := by
    intro c
    cases hstate : c.state with
    | primary =>
      simp only [State.evalChange, hstate, hwanted, if_true]
      rcases s.trySwitch_getD_state p c { c with state := .wanted } with h | h <;> rw [h] <;> simp
    | wanted =>
      simp only [State.evalChange, hstate, hwanted, if_true]
      rcases s.trySwitch_getD_state p c c with h | h <;> rw [h] <;> simp [hstate]
    | alternate => simp [State.evalChange, hstate, hwanted]
    | reverting => simp [State.evalChange, hstate, hwanted]
  exact heval _

/-- With changeover wanted under the stored setting, the changeover is what one re-evaluation makes of it. -/
theorem State.applyForce_wanted (hwanted : (s.forced p f).wanted p = true) :
    ((s.applyForce p f).program p).change = (s.forced p f).settled p ((s.program p).change.forced f) := by
  rw [← State.change_forced, State.applyForce_eq]
  cases f with
  | forcePrimary => rw [State.wanted_forced] at hwanted; exact absurd hwanted Bool.false_ne_true
  | forceAlternate => dsimp only
  | automatic =>
    dsimp only
    split
    next hreverting =>
      rw [State.change_forced] at hreverting
      exact absurd hreverting (State.settled_state_ne hwanted)
    next => rfl

end Forced

theorem Force.ofCode_of_code {n : Nat} {f : Force} (h : (n : Int) = f.code) : Force.ofCode n = some f := by
  cases f with
  | automatic => rw [show n = 0 from Int.ofNat.inj h]; rfl
  | forceAlternate => rw [show n = 1 from Int.ofNat.inj h]; rfl
  | forcePrimary => rw [show n = 2 from Int.ofNat.inj h]; rfl

theorem Force.ofCode_of_lt {n : Nat} (h : 2 < n) : Force.ofCode n = none := by
  obtain ⟨k, rfl⟩ := Nat.exists_eq_add_of_le' h
  rfl

/-- A changeover that is wanted: what becomes of it, by the candidate's health (R155, R157). -/
theorem State.applyForce_moves {s : State} {p : Fin 16} {f : Force} (hwanted : (s.forced p f).wanted p = true) :
    let c := (s.program p).change
    let d := ((s.applyForce p f).program p).change
    (c.state = .alternate ∨ c.state = .reverting → d.state = .alternate ∧ d.latch = c.latch) ∧
    (c.state = .primary ∨ c.state = .wanted →
      (∀ a, (c.latch.or (s.entry p).alternate) = some a → s.healthy a = false) →
      (∀ b, s.lanesHome p = true → (s.entry p).alternate = some b → s.healthy b = true →
        d.state = .alternate ∧ d.latch = some b) ∧
      (s.lanesHome p = false ∨ (∀ b, (s.entry p).alternate = some b → s.healthy b = false) →
        d.state = .wanted ∧ d.latch = if s.lanesHome p then none else c.latch)) ∧
    ∀ a, c.state = .primary ∨ c.state = .wanted → (c.latch.or (s.entry p).alternate) = some a →
      s.healthy a = true → d.state = .alternate ∧ d.latch = some a := by
  dsimp only
  rw [State.applyForce_wanted hwanted]
  have hsource := s.sameSource_setChange p p ((s.program p).change.forced f)
  refine ⟨fun hstate => ?_, fun hstate hcand => ⟨fun b hhome halt hhealthy => ?_, fun hnone => ?_⟩,
    fun a hstate hcand hhealthy => ?_⟩
  · rcases hstate with halt | hback
    · rw [State.settled_alternate (c := (s.program p).change.forced f) hwanted halt]
      exact ⟨halt, rfl⟩
    · rw [State.settled_back (c := (s.program p).change.forced f) hwanted hback]
      exact ⟨rfl, rfl⟩
  · have hcand' : ∀ a, _ → (s.forced p f).healthy a = false := fun a ha => (hsource.healthy a).trans (hcand a ha)
    rw [State.settled_unlatched (c := (s.program p).change.forced f) hwanted hstate hcand' (hsource.home.trans hhome) halt ((hsource.healthy b).trans hhealthy)]
    exact ⟨rfl, rfl⟩
  · have hcand' : ∀ a, _ → (s.forced p f).healthy a = false := fun a ha => (hsource.healthy a).trans (hcand a ha)
    have hnone' : (s.forced p f).lanesHome p = false ∨ ∀ b, _ → (s.forced p f).healthy b = false :=
      hnone.imp (hsource.home.trans ·) fun h b hb => (hsource.healthy b).trans (h b hb)
    rw [State.settled_waits (c := (s.program p).change.forced f) hwanted hstate hcand' hnone']
    exact ⟨rfl, rfl⟩
  · rw [State.settled_healthy (c := (s.program p).change.forced f) hwanted hstate hcand ((hsource.healthy a).trans hhealthy)]
    exact ⟨rfl, rfl⟩

/-- Settles O48: a force setting is stored and acted on. -/
theorem changeoversAreForced : Obligations.ChangeoversAreForced := by
  intro s o h hrow
  have hrun : exec .changeover s = .next (State.finish o (s.dropHead.orderChangeover o)) := by
    rw [exec_of_takes h hrow, State.carryOut, hrow]
  refine ⟨fun hi => ?_, fun hi hvalue => ?_, fun p f hp hf => ⟨s.dropHead.applyForce p f, ?_, ?_, ?_, ?_, ?_, ?_, ?_⟩⟩
  · rw [hrun, State.orderChangeover, Order.program_of_le hi]
    rfl
  · rw [hrun, State.orderChangeover, Order.program_at (p := ⟨_, hi⟩) rfl]
    dsimp only
    rw [Force.ofCode_of_lt hvalue]
    rfl
  · rw [hrun, State.orderChangeover, Order.program_at hp]
    dsimp only
    rw [Force.ofCode_of_code hf]
    rfl
  · exact (s.dropHead.handsOn_applyForce p f).rest
  · exact (s.dropHead.handsOn_applyForce p f).program
  · exact s.dropHead.applyForce_force p f
  · rintro rfl
    exact s.dropHead.applyForce_primary p
  · rintro rfl hheld
    exact State.applyForce_released hheld
  · intro hwanted
    refine State.applyForce_moves (s := s.dropHead) ?_
    rw [State.wanted_forced]
    rcases hwanted with rfl | ⟨rfl, hheld⟩
    · rfl
    · exact decide_eq_true hheld

end Sys2Proof.Machine
end

section
/-! SUPPORT. The reference (R149), and what comes about by a timeout: LANE_STALLED, LANE_LOST, PICTURE_TIMEOUT and
AUTO_REVERT (R20, R22, R44, R45, R88, R156). -/

namespace Sys2Proof.Machine

/-! ### Rest -/

theorem State.urgentInput_of_rest {s : State} (h : s.atRest) : s.urgentInput = none := by
  have hstep := State.urgentStep_of_quiet h.2
  rw [State.urgentStep, if_pos h.1] at hstep
  exact (Option.or_eq_none_iff.mp hstep).1

/-- At rest no reference lock is due (R149). -/
theorem State.referenceDue_of_rest {s : State} (h : s.atRest) : s.referenceDue = false := by
  have hinput := State.urgentInput_of_rest h
  unfold State.urgentInput at hinput
  split at hinput
  · cases hinput
  · split at hinput
    · cases hinput
    · next hdue => exact Bool.not_eq_true _ ▸ hdue

theorem State.goodCycles_of_rest {s : State} (h : s.atRest) (hselect : s.tables.settings.select = .external)
    (hlocked : s.house.reference ≠ .locked) : s.house.goodCycles < 48 := by
  have hdue := State.referenceDue_of_rest h
  rw [State.referenceDue, State.select, hselect, bne_iff_ne.mpr hlocked, beq_self_eq_true, Bool.true_and,
    Bool.true_and, decide_eq_false_iff_not] at hdue
  exact Nat.not_le.mp hdue

/-! ### The reference (R149) -/

theorem exec_referenceCycle {s : State} (h : s.atRest) (good : Bool) : exec (.referenceCycle good) s =
    .next (if s.tables.settings.select = .external then { s with house := s.house.cycle good } else s) :=
  congrArg Host.Outcome.next (State.outside_of_rest h _)

section Cycle
variable {h : House}

theorem House.cycle_bad (hlocked : h.reference = .locked) :
    h.cycle false = { h with reference := .holdover, goodCycles := 0, leftLocked := true } := by
  simp only [House.cycle, hlocked]

theorem House.cycle_good (hlocked : h.reference = .locked) : h.cycle true = h := by
  simp only [House.cycle, hlocked]

theorem House.cycle_counts (hlocked : h.reference ≠ .locked) (hcount : h.goodCycles < 48) :
    h.cycle true = { h with goodCycles := h.goodCycles + 1 } := by
  have hmin : min (h.goodCycles + 1) lockCycles = h.goodCycles + 1 := Nat.min_eq_left hcount
  cases href : h.reference with
  | locked => exact absurd href hlocked
  | seeking | holdover => simp only [House.cycle, href, hmin]

theorem House.cycle_restarts (hlocked : h.reference ≠ .locked) : h.cycle false = { h with goodCycles := 0 } := by
  cases href : h.reference with
  | locked => exact absurd href hlocked
  | seeking | holdover => simp only [House.cycle, href]

end Cycle

/-- Settles O24: the table of R149, and the lock at 48 good cycles. -/
theorem referenceCyclesAreCounted : Obligations.ReferenceCyclesAreCounted := by
  intro s
  refine ⟨fun h hselect good => ?_, fun h hselect => ⟨fun hlocked => ⟨?_, ?_⟩, fun hlocked => ⟨?_, ?_⟩⟩,
    fun hrunning hselect hlocked hcount => ?_⟩
  · rw [exec_referenceCycle h, hselect]
    rfl
  · rw [exec_referenceCycle h, if_pos hselect, House.cycle_good hlocked]
  · rw [exec_referenceCycle h, if_pos hselect, House.cycle_bad hlocked]
  · rw [exec_referenceCycle h, if_pos hselect, House.cycle_counts hlocked (State.goodCycles_of_rest h hselect hlocked)]
  · rw [exec_referenceCycle h, if_pos hselect, House.cycle_restarts hlocked]
  · have hdue : s.referenceDue = true := by
      rw [State.referenceDue, State.select, hselect, bne_iff_ne.mpr hlocked]
      exact decide_eq_true hcount
    exact congrArg Host.Outcome.next (State.ownCommand_of_due hrunning hdue _)

/-! ### The program a lane is a member of (R39) -/

theorem State.programOf_of_memberOf {s : State} {l : Fin 32} {p : Fin 16} (h : s.memberOf l p) :
    s.programOf l = some p := by
  obtain ⟨⟨hone, _⟩, hdefined, hmember⟩ := h
  have hp : ((s.entry p).defined && (s.entry p).members.contains l) = true :=
    Bool.and_eq_true_iff.mpr ⟨hdefined, List.contains_iff_mem.mpr hmember⟩
  unfold State.programOf
  cases hfind : (List.finRange 16).find? fun p => (s.entry p).defined && (s.entry p).members.contains l with
  | none => exact absurd hp (by simpa using List.find?_eq_none.mp hfind p (List.mem_finRange p))
  | some q =>
    have hfound := List.find?_some hfind
    obtain ⟨hq, hql⟩ := Bool.and_eq_true_iff.mp hfound
    by_contra hne
    exact hone q p l (fun h => hne (h ▸ rfl)) hq hdefined (List.contains_iff_mem.mp hql) hmember

/-! ### Lanes of themselves (R20, R22) -/

section Lost
variable {s : State} {l : Fin 32} {p : Fin 16}

/-- The part with a lane made LOST. -/
def State.lost (s : State) (l : Fin 32) : State := s.setLane l { s.lane l with status := .lost }

theorem State.loseLane_eq (h : s.memberOf l p) : s.loseLane l =
    if s.leader p = some l then (s.lost l).tellLeaderLost p else s.lost l := by
  have hof : (s.lost l).programOf l = some p := State.programOf_of_memberOf (s := s) h
  unfold State.loseLane
  dsimp only
  rw [show s.setLane l { s.lane l with status := .lost } = s.lost l from rfl, hof]
  dsimp only
  rw [show (s.lost l).leader p = s.leader p from rfl]
  by_cases hleader : s.leader p = some l
  · rw [if_pos hleader, if_pos (beq_iff_eq.mpr hleader)]
  · rw [if_neg hleader, if_neg (mt beq_iff_eq.mp hleader)]

theorem State.program_lost (s : State) (l : Fin 32) (p : Fin 16) : (s.lost l).program p = s.program p := rfl

theorem State.tellLeaderLost_still (h : (s.program p).play.state = .priming ∨ (s.program p).play.state = .holdover ∨
    (s.program p).play.state = .resyncing ∨ (s.program p).play.state = .parking) : s.tellLeaderLost p = s := by
  unfold State.tellLeaderLost State.playState
  rcases h with h | h | h | h <;> rw [h]

theorem State.tellLeaderLost_running (h : (s.program p).play.state = .running) :
    s.tellLeaderLost p = s.enterHoldover p := by
  unfold State.tellLeaderLost State.playState
  rw [h]

theorem State.tellLeaderLost_warming (h : (s.program p).play.state = .warming) (hpos : (s.program p).conv.pos ≠ none) :
    s.tellLeaderLost p = (s.setProgram p (s.program p).resyncing).followThrough := by
  have hresyncs : (s.program p).resyncs = true := by
    rw [Program.resyncs, h, Option.isSome_iff_ne_none.mpr hpos]
    rfl
  unfold State.tellLeaderLost State.playState
  rw [h]
  exact (s.requestResync_eq p).trans (if_pos hresyncs)

end Lost

/-- Settles O30: what each timeout makes of its lane or program. -/
theorem timeoutsTakeEffect : Obligations.TimeoutsTakeEffect := by
  intro s hrunning
  refine ⟨fun p => ⟨fun hdue => ?_, fun hstate hdue => ?_⟩, fun l => ⟨fun hstatus hidle => ?_,
    fun hstatus hidle p hmember => ?_⟩⟩
  · exact congrArg Host.Outcome.next (State.ownCommand_of_due hrunning hdue _)
  · have hdue : s.revertDue p = true := by
      rw [State.revertDue, hstate, hdue]
      rfl
    exact congrArg Host.Outcome.next (State.ownCommand_of_due hrunning hdue _)
  · have hdue : s.stallDue l = true := by
      rw [State.stallDue, hstatus]
      exact decide_eq_true hidle
    exact congrArg Host.Outcome.next (State.ownCommand_of_due hrunning hdue _)
  · have hdue : s.lostDue l = true := by
      rw [State.lostDue]
      rcases hstatus with h | h | h <;> rw [h] <;> exact decide_eq_true hidle
    have hrun : exec (.laneLost l) s = .next (s.loseLane l) :=
      congrArg Host.Outcome.next (State.ownCommand_of_due hrunning hdue _)
    rw [hrun, State.loseLane_eq hmember]
    refine ⟨fun hstill => ?_, fun hleader hstate => ?_, fun hleader hstate hpos => ?_⟩
    · split
      · next hleader =>
        rw [State.tellLeaderLost_still (s := s.lost l) (hstill.resolve_left (not_not.mpr hleader))]
        rfl
      · rfl
    · rw [if_pos hleader, State.tellLeaderLost_running (s := s.lost l) (p := p) hstate]
      rfl
    · rw [if_pos hleader, State.tellLeaderLost_warming (s := s.lost l) (p := p) hstate hpos]
      rfl

end Sys2Proof.Machine
end

section
/-! SUPPORT. Judging a record tick by tick (R131 to R136). -/

namespace Sys2Proof.Machine

/-! ### One tick, state by state -/

section Tick
variable {x : Record} {rl : Rule}

theorem Record.tick_clear_absent (h : x.state = .clear) : x.tick rl false = { x with due := none } := by
  simp [Record.tick, h]

theorem Record.tick_clear_present (h : x.state = .clear) : x.tick rl true = Record.qualifyDue { x with
    due := none, state := .qualifying, acked := false, qual := 1
    window := if rl.qualify = QualifyMode.count then 1 else 0 } rl := by
  simp [Record.tick, h]

theorem Record.tick_persist_present (h : x.state = .qualifying) (hmode : rl.qualify = .persist) :
    x.tick rl true = Record.qualifyDue { x with due := none, qual := x.qual + 1 } rl := by
  simp [Record.tick, h, hmode]

theorem Record.tick_persist_absent (h : x.state = .qualifying) (hmode : rl.qualify = .persist) :
    x.tick rl false = { x with due := none, state := .clear, qual := 0 } := by
  simp [Record.tick, h, hmode]

theorem Record.tick_count (h : x.state = .qualifying) (hmode : rl.qualify = .count) (present : Bool) :
    x.tick rl present =
      Record.qualifyDue { x with due := none, window := x.window + 1, qual := x.qual + present.toNat } rl := by
  simp [Record.tick, h, hmode]

theorem Record.tick_raised_stretch (h : x.state = .raised) (hstretch : x.stretch ≠ 0) (present : Bool) :
    x.tick rl present = { x with due := none, stretch := x.stretch - 1 } := by
  simp [Record.tick, h, hstretch]

theorem Record.tick_raised_present (h : x.state = .raised) (hstretch : x.stretch = 0) :
    x.tick rl true = { x with due := none } := by
  simp [Record.tick, h, hstretch]

theorem Record.tick_raised_absent (h : x.state = .raised) (hstretch : x.stretch = 0) :
    x.tick rl false = Record.releaseDue { x with due := none, state := .releasing, release := 0 } rl := by
  simp [Record.tick, h, hstretch]

theorem Record.tick_releasing_present (h : x.state = .releasing) : x.tick rl true = { x with due := some .raise } := by
  simp [Record.tick, h]

theorem Record.tick_releasing_absent (h : x.state = .releasing) :
    x.tick rl false = Record.releaseDue { x with due := none, release := x.release + 1 } rl := by
  simp [Record.tick, h]

theorem Record.tick_ackWait_present (h : x.state = .ackWait) : x.tick rl true = { x with due := some .raise } := by
  simp [Record.tick, h]

theorem Record.tick_ackWait_absent (h : x.state = .ackWait) : x.tick rl false = { x with due := none } := by
  simp [Record.tick, h]

/-! ### What becomes due (R131 to R133, R135) -/

/-- The move that qualifying brings, by the present ticks counted and the ticks of the window. -/
def Rule.qualifyMove (rl : Rule) (qual window : Nat) : Option DueMove :=
  if rl.n ≤ qual then some .raise
  else if rl.qualify = .count ∧ rl.w ≤ window then some .windowEnd
  else none

theorem Record.qualifyDue_eq (x : Record) (rl : Rule) :
    x.qualifyDue rl = { x with due := rl.qualifyMove x.qual x.window } := by
  unfold Record.qualifyDue Rule.qualifyMove
  split
  · rfl
  · simp only [Bool.and_eq_true, beq_iff_eq, decide_eq_true_eq]
    split <;> rfl

theorem Rule.qualifyMove_reached {qual window : Nat} (h : rl.n ≤ qual) : rl.qualifyMove qual window = some .raise :=
  if_pos h

theorem Rule.qualifyMove_persist {qual window : Nat} (hmode : rl.qualify = .persist) (h : qual < rl.n) :
    rl.qualifyMove qual window = none := by
  rw [Rule.qualifyMove, if_neg (Nat.not_le.mpr h), hmode]
  exact if_neg fun hcount => QualifyMode.noConfusion hcount.1

end Tick

/-! ### Ticks in a row -/

/-- The record behind a number of ticks at which the condition is the same. -/
def Record.ticks (rl : Rule) (present : Bool) (k : Nat) (x : Record) : Record :=
  Nat.repeat (fun y => Record.tick y rl present) k x

theorem Record.ticks_succ (rl : Rule) (present : Bool) (k : Nat) (x : Record) :
    Record.ticks rl present (k + 1) x = (Record.ticks rl present k x).tick rl present := rfl

section Row
variable {x : Record} {rl : Rule}

/-- Under PERSIST the present ticks in a row are counted (R131). -/
theorem Record.ticks_persist (hmode : rl.qualify = .persist) (h : x.state = .clear) (k : Nat) :
    (Record.ticks rl true (k + 1) x).state = .qualifying ∧ (Record.ticks rl true (k + 1) x).qual = k + 1 ∧
      (Record.ticks rl true (k + 1) x).due =
        rl.qualifyMove (k + 1) (Record.ticks rl true (k + 1) x).window := by
  induction k with
  | zero =>
    rw [Record.ticks_succ, show Record.ticks rl true 0 x = x from rfl, Record.tick_clear_present h,
      Record.qualifyDue_eq]
    exact ⟨rfl, rfl, rfl⟩
  | succ k ih =>
    obtain ⟨hstate, hqual, _⟩ := ih
    rw [Record.ticks_succ, Record.tick_persist_present hstate hmode, Record.qualifyDue_eq, hqual]
    exact ⟨hstate, rfl, rfl⟩

/-- Under COUNT the ticks of the window and the present ones among them are counted (R132, R133). -/
theorem Record.foldl_tick_count (hmode : rl.qualify = .count) {ticks : List Bool} (hne : ticks ≠ [])
    (hstart : match x.state with
      | .qualifying => x.window = 0 ∧ x.qual = 0
      | .clear => ticks.head? = some true
      | _ => False) :
    let y := ticks.foldl (fun y present => Record.tick y rl present) x
    y.state = .qualifying ∧ y.qual = ticks.count true ∧ y.window = ticks.length ∧
      y.due = rl.qualifyMove (ticks.count true) ticks.length := by
  induction ticks using List.reverseRecOn with
  | nil => exact absurd rfl hne
  | append_singleton init b ih =>
    dsimp only at ih ⊢
    have hcounted : ∀ y : Record, y.state = .qualifying → y.qual = init.count true → y.window = init.length →
        (y.tick rl b).state = .qualifying ∧ (y.tick rl b).qual = (init ++ [b]).count true ∧
        (y.tick rl b).window = (init ++ [b]).length ∧
        (y.tick rl b).due = rl.qualifyMove ((init ++ [b]).count true) (init ++ [b]).length := by
      intro y hstate hqual hwindow
      have hcount : (init ++ [b]).count true = init.count true + b.toNat := by
        cases b <;> simp
      rw [Record.tick_count hstate hmode, Record.qualifyDue_eq, hcount, List.length_append, ← hqual, ← hwindow]
      exact ⟨hstate, rfl, rfl, rfl⟩
    rw [List.foldl_append]
    rcases List.eq_nil_or_concat init with rfl | ⟨front, c, hinit⟩
    · cases hstate : x.state with
      | qualifying =>
        rw [hstate] at hstart
        exact hcounted x hstate hstart.2 hstart.1
      | clear =>
        rw [hstate] at hstart
        obtain rfl : b = true := Option.some.inj hstart
        rw [List.foldl_nil, List.foldl_cons, List.foldl_nil, Record.tick_clear_present hstate, Record.qualifyDue_eq,
          hmode]
        exact ⟨rfl, rfl, rfl, rfl⟩
      | raised | releasing | ackWait =>
        rw [hstate] at hstart
        exact hstart.elim
    · have hinit : init ≠ [] := by
        rw [hinit]
        simp
      obtain ⟨hstate, hqual, hwindow, _⟩ := ih hinit (by rwa [List.head?_append_of_ne_nil _ hinit] at hstart)
      exact hcounted _ hstate hqual hwindow

/-- A raised record counts its stretch down (R134). -/
theorem Record.ticks_stretch (h : x.state = .raised) (present : Bool) (k : Nat) (hk : k ≤ x.stretch) :
    Record.ticks rl present k x = { x with stretch := x.stretch - k, due := if k = 0 then x.due else none } := by
  induction k with
  | zero => rfl
  | succ k ih =>
    have hleft : x.stretch - k ≠ 0 := by omega
    rw [Record.ticks_succ, ih (by omega)]
    refine (Record.tick_raised_stretch ?_ ?_ present).trans rfl
    · exact h
    · exact hleft

/-- A releasing record counts the absent ticks in a row (R135). -/
theorem Record.ticks_release (h : x.state = .releasing) (k : Nat) :
    Record.ticks rl false (k + 1) x = { x with
      release := x.release + (k + 1)
      due := if rl.releaseTime ≤ x.release + (k + 1) then some .release else none } := by
  induction k with
  | zero =>
    rw [Record.ticks_succ, show Record.ticks rl false 0 x = x from rfl, Record.tick_releasing_absent h]
    rfl
  | succ k ih =>
    rw [Record.ticks_succ, ih]
    refine (Record.tick_releasing_absent ?_).trans rfl
    exact h

end Row

/-- Settles O36: PERSIST, COUNT, the stretch, RELEASING and ACK_WAIT, tick by tick. -/
theorem persistRaisesAtNth : Obligations.PersistRaisesAtNth := by
  intro rl x hn hw
  refine ⟨fun hmode hclear => ⟨fun k hk hkn => ?_, ?_⟩, fun hmode ticks => ?_, Record.tick_clear_absent,
    fun hraised => ⟨fun k present hk => ?_, fun hstretch => ⟨?_, ?_, ?_, ?_⟩⟩, fun hreleasing => ⟨?_, fun k hk => ?_⟩,
    fun hwait => ⟨?_, ?_⟩⟩
  · obtain ⟨j, rfl⟩ := Nat.exists_eq_add_of_le' hk
    obtain ⟨hstate, hqual, hdue⟩ := Record.ticks_persist hmode hclear j
    rw [Rule.qualifyMove_persist hmode hkn] at hdue
    have habsent := Record.tick_persist_absent hstate hmode
    exact ⟨hstate, hqual, hdue, congrArg Record.state habsent, congrArg Record.due habsent⟩
  · obtain ⟨j, hj⟩ := Nat.exists_eq_add_of_le' hn
    obtain ⟨hstate, _, hdue⟩ := Record.ticks_persist (rl := rl) hmode hclear j
    rw [← hj, Rule.qualifyMove_reached le_rfl] at hdue
    rw [← hj] at hstate
    exact ⟨hstate, hdue⟩
  · intro start hstart hne hlength _
    obtain ⟨hstate, hqual, hwindow, hdue⟩ := Record.foldl_tick_count hmode hne hstart
    refine ⟨hstate, hqual, hwindow, hdue.trans ?_⟩
    have hfull : rl.w ≤ ticks.length ↔ ticks.length = rl.w := ⟨fun h => le_antisymm hlength h, fun h => h.ge⟩
    simp only [Rule.qualifyMove, hmode, true_and, hfull]
  · exact Record.ticks_stretch hraised present k hk
  · rw [Record.tick_raised_present hraised hstretch]
    exact hraised
  · rw [Record.tick_raised_absent hraised hstretch]
    rfl
  · rw [Record.tick_raised_absent hraised hstretch]
    rfl
  · rw [Record.tick_raised_absent hraised hstretch]
    simp [Record.releaseDue]
  · exact Record.tick_releasing_present hreleasing
  · obtain ⟨j, rfl⟩ := Nat.exists_eq_add_of_le' hk
    exact Record.ticks_release hreleasing j
  · exact Record.tick_ackWait_present hwait
  · exact Record.tick_ackWait_absent hwait

end Sys2Proof.Machine
end

section
/-! SUPPORT. ALARM_TICK: the counts, and every condition at the tick (R6, R20, R22, R88, R125 to R127, R151, R156). -/

namespace Sys2Proof.Machine

/-! ### The counts of a tick -/

theorem State.lane_tickCounts (s : State) (l : Fin 32) : s.tickCounts.lane l = (s.lane l).tick := by
  rw [State.tickCounts, State.lane_mapPrograms, State.lane_mapLanes]

theorem State.program_tickCounts (s : State) (p : Fin 16) : s.tickCounts.program p = { s.program p with
    servo := (s.program p).servo.tick (s.entry p) (s.active p)
    change := (s.program p).change.tick (s.entry p) } := by
  rw [State.tickCounts, State.program_mapPrograms, State.program_mapLanes]
  rfl

theorem State.tickCounts_tables (s : State) : s.tickCounts.tables = s.tables := by
  rw [State.tickCounts, State.mapPrograms_tables, State.mapLanes_tables]

theorem State.tickCounts_rx (s : State) : s.tickCounts.rx = s.rx := by
  rw [State.tickCounts, State.mapPrograms_rx, State.mapLanes_rx]

theorem State.tickCounts_alarm (s : State) : s.tickCounts.alarm = s.alarm := by
  rw [State.tickCounts, State.mapPrograms_alarm, State.mapLanes_alarm]

theorem State.tickCounts_house (s : State) : s.tickCounts.house = s.house := by
  rw [State.tickCounts, State.mapPrograms_house, State.mapLanes_house]

theorem State.tickCounts_node (s : State) : s.tickCounts.node = s.node := by
  rw [State.tickCounts, State.mapPrograms_node, State.mapLanes_node]

theorem State.entry_tickCounts (s : State) (p : Fin 16) : s.tickCounts.entry p = s.entry p := by
  rw [State.entry, State.tickCounts_tables, State.entry]

theorem State.laneEntry_tickCounts (s : State) (l : Fin 32) : s.tickCounts.laneEntry l = s.laneEntry l := by
  rw [State.laneEntry, State.tickCounts_tables, State.laneEntry]

theorem State.rule_tickCounts (s : State) (r : Fin 64) : s.tickCounts.rule r = s.rule r := by
  rw [State.rule, State.tickCounts_tables, State.rule]

theorem State.record_tickCounts (s : State) (r : Fin 64) : s.tickCounts.record r = s.record r := by
  rw [State.record, State.tickCounts_alarm, State.record]

theorem State.active_tickCounts (s : State) (p : Fin 16) : s.tickCounts.active p = s.active p := by
  rw [State.active, State.active, State.playState, State.playState, State.program_tickCounts]

theorem Lane.tick_eq (x : Lane) :
    x.tick = { x with idle := if x.status = .parked then x.idle else min (x.idle + 1) 65535 } := by
  unfold Lane.tick
  split
  · rfl
  · rfl

section Counted
variable {v : Servo} {e : ProgramEntry} {c : Change} {active : Bool}

theorem Servo.tick_follows (hactive : active = true) (hmode : e.delayMode = .follow) : v.tick e active = { v with
    pictureIdle := min (v.pictureIdle + 1) 65535
    pictureDue := decide (e.pictureTimeout ≤ min (v.pictureIdle + 1) 65535) && !v.pictureLate
    pictureLate := decide (e.pictureTimeout ≤ min (v.pictureIdle + 1) 65535) && v.pictureLate } := by
  rw [Servo.tick, hactive, hmode]
  rfl

theorem Servo.tick_stands (h : ¬ (active = true ∧ e.delayMode = .follow)) :
    v.tick e active = { v with pictureDue := false, pictureLate := false } := by
  rw [Servo.tick, if_neg]
  rwa [Bool.and_eq_true, beq_iff_eq]

theorem Servo.tick_eq (v : Servo) (e : ProgramEntry) (active : Bool) : v.tick e active = { v with
    pictureIdle := if active = true ∧ e.delayMode = .follow then min (v.pictureIdle + 1) 65535 else v.pictureIdle
    pictureDue := (v.tick e active).pictureDue, pictureLate := (v.tick e active).pictureLate } := by
  by_cases h : active = true ∧ e.delayMode = .follow
  · rw [if_pos h, Servo.tick_follows h.1 h.2]
  · rw [if_neg h, Servo.tick_stands h]

/-- The picture is late, or due to be, exactly from its timeout on (R88). -/
theorem Servo.tick_late (hactive : active = true) (hmode : e.delayMode = .follow) :
    (v.tick e active).pictureDue = true ∨ (v.tick e active).pictureLate = true ↔
      e.pictureTimeout ≤ min (v.pictureIdle + 1) 65535 := by
  rw [Servo.tick_follows hactive hmode]
  cases v.pictureLate <;> simp

theorem Change.tick_counts (hstate : c.state = .reverting) (hmode : e.revertMode = .auto) : c.tick e =
    { c with revert := c.revert + 1, revertDue := decide (e.revertTime ≤ c.revert + 1) } := by
  rw [Change.tick, hstate, hmode]
  rfl

theorem Change.tick_eq (c : Change) (e : ProgramEntry) : c.tick e = { c with
    revert := if c.state = .reverting ∧ e.revertMode = .auto then c.revert + 1 else c.revert
    revertDue := (c.tick e).revertDue } := by
  by_cases h : c.state = .reverting ∧ e.revertMode = .auto
  · rw [if_pos h, Change.tick_counts h.1 h.2]
  · rw [if_neg h, Change.tick, if_neg (by rwa [Bool.and_eq_true, beq_iff_eq, beq_iff_eq])]

end Counted

/-! ### The conditions at a tick (R126) -/

/-- A program-scoped condition at the tick of this state, as R126 says each kind. -/
def State.programPresent (s : State) (rl : Rule) (p : Fin 16) : Prop :=
  let x := s.program p
  match rl.kind with
  | .silence => ∃ v ∈ x.events.levels, v.momentary < rl.level
  | .loud => ∃ v ∈ x.events.levels, v.target + rl.level < v.shortTerm
  | .segment => ∃ v ∈ x.events.closes, rl.level < |v.value - v.target|
  | .overload => x.events.overload = true
  | .loss => ∃ l ∈ (s.entry p).members, (s.lane l).status = .lost ∨
      ((s.lane l).status ≠ .parked ∧ (s.laneEntry l).lostTime ≤ min ((s.lane l).idle + 1) 65535)
  | .impaired => (rl.timing = .arrival ∧ x.events.arrival = true) ∨ (rl.timing = .air ∧ x.events.air = true)
  | .picture => (s.entry p).delayMode = .follow ∧
      (s.entry p).pictureTimeout ≤ min (x.servo.pictureIdle + 1) 65535
  | .clamp => x.servo.clamped = true
  | .clock => x.conv.trim = 8389 ∨ x.conv.trim = -8389
  | .trunk | .reference | .shed => False

/-- A condition at the tick of this state (R126). -/
def State.present (s : State) (rl : Rule) : Prop :=
  match rl.scope with
  | some p => (s.entry p).defined = true ∧ s.active p = true ∧ s.programPresent rl p
  | none => match rl.kind with
    | .trunk => s.rx.framing ≠ .locked ∨ s.rx.trunkSeen = true
    | .reference => s.tables.settings.select = .external ∧
        (s.house.reference ≠ .locked ∨ s.house.leftLocked = true)
    | .shed => s.alarm.shedSeen = true
    | _ => False

theorem State.lossPresent_tickCounts (s : State) (p : Fin 16) : s.tickCounts.lossPresent p = true ↔
    ∃ l ∈ (s.entry p).members, (s.lane l).status = .lost ∨
      ((s.lane l).status ≠ .parked ∧ (s.laneEntry l).lostTime ≤ min ((s.lane l).idle + 1) 65535) := by
  have hidle : ∀ l, (s.lane l).status ≠ .parked → (s.lane l).tick.idle = min ((s.lane l).idle + 1) 65535 := by
    intro l hl
    rw [Lane.tick_eq]
    exact if_neg hl
  have hstatus : ∀ l, (s.lane l).tick.status = (s.lane l).status := fun l => by rw [Lane.tick_eq]
  simp only [State.lossPresent, State.entry_tickCounts, State.laneEntry_tickCounts, List.any_eq_true, State.lane_tickCounts, hstatus, Bool.or_eq_true,
    Bool.and_eq_true, beq_iff_eq, bne_iff_ne, decide_eq_true_eq]
  refine exists_congr fun l => and_congr_right fun _ => or_congr_right (and_congr_right fun hl => ?_)
  rw [hidle l hl]

theorem State.programCondition_tickCounts {s : State} {rl : Rule} {p : Fin 16} (hactive : s.active p = true) :
    s.tickCounts.programCondition rl p = true ↔ s.programPresent rl p := by
  unfold State.programCondition State.programPresent
  dsimp only
  rw [State.program_tickCounts, hactive, State.entry_tickCounts]
  cases rl.kind with
  | silence | loud => simp only [List.any_eq_true, decide_eq_true_eq]
  | segment => simp only [List.any_eq_true, decide_eq_true_eq, Int.natCast_natAbs]
  | overload => exact Iff.rfl
  | loss => exact s.lossPresent_tickCounts p
  | impaired => cases rl.timing <;> simp
  | picture =>
    simp only [Bool.and_eq_true, beq_iff_eq, decide_eq_true_eq]
    refine and_congr_right fun hmode => ?_
    rw [Servo.tick_follows rfl hmode]
  | clamp =>
    rw [Servo.tick_eq]
  | clock =>
    simp only [beq_iff_eq]
    omega
  | trunk | reference | shed => simp

theorem State.conditionPresent_tickCounts (s : State) (rl : Rule) :
    s.tickCounts.conditionPresent rl = true ↔ s.present rl := by
  unfold State.conditionPresent State.present
  cases rl.scope with
  | some p =>
    simp only [State.active_tickCounts, State.entry_tickCounts, Bool.and_eq_true, and_assoc]
    exact and_congr_right fun _ => and_congr_right fun h => State.programCondition_tickCounts h
  | none =>
    cases rl.kind with
    | trunk => simp [State.trunkPresent, State.tickCounts_rx]
    | reference => simp [State.referencePresent, State.tickCounts_tables, State.tickCounts_house]
    | shed => simp [State.tickCounts_alarm]
    | silence | loud | segment | overload | loss | impaired | picture | clamp | clock => simp

/-! ### The tick (R125, R127) -/

/-- A record behind the tick of this state. -/
def State.judged (s : State) (r : Fin 64) : Record :=
  if (s.rule r).enabled then (s.record r).tick (s.rule r) (s.conditionPresent (s.rule r)) else s.record r

theorem State.judgeRules_eq (s : State) : s.judgeRules =
    if s.strapFault then s else { s with alarm := { s.alarm with records := Vector.ofFn s.judged } } := rfl

section Close
variable (t : State)

theorem State.exists_judgeRules : ∃ v, t.judgeRules = { t with alarm := { t.alarm with records := v } } := by
  rw [State.judgeRules_eq]
  generalize Vector.ofFn t.judged = v
  split
  · exact ⟨t.alarm.records, rfl⟩
  · exact ⟨v, rfl⟩

theorem State.record_judgeRules (r : Fin 64) :
    t.judgeRules.record r = if t.strapFault then t.record r else t.judged r := by
  rw [State.judgeRules_eq]
  split
  · rfl
  · exact Vector.getElem_ofFn _

/-- The period closes on everything but the programs' events. -/
theorem State.exists_closePeriod : ∃ v, t.closePeriod = { t with
    programs := v
    rx := { t.rx with trunkSeen := t.rx.framing != .locked }
    alarm := { t.alarm with shedSeen := false }
    house := { t.house with leftLocked := false, toTick := 48 } } := by
  unfold State.closePeriod State.mapPrograms
  exact ⟨_, rfl⟩

theorem State.lane_closePeriod (l : Fin 32) : t.judgeRules.closePeriod.lane l = t.lane l := by
  obtain ⟨v, hv⟩ := t.exists_judgeRules
  obtain ⟨w, hw⟩ := t.judgeRules.exists_closePeriod
  rw [hw, hv]
  rfl

theorem State.program_closePeriod (p : Fin 16) :
    t.judgeRules.closePeriod.program p = { t.program p with events := {} } := by
  obtain ⟨v, hv⟩ := t.exists_judgeRules
  have hprogram : t.judgeRules.program p = t.program p := by
    rw [hv]
    rfl
  rw [← hprogram]
  exact t.judgeRules.program_mapPrograms (fun _ x => { x with events := {} }) p

theorem State.record_closePeriod (r : Fin 64) :
    t.judgeRules.closePeriod.record r = if t.strapFault then t.record r else t.judged r := by
  obtain ⟨w, hw⟩ := t.judgeRules.exists_closePeriod
  rw [← State.record_judgeRules, hw]
  rfl

end Close

theorem State.lane_tickAlarm (s : State) (l : Fin 32) : s.tickAlarm.lane l = (s.lane l).tick :=
  (s.tickCounts.lane_closePeriod l).trans (s.lane_tickCounts l)

theorem State.program_tickAlarm (s : State) (p : Fin 16) :
    s.tickAlarm.program p = { s.program p with
      events := {}
      servo := (s.program p).servo.tick (s.entry p) (s.active p)
      change := (s.program p).change.tick (s.entry p) } := by
  rw [State.tickAlarm, State.program_closePeriod, State.program_tickCounts]

theorem State.record_tickAlarm (s : State) (r : Fin 64) : s.tickAlarm.record r =
    if s.strapFault then s.record r else
      if (s.rule r).enabled then (s.record r).tick (s.rule r) (s.tickCounts.conditionPresent (s.rule r))
      else s.record r := by
  rw [State.tickAlarm, State.record_closePeriod, State.judged, State.strapFault, State.tickCounts_node,
    State.record_tickCounts, State.rule_tickCounts]
  rfl

/-- What a tick leaves of the rest of the part. -/
theorem State.tickAlarm_eq (s : State) : s.tickAlarm = { s with
    lanes := s.tickAlarm.lanes, programs := s.tickAlarm.programs
    rx := { s.rx with trunkSeen := s.rx.framing != .locked }
    alarm := { s.alarm with records := s.tickAlarm.alarm.records, shedSeen := false }
    house := { s.house with leftLocked := false, toTick := 48 } } := by
  have hcounts : ∃ l p, s.tickCounts = { s with lanes := l, programs := p } := by
    unfold State.tickCounts State.mapPrograms State.mapLanes
    exact ⟨_, _, rfl⟩
  obtain ⟨l, p, hcounts⟩ := hcounts
  obtain ⟨v, hv⟩ := s.tickCounts.exists_judgeRules
  obtain ⟨w, hw⟩ := s.tickCounts.judgeRules.exists_closePeriod
  rw [State.tickAlarm, hw, hv, hcounts]

/-- Settles O27: the counts of a tick, and every rule judged by its condition. -/
theorem alarmTickCounts : Obligations.AlarmTickCounts := by
  intro s h hdue
  have hrun : exec .alarmTick s = .next s.tickAlarm :=
    congrArg Host.Outcome.next (State.clockCommand_of_rest h _ _ (beq_iff_eq.mpr hdue))
  refine ⟨s.tickAlarm, hrun, s.tickAlarm_eq, fun l => ?_, fun p => ⟨?_, fun hstate hmode => ?_,
    fun hactive hmode => ?_⟩, fun r => ⟨fun hoff => ?_, fun hstrap henabled => ⟨fun hpresent => ?_, fun habsent => ?_⟩⟩⟩
  · rw [State.lane_tickAlarm, Lane.tick_eq]
  · rw [State.program_tickAlarm]
    exact congrArg₂ (fun v c => ({ s.program p with events := {}, servo := v, change := c } : Program))
      (Servo.tick_eq _ _ _) (Change.tick_eq _ _)
  · rw [State.program_tickAlarm]
    dsimp only
    rw [Change.tick_counts hstate hmode]
    exact decide_eq_true_iff
  · rw [State.program_tickAlarm]
    exact Servo.tick_late hactive hmode
  · rw [State.record_tickAlarm]
    rcases hoff with hstrap | hdisabled
    · rw [if_pos hstrap]
    · rw [hdisabled]
      split <;> rfl
  · rw [State.record_tickAlarm, hstrap, henabled, (s.conditionPresent_tickCounts (s.rule r)).mpr hpresent]
    rfl
  · rw [State.record_tickAlarm, hstrap, henabled,
      eq_false_of_ne_true (mt (s.conditionPresent_tickCounts (s.rule r)).mp habsent)]
    rfl

end Sys2Proof.Machine
end

section
/-! SUPPORT. START: the checks of R40, and what a program starts with (R19, R40, R41, R73, R74). -/

namespace Sys2Proof.Machine

/-! ### The checks of R40 -/

/-- The regions of two lanes share no page (R40). -/
def State.apart (s : State) (l k : Fin 32) : Prop :=
  (s.laneEntry l).startPage + (s.laneEntry l).sizePages ≤ (s.laneEntry k).startPage ∨
    (s.laneEntry k).startPage + (s.laneEntry k).sizePages ≤ (s.laneEntry l).startPage

theorem LaneEntry.overlaps_eq_false {a b : LaneEntry} : a.overlaps b = false ↔
    a.startPage + a.sizePages ≤ b.startPage ∨ b.startPage + b.sizePages ≤ a.startPage := by
  simp only [LaneEntry.overlaps, Bool.and_eq_false_iff, decide_eq_false_iff_not]
  omega

theorem State.regionsApart_iff (s : State) (xs : List (Fin 32)) : s.regionsApart xs = true ↔ xs.Pairwise s.apart := by
  induction xs with
  | nil => simp [State.regionsApart]
  | cons l rest ih =>
    simp only [State.regionsApart, Bool.and_eq_true, List.all_eq_true, Bool.not_eq_true', LaneEntry.overlaps_eq_false,
      ih, List.pairwise_cons, State.apart]

/-- A program that a START may find (R40). -/
structure State.StartReady (s : State) (p : Fin 16) : Prop where
  defined : (s.entry p).defined = true
  parked : s.active p = false
  members : ∀ l ∈ (s.entry p).members, (s.laneEntry l).defined = true ∧ (s.lane l).status = .parked

/-- A program whose lanes a START finds of one class, and free (R40). -/
structure State.StartFree (s : State) (p : Fin 16) : Prop where
  oneClass : ∀ l ∈ (s.entry p).members, (s.laneEntry l).rateClass = s.classOf p
  locked : (s.entry p).houseLocked = true → s.classOf p = .c48
  members : (s.entry p).members.Pairwise s.apart
  others : ∀ l ∈ (s.entry p).members, ∀ k, (s.lane k).status ≠ .parked → s.apart l k

theorem State.startFree_iff (s : State) (p : Fin 16) : s.StartFree p ↔
    (s.entry p).members.all (fun l => (s.laneEntry l).rateClass == s.classOf p) = true ∧
    ((s.entry p).houseLocked && s.classOf p != .c48) = false ∧ s.regionsApart (s.entry p).members = true ∧
    (s.entry p).members.all (fun l => (List.finRange 32).all fun k =>
      (s.lane k).status == .parked || !(s.laneEntry l).overlaps (s.laneEntry k)) = true := by
  have hlock : ((s.entry p).houseLocked && s.classOf p != .c48) = false ↔
      ((s.entry p).houseLocked = true → s.classOf p = .c48) := by
    cases (s.entry p).houseLocked <;> simp
  have hothers : (s.entry p).members.all (fun l => (List.finRange 32).all fun k =>
      (s.lane k).status == .parked || !(s.laneEntry l).overlaps (s.laneEntry k)) = true ↔
      ∀ l ∈ (s.entry p).members, ∀ k, (s.lane k).status ≠ .parked → s.apart l k := by
    simp only [List.all_eq_true, List.mem_finRange, true_implies, Bool.or_eq_true, beq_iff_eq, Bool.not_eq_true',
      LaneEntry.overlaps_eq_false, State.apart, or_iff_not_imp_left]
  rw [hlock, s.regionsApart_iff, hothers, List.all_eq_true]
  simp only [beq_iff_eq]
  exact ⟨fun h => ⟨h.oneClass, h.locked, h.members, h.others⟩, fun ⟨h, hl, hm, ho⟩ => ⟨h, hl, hm, ho⟩⟩

theorem State.startReady_iff (s : State) (p : Fin 16) : s.StartReady p ↔
    (s.entry p).defined = true ∧ s.active p = false ∧
    (s.entry p).members.all (fun l => (s.laneEntry l).defined) = true ∧
    (s.entry p).members.all (fun l => (s.lane l).status == .parked) = true := by
  simp only [List.all_eq_true, beq_iff_eq]
  exact ⟨fun h => ⟨h.defined, h.parked, fun l hl => (h.members l hl).1, fun l hl => (h.members l hl).2⟩,
    fun ⟨hd, hp, hm, hl⟩ => ⟨hd, hp, fun l hmem => ⟨hm l hmem, hl l hmem⟩⟩⟩

section Refusal
variable {s : State} {p : Fin 16}

theorem State.startRefusal_of_not_ready (h : ¬ s.StartReady p) : s.startRefusal p = some .refusedState := by
  rw [State.startReady_iff] at h
  unfold State.startRefusal
  dsimp only
  split; · rfl
  split; · rfl
  split; · rfl
  split; · rfl
  next hdefined hactive hmembers hparked =>
    exact absurd ⟨by simpa using hdefined, by simpa using hactive, by simpa using hmembers, by simpa using hparked⟩ h

theorem State.startRefusal_of_ready (h : s.StartReady p) : s.startRefusal p =
    if !(s.entry p).members.all (fun l => (s.laneEntry l).rateClass == s.classOf p) then some .refusedConflict
    else if (s.entry p).houseLocked && s.classOf p != .c48 then some .refusedConflict
    else if !s.regionsApart (s.entry p).members then some .refusedConflict
    else if !(s.entry p).members.all (fun l => (List.finRange 32).all fun k =>
        (s.lane k).status == .parked || !(s.laneEntry l).overlaps (s.laneEntry k)) then some .refusedConflict
    else none := by
  obtain ⟨hdefined, hparked, hmembers, hlanes⟩ := (s.startReady_iff p).mp h
  unfold State.startRefusal
  dsimp only
  rw [hdefined, hparked, hmembers, hlanes]
  rfl

theorem State.startRefusal_of_not_free (h : s.StartReady p) (hfree : ¬ s.StartFree p) :
    s.startRefusal p = some .refusedConflict := by
  rw [State.startFree_iff] at hfree
  rw [State.startRefusal_of_ready h]
  split; · rfl
  split; · rfl
  split; · rfl
  split; · rfl
  next hclass hlock hapart hothers =>
    exact absurd ⟨by simpa using hclass, Bool.not_eq_true _ ▸ hlock, by simpa using hapart,
      by rwa [Bool.not_eq_true', Bool.not_eq_false] at hothers⟩ hfree

theorem State.startRefusal_of_free (h : s.StartReady p) (hfree : s.StartFree p) : s.startRefusal p = none := by
  obtain ⟨hclass, hlock, hapart, hothers⟩ := (s.startFree_iff p).mp hfree
  rw [State.startRefusal_of_ready h, hclass, hlock, hapart, hothers]
  rfl

end Refusal

/-! ### What a program starts with (R41, R71, R73, R74, R90) -/

theorem State.nominal_congr {s t : State} (h : t.tables = s.tables) (p : Fin 16) : t.nominal p = s.nominal p := by
  rw [State.nominal, State.classOf, State.leader, State.entry, h]
  simp only [State.laneEntry, h]
  rfl

theorem State.smallestRing_congr {s t : State} (h : t.tables = s.tables) (p : Fin 16) :
    t.smallestRing p = s.smallestRing p := by
  rw [State.smallestRing, State.entry, h]
  simp only [State.laneEntry, h]
  rfl

/-- The servo of a started program: D_max formed and the manual delay put in force (R41, R73, R74). -/
def State.servoStarted (s : State) (p : Fin 16) : Servo :=
  let limit := delayLimit (s.smallestRing p) (s.entry p).cushion (s.nominal p)
  { limit := limit, delay := min (s.entry p).manualDelay limit, clamped := decide (limit < (s.entry p).manualDelay)
    fill := fillTarget (min (s.entry p).manualDelay limit) (s.nominal p) (s.entry p).cushion }

/-- The program as it starts, its delay in force. -/
def State.programStarted (s : State) (p : Fin 16) : Program :=
  { (s.program p).started (s.entry p).warmUp 0 with servo := s.servoStarted p }

theorem State.setProgram_setProgram (s : State) (p : Fin 16) (x y : Program) :
    (s.setProgram p x).setProgram p y = s.setProgram p y := by
  unfold State.setProgram
  rw [Vector.set_set]

theorem State.startProgram_at (s : State) (p : Fin 16) :
    s.startProgram p = (s.moveMembers p Lane.arm (s.programStarted p)).followThrough := by
  have htables : (s.mapLanes fun l y => if (s.entry p).members.contains l then y.arm else y).tables = s.tables :=
    State.mapLanes_tables _ _
  have hprogram := State.program_mapLanes s (fun l y => if (s.entry p).members.contains l then y.arm else y) p
  unfold State.startProgram State.moveMembers
  dsimp only
  rw [hprogram, State.smallestRing_congr htables, State.nominal_congr htables, State.putInForce,
    State.program_setProgram_self, State.setProgram_setProgram, State.entry_setProgram,
    State.nominal_congr (State.setProgram_tables _ _ _), State.nominal_congr htables, State.entry_mapLanes]
  rfl

theorem State.lane_startProgram (s : State) (p : Fin 16) (l : Fin 32) : (s.startProgram p).lane l =
    if l ∈ (s.entry p).members then (s.lane l).arm else s.lane l := by
  rw [State.startProgram_at, State.lane_followThrough, State.lane_moveMembers]

theorem State.program_startProgram_self (s : State) (p : Fin 16) : (s.startProgram p).program p =
    { s.programStarted p with change := ((s.startProgram p).program p).change } := by
  have htarget : (s.programStarted p).fadeTarget = .silent := rfl
  have hhanded := (s.moveMembers p Lane.arm (s.programStarted p)).handsOn_followThrough.program p
  rw [State.program_moveMembers_self, htarget, ← State.startProgram_at] at hhanded
  exact hhanded

theorem State.program_startProgram_ne {s : State} {p q : Fin 16} (h : q ≠ p) : (s.startProgram p).program q =
    { s.program q with
      play := { (s.program q).play with target := ((s.startProgram p).program q).play.target }
      change := ((s.startProgram p).program q).change } := by
  have hhanded := (s.moveMembers p Lane.arm (s.programStarted p)).handsOn_followThrough.program q
  rw [State.program_moveMembers_ne _ _ _ _ h, ← State.startProgram_at] at hhanded
  rw [hhanded]

/-- What a start leaves of the rest of the part. -/
structure State.LanesAndPrograms (s t : State) : Prop where
  tables : t.tables = s.tables
  orders : t.orders = s.orders
  mem : t.mem = s.mem
  rx : t.rx = s.rx
  house : t.house = s.house
  egress : t.egress = s.egress
  records : t.alarm.records = s.alarm.records
  notices : t.alarm.notices = s.alarm.notices

theorem State.LanesAndPrograms.refl (s : State) : s.LanesAndPrograms s := ⟨rfl, rfl, rfl, rfl, rfl, rfl, rfl, rfl⟩

theorem State.LanesAndPrograms.trans {s t u : State} (h : s.LanesAndPrograms t) (k : t.LanesAndPrograms u) :
    s.LanesAndPrograms u :=
  ⟨k.tables.trans h.tables, k.orders.trans h.orders, k.mem.trans h.mem, k.rx.trans h.rx, k.house.trans h.house,
    k.egress.trans h.egress, k.records.trans h.records, k.notices.trans h.notices⟩

theorem State.lanesAndPrograms_startProgram (s : State) (p : Fin 16) : s.LanesAndPrograms (s.startProgram p) := by
  rw [State.startProgram_at]
  have hframe := s.moveMembers_frame p Lane.arm (s.programStarted p)
  generalize s.moveMembers p Lane.arm (s.programStarted p) = t at hframe
  rw [t.handsOn_followThrough.rest, hframe]
  exact ⟨rfl, rfl, rfl, rfl, rfl, rfl, rfl, rfl⟩

/-! ### START -/

section Order
variable {s : State} {o : Order} {p : Fin 16}

theorem State.orderStart_refused (h : field o.args 0 1 = p.val) {refusal : Status}
    (hrefusal : s.startRefusal p = some refusal) : s.orderStart o = (refusal, s) := by
  rw [State.orderStart, Order.program_at h]
  dsimp only
  rw [hrefusal]

theorem State.orderStart_started (h : field o.args 0 1 = p.val) (hrefusal : s.startRefusal p = none) :
    s.orderStart o = (.done, s.startProgram p) := by
  rw [State.orderStart, Order.program_at h]
  dsimp only
  rw [hrefusal]

end Order

/-- Settles O45: the checks of R40 decide the refusal, and a sound START begins PRIMING. -/
theorem startsBegin : Obligations.StartsBegin := by
  intro s o h hrow
  have hrun : exec .start s = .next (State.finish o (s.dropHead.orderStart o)) := by
    rw [exec_of_takes h hrow, State.carryOut, hrow]
  have hready : ∀ p, s.dropHead.StartReady p ↔ (s.entry p).defined = true ∧ s.active p = false ∧
      ∀ l ∈ (s.entry p).members, (s.laneEntry l).defined = true ∧ (s.lane l).status = .parked := fun p =>
    ⟨fun ⟨hd, hp, hm⟩ => ⟨hd, hp, hm⟩, fun ⟨hd, hp, hm⟩ => ⟨hd, hp, hm⟩⟩
  have hfree : ∀ p, s.dropHead.StartFree p ↔ (∀ l ∈ (s.entry p).members, (s.laneEntry l).rateClass = s.classOf p) ∧
      ((s.entry p).houseLocked = true → s.classOf p = .c48) ∧ (s.entry p).members.Pairwise s.apart ∧
      ∀ l ∈ (s.entry p).members, ∀ k, (s.lane k).status ≠ .parked → s.apart l k := fun p =>
    ⟨fun ⟨hc, hl, hm, ho⟩ => ⟨hc, hl, hm, ho⟩, fun ⟨hc, hl, hm, ho⟩ => ⟨hc, hl, hm, ho⟩⟩
  refine ⟨fun hi => ?_, fun p hp => ?_⟩
  · rw [hrun, State.orderStart, Order.program_of_le hi]
    rfl
  rw [hrun]
  refine ⟨fun hno => ?_, fun hyes hno => ?_, fun hyes hsound => ?_⟩
  · rw [State.orderStart_refused hp (State.startRefusal_of_not_ready (mt (hready p).mp hno))]
    rfl
  · rw [State.orderStart_refused hp (State.startRefusal_of_not_free ((hready p).mpr hyes) (mt (hfree p).mp hno))]
    rfl
  · rw [State.orderStart_started hp (State.startRefusal_of_free ((hready p).mpr hyes) ((hfree p).mpr hsound))]
    have hrest := s.dropHead.lanesAndPrograms_startProgram p
    exact ⟨s.dropHead.startProgram p, rfl, s.dropHead.program_startProgram_self p, s.dropHead.lane_startProgram p,
      fun q hq => State.program_startProgram_ne hq, hrest.tables, hrest.orders, hrest.mem, hrest.rx, hrest.house,
      hrest.egress, hrest.records⟩

end Sys2Proof.Machine
end

section
/-! SUPPORT. What follows a reset: auto-start with its STARTED notice (R12, R52, R146, R177), and the reply of a RESET
(R176). -/

namespace Sys2Proof.Machine

/-! ### Auto-start, program by program (R52) -/

/-- A program whose entry asks to be started (R52). -/
def State.asksStart (s : State) (q : Fin 16) : Bool := (s.entry q).defined && (s.entry q).autoStart

/-- Start a program that asks for it and passes the checks. -/
def State.startIfSound (s u : State) (q : Fin 16) : State :=
  if s.asksStart q && u.startRefusal q == none then u.startProgram q else u

/-- The part with auto-start applied to the first programs, in ascending index. -/
def State.startStage (s : State) (n : Nat) : State := ((List.finRange 16).take n).foldl s.startIfSound s

/-- The program asks to be started and passes the checks at its turn. -/
def State.startsAt (s : State) (q : Fin 16) : Bool := s.asksStart q && (s.startStage q.val).startRefusal q == none

/-- The program asks to be started and fails a check at its turn. -/
def State.failsAt (s : State) (q : Fin 16) : Bool := s.asksStart q && (s.startStage q.val).startRefusal q != none

theorem State.lanesAndPrograms_startIfSound (s u : State) (q : Fin 16) : u.LanesAndPrograms (s.startIfSound u q) := by
  unfold State.startIfSound
  split
  · exact u.lanesAndPrograms_startProgram q
  · exact .refl u

theorem State.lanesAndPrograms_startStage (s : State) (n : Nat) : s.LanesAndPrograms (s.startStage n) :=
  foldl_rel (R := State.LanesAndPrograms) .refl (fun h k => h.trans k) s.lanesAndPrograms_startIfSound _ s

theorem State.startStage_succ {s : State} {n : Nat} (h : n < 16) :
    (List.finRange 16).take (n + 1) = (List.finRange 16).take n ++ [⟨n, h⟩] ∧
      s.startStage (n + 1) = s.startIfSound (s.startStage n) ⟨n, h⟩ := by
  have htake : (List.finRange 16).take (n + 1) = (List.finRange 16).take n ++ [⟨n, h⟩] := by
    rw [List.take_succ_eq_append_getElem (by rwa [List.length_finRange]), List.getElem_finRange]
    rfl
  exact ⟨htake, by rw [State.startStage, htake, List.foldl_append]; rfl⟩

theorem State.autoStartOne_eq {s u : State} (h : u.tables = s.tables) (d : Started) (q : Fin 16) :
    State.autoStartOne (d, u) q =
      (⟨d.programs ++ [q].filter fun q => s.asksStart q && u.startRefusal q == none,
        d.failed + ([q].filter fun q => s.asksStart q && u.startRefusal q != none).length⟩, s.startIfSound u q) := by
  have hasks : ((u.entry q).defined && (u.entry q).autoStart) = s.asksStart q := by
    rw [State.entry, h]
    rfl
  unfold State.autoStartOne State.startIfSound
  dsimp only
  rw [hasks]
  cases hask : s.asksStart q with
  | false => simp [hask]
  | true => cases hrefusal : u.startRefusal q <;> simp [hask, hrefusal]

theorem State.autoStart_take {s : State} {n : Nat} (h : n ≤ 16) :
    ((List.finRange 16).take n).foldl State.autoStartOne (⟨[], 0⟩, s) =
      (⟨((List.finRange 16).take n).filter s.startsAt, (((List.finRange 16).take n).filter s.failsAt).length⟩,
        s.startStage n) := by
  induction n with
  | zero => rfl
  | succ n ih =>
    obtain ⟨htake, hstage⟩ := State.startStage_succ (s := s) h
    rw [htake, List.foldl_append, ih (Nat.le_of_succ_le h), List.filter_append, List.filter_append, List.length_append,
      hstage]
    exact State.autoStartOne_eq (s.lanesAndPrograms_startStage n).tables _ _

/-- Auto-start of every program, in ascending index (R52). -/
theorem State.autoStartAll_eq (s : State) : s.autoStartAll =
    (⟨(List.finRange 16).filter s.startsAt, ((List.finRange 16).filter s.failsAt).length⟩, s.startStage 16) := by
  have hall := State.autoStart_take (s := s) le_rfl
  rwa [List.take_of_length_le (by rw [List.length_finRange])] at hall

/-! ### The STARTED notice and the reply (R146, R176) -/

/-- Auto-start has been applied (R177). -/
def State.begun (s : State) : State := { s with orders := { s.orders with autoStarted := true } }

section Applied
variable {s : State}

theorem State.applyAutoStart_of_strapFault (h : s.strapFault = true) : s.applyAutoStart = s.begun := if_pos h

theorem State.applyAutoStart_of_straps (h : s.strapFault = false) : s.applyAutoStart =
    if s.orders.cause != .power && s.tables.settings.node != 0 then
      (s.begun.startStage 16).placeStarted ((List.finRange 16).filter s.begun.startsAt)
        ((List.finRange 16).filter s.begun.failsAt).length
    else s.begun.startStage 16 := by
  have hstraps : s.begun.strapFault = false := h
  have hall := s.begun.autoStartAll_eq
  unfold State.applyAutoStart
  unfold State.begun at hall ⊢
  dsimp only
  split
  · next hfault => exact absurd (hstraps.symm.trans hfault) Bool.false_ne_true
  · rw [hall]

end Applied

/-- Settles O29: auto-start in ascending index with its STARTED notice, and the reply of a RESET. -/
theorem resetsEndInOrder : Obligations.ResetsEndInOrder := by
  intro s hrunning
  refine ⟨fun hwarm hnot => ?_, fun hpending hdone hstarted => ?_⟩
  · have hdue : s.autoStartDue = true := by
      rw [State.autoStartDue, hwarm, hnot]
      rfl
    have hrun : exec .autoStart s = .next s.applyAutoStart :=
      congrArg Host.Outcome.next (State.ownCommand_of_due hrunning hdue _)
    have hstage := s.begun.lanesAndPrograms_startStage 16
    have hcause : (s.begun.startStage 16).orders.cause = s.orders.cause := by
      rw [hstage.orders]
      rfl
    intro begun told asks stage started failed after note
    have hafter : after = s.begun.startStage 16 := rfl
    have hstarted : started = (List.finRange 16).filter s.begun.startsAt := rfl
    have hfailed : failed = ((List.finRange 16).filter s.begun.failsAt).length := rfl
    refine ⟨fun hfault => ?_, fun hstraps hnot => ?_, fun hstraps htold hroom => ?_, fun hstraps htold hfull => ?_⟩
    · rw [hrun, State.applyAutoStart_of_strapFault hfault]
      rfl
    · rw [hrun, State.applyAutoStart_of_straps hstraps, if_neg (by simpa [told] using hnot)]
      rfl
    · rw [hrun, State.applyAutoStart_of_straps hstraps, if_pos (by simpa [told] using htold),
        State.placeStarted_of_room _ _ (by rwa [hstage.notices]), hstage.notices,
        hcause]
      rfl
    · have hne : s.alarm.notices ≠ [] := List.ne_nil_of_length_pos (by omega)
      have hsplit : (s.begun.startStage 16).alarm.notices = s.alarm.notices.dropLast ++ [s.alarm.notices.getLast hne] :=
        hstage.notices.trans (List.dropLast_append_getLast hne).symm
      have hplaced := State.placeStarted_of_full started failed (by rwa [hstage.notices]) hsplit
      refine ⟨after.placeStarted started failed, ?_, ?_, fun r => ?_⟩
      · rw [hrun, State.applyAutoStart_of_straps hstraps, if_pos (by simpa [told] using htold)]
        rfl
      · rw [hafter, hplaced, hcause]
      · have hrecord : (s.begun.startStage 16).record r = s.record r := by
          rw [State.record, hstage.records]
          rfl
        have hlast : s.alarm.notices.getLast? = some (s.alarm.notices.getLast hne) := List.getLast?_eq_some_getLast hne
        have hunsent := (s.begun.startStage 16).record_unsent (s.alarm.notices.getLast hne) r
        rw [hrecord] at hunsent
        have hchosen : (∃ n ∈ s.alarm.notices.getLast?, n.isOf r = true) ↔
            (s.alarm.notices.getLast hne).isOf r = true := by
          simp [hlast]
        rw [hafter, hplaced]
        refine Eq.trans hunsent ?_
        simp only [hchosen]
  · have hdue : s.resetReplyDue = true := by
      rw [State.resetReplyDue, hpending, hdone, hstarted]
      rfl
    have hrun : exec .resetOrderDone s = .next s.answerReset :=
      congrArg Host.Outcome.next (State.ownCommand_of_due hrunning hdue _)
    refine ⟨fun o hstraps howing => ?_, fun hfault => ?_⟩
    · rw [hrun, State.answerReset, hstraps, Orders.settleOwing]
      dsimp only
      rw [show (if false = true then ({ s.orders with owing := none } : Orders) else s.orders) = s.orders from rfl, howing]
    · rw [hrun, State.answerReset, hfault]
      rfl

end Sys2Proof.Machine
end

section
/-! SUPPORT. What a notice-making change does to its record and to the notice queue, case by case (R142, R143). -/

namespace Sys2Proof.Machine

/-! ### A notice-making change, case by case -/

/-- A record with the cause and stamp of a change (R142). -/
def Record.noted (x : Record) (cause : Cause) (stamp : Stamp) : Record := { x with last := some cause, lastStamp := stamp }

/-- And with one more change counted (R142). -/
def Record.counted (x : Record) (cause : Cause) (stamp : Stamp) : Record :=
  { x.noted cause stamp with changes := min (x.changes + 1) 255 }

section Change
variable {s : State} {r : Fin 64} {cause : Cause} {flagged : Bool}

theorem State.noticeChange_untold (h : flagged = false ∨ s.tables.settings.node = 0) :
    s.noticeChange r cause flagged = s.setRecord r ((s.record r).noted cause s.house.stamp) := by
  unfold State.noticeChange
  rw [if_neg]
  · rfl
  · rcases h with h | h <;> simp [h]

/-- A change that is told is placed. -/
theorem State.noticeChange_told (hflag : flagged = true) (hnode : s.tables.settings.node ≠ 0) :
    s.noticeChange r cause flagged = (s.setRecord r ((s.record r).counted cause s.house.stamp)).placeNotice r := by
  unfold State.noticeChange
  rw [if_pos (Bool.and_eq_true_iff.mpr ⟨hflag, bne_iff_ne.mpr hnode⟩)]
  rfl

theorem State.placeNotice_queued (h : (s.record r).queued = true) : s.placeNotice r = s.refreshNotice r := if_pos h

theorem State.placeNotice_owed (h : (s.record r).queued = false) (howed : (s.record r).owed = true) :
    s.placeNotice r = s := by
  unfold State.placeNotice
  dsimp only
  rw [h, howed]
  rfl

theorem State.placeNotice_joins (h : (s.record r).queued = false) (howed : (s.record r).owed = false)
    (hroom : s.alarm.notices.length < 16) : s.placeNotice r = s.queueNotice r := by
  unfold State.placeNotice
  dsimp only
  rw [h, howed]
  exact if_pos hroom

theorem State.placeNotice_waits (h : (s.record r).queued = false) (howed : (s.record r).owed = false)
    (hfull : 16 ≤ s.alarm.notices.length) : s.placeNotice r = s.setRecord r { s.record r with owed := true } := by
  unfold State.placeNotice
  dsimp only
  rw [h, howed]
  exact if_neg (Nat.not_lt.mpr hfull)

/-! ### Its record, and the other records -/

theorem State.record_refreshNotices (s : State) (r k : Fin 64) : (s.refreshNotice r).record k = s.record k :=
  s.record_refreshNotice r k

theorem State.record_placeNotice_ne {k : Fin 64} (h : k ≠ r) : (s.placeNotice r).record k = s.record k := by
  unfold State.placeNotice
  dsimp only
  split
  · exact s.record_refreshNotice r k
  · split
    · rfl
    · split
      · exact State.record_setRecord_ne _ _ h
      · exact State.record_setRecord_ne _ _ h

theorem State.record_noticeChange_ne {k : Fin 64} (h : k ≠ r) :
    (s.noticeChange r cause flagged).record k = s.record k := by
  unfold State.noticeChange
  dsimp only
  split
  · rw [State.record_placeNotice_ne h, State.record_setRecord_ne _ _ h]
  · exact State.record_setRecord_ne _ _ h

end Change

/-- The notice-making change of `NoticeMade` is the model's. -/
theorem State.noticeChange_made (s : State) (r : Fin 64) (cause : Cause) (flagged : Bool) :
    NoticeMade s (s.noticeChange r cause flagged) r cause flagged := by
  by_cases htold : flagged = true ∧ s.tables.settings.node ≠ 0
  · obtain ⟨hflag, hnode⟩ := htold
    rw [State.noticeChange_told hflag hnode]
    generalize hx : (s.record r).counted cause s.house.stamp = x
    have hself := s.record_setRecord_self r x
    have huntold : ¬ (flagged = false ∨ s.tables.settings.node = 0) :=
      not_or.mpr ⟨by rw [hflag]; exact Bool.noConfusion, hnode⟩
    have hqueued : x.queued = (s.record r).queued := by rw [← hx]; rfl
    have howed : x.owed = (s.record r).owed := by rw [← hx]; rfl
    have hlast : x.last = some cause := by rw [← hx]; rfl
    have hstamp : x.lastStamp = s.house.stamp := by rw [← hx]; rfl
    have hchanges : x.changes = min ((s.record r).changes + 1) 255 := by rw [← hx]; rfl
    cases hq : (s.record r).queued with
    | true =>
      rw [State.placeNotice_queued (by rw [hself, hqueued, hq])]
      have hrecord : ((s.setRecord r x).refreshNotice r).record r = x := by rw [State.record_refreshNotice, hself]
      refine ⟨by rw [hrecord, hlast], by rw [hrecord, hstamp], fun h => absurd h huntold, fun _ _ => ⟨by
        rw [hrecord, hchanges], fun _ => ⟨by rw [hrecord, hqueued, hq], by rw [hrecord, howed], rfl⟩,
        fun h => absurd h (by simp [hq]), fun h => absurd h (by simp [hq])⟩⟩
    | false =>
      cases ho : (s.record r).owed with
      | true =>
        rw [State.placeNotice_owed (by rw [hself, hqueued, hq]) (by rw [hself, howed, ho])]
        refine ⟨by rw [hself, hlast], by rw [hself, hstamp], fun h => absurd h huntold, fun _ _ => ⟨by
          rw [hself, hchanges], fun h => absurd h (by simp [hq]), fun _ h => absurd h (by simp [ho]), fun _ _ => ⟨by
          rw [hself, hqueued, hq], by rw [hself, howed, ho], rfl⟩⟩⟩
      | false =>
        rcases Nat.lt_or_ge s.alarm.notices.length 16 with hroom | hfull
        · rw [State.placeNotice_joins (s := s.setRecord r x) (by rw [hself, hqueued, hq]) (by rw [hself, howed, ho]) hroom]
          have hrecord := (s.setRecord r x).record_queueNotice_self r
          rw [hself] at hrecord
          refine ⟨by rw [hrecord]; exact hlast, by rw [hrecord]; exact hstamp, fun h => absurd h huntold, fun _ _ => ⟨by
            rw [hrecord]; exact hchanges, fun h => absurd h (by simp [hq]), fun _ _ _ => ⟨by rw [hrecord], by rw [hrecord],
            rfl⟩, fun _ h => absurd h (by simp [ho, hroom])⟩⟩
        · rw [State.placeNotice_waits (s := s.setRecord r x) (by rw [hself, hqueued, hq]) (by rw [hself, howed, ho]) hfull, hself]
          have hrecord := (s.setRecord r x).record_setRecord_self r { x with owed := true }
          refine ⟨by rw [hrecord]; exact hlast, by rw [hrecord]; exact hstamp, fun h => absurd h huntold, fun _ _ => ⟨by
            rw [hrecord]; exact hchanges, fun h => absurd h (by simp [hq]), fun _ _ h => absurd h (Nat.not_lt.mpr hfull),
            fun _ _ => ⟨by rw [hrecord]; exact hqueued.trans hq, by rw [hrecord], rfl⟩⟩⟩
  · have huntold : flagged = false ∨ s.tables.settings.node = 0 := by
      rcases Bool.eq_false_or_eq_true flagged with h | h
      · exact .inr (by_contra fun hn => htold ⟨h, hn⟩)
      · exact .inl h
    rw [State.noticeChange_untold huntold]
    have hself := s.record_setRecord_self r ((s.record r).noted cause s.house.stamp)
    exact ⟨by rw [hself]; rfl, by rw [hself]; rfl, fun _ => ⟨by rw [hself]; rfl, by rw [hself]; rfl, by rw [hself]; rfl,
      rfl⟩, fun hflag hnode => absurd ⟨hflag, hnode⟩ htold⟩

/-! ### What a change of the record beside its marks leaves -/

/-- Two states with one rule's marks, the queue, the clock and the management node the same. -/
structure State.SameMarks (s t : State) (r : Fin 64) : Prop where
  changes : (t.record r).changes = (s.record r).changes
  queued : (t.record r).queued = (s.record r).queued
  owed : (t.record r).owed = (s.record r).owed
  notices : t.alarm.notices = s.alarm.notices
  stamp : t.house.stamp = s.house.stamp
  node : t.tables.settings.node = s.tables.settings.node

theorem NoticeMade.before {s s' t : State} {r : Fin 64} {cause : Cause} {flagged : Bool} (h : s.SameMarks s' r)
    (hmade : NoticeMade s' t r cause flagged) : NoticeMade s t r cause flagged := by
  unfold NoticeMade at hmade ⊢
  dsimp only at hmade ⊢
  rwa [h.changes, h.queued, h.owed, h.notices, h.stamp, h.node] at hmade

theorem NoticeMade.after {s t u : State} {r : Fin 64} {cause : Cause} {flagged : Bool}
    (hrecord : u.record r = t.record r) (hnotices : u.alarm.notices = t.alarm.notices)
    (hmade : NoticeMade s t r cause flagged) : NoticeMade s u r cause flagged := by
  unfold NoticeMade at hmade ⊢
  dsimp only at hmade ⊢
  have hnotice : u.noticeOf r = t.noticeOf r := by rw [State.noticeOf, State.noticeOf, hrecord]
  rwa [hrecord, hnotices, hnotice]

theorem State.followThrough_notices (s : State) : s.followThrough.alarm.notices = s.alarm.notices := by
  rw [s.handsOn_followThrough.rest]

/-- A record's own move, its notice, and what follows. -/
theorem NoticeMade.followed {s t : State} {r : Fin 64} {cause : Cause} {flagged : Bool} (h : s.SameMarks t r) :
    NoticeMade s (t.noticeChange r cause flagged).followThrough r cause flagged :=
  ((t.noticeChange_made r cause flagged).before h).after (State.record_followThrough _ r)
    (State.followThrough_notices _)

end Sys2Proof.Machine
end

section
/-! SUPPORT. WRITE of a rule: the checks of R129, the entry stored, and its record rewritten (R130, R142, R143). -/

namespace Sys2Proof.Machine

/-! ### Coded positions (11.4) -/

theorem CondKind.ofCode_cases (n : Nat) : (11 < n ∧ CondKind.ofCode n = none) ∨
    (n ≤ 11 ∧ ∃ x, CondKind.ofCode n = some x ∧ x.code = n ∧ (x.partScoped = true ↔ 9 ≤ n)) := by
  rcases Nat.lt_or_ge 11 n with h | h
  · obtain ⟨k, rfl⟩ := Nat.exists_eq_add_of_le' h
    exact .inl ⟨h, rfl⟩
  · refine .inr ⟨h, ?_⟩
    interval_cases n <;> exact ⟨_, rfl, rfl, by decide⟩

theorem QualifyMode.ofCode_cases (n : Nat) : (1 < n ∧ QualifyMode.ofCode n = none) ∨
    (n ≤ 1 ∧ ∃ x, QualifyMode.ofCode n = some x ∧ x.code = n) := by
  rcases Nat.lt_or_ge 1 n with h | h
  · obtain ⟨k, rfl⟩ := Nat.exists_eq_add_of_le' h
    exact .inl ⟨h, rfl⟩
  · refine .inr ⟨h, ?_⟩
    interval_cases n <;> exact ⟨_, rfl, rfl⟩

theorem AutoManual.ofCode_cases (n : Nat) : (1 < n ∧ AutoManual.ofCode n = none) ∨
    (n ≤ 1 ∧ ∃ x, AutoManual.ofCode n = some x ∧ x.code = n) := by
  rcases Nat.lt_or_ge 1 n with h | h
  · obtain ⟨k, rfl⟩ := Nat.exists_eq_add_of_le' h
    exact .inl ⟨h, rfl⟩
  · refine .inr ⟨h, ?_⟩
    interval_cases n <;> exact ⟨_, rfl, rfl⟩

theorem Severity.ofCode_cases (n : Nat) : (1 < n ∧ Severity.ofCode n = none) ∨
    (n ≤ 1 ∧ ∃ x, Severity.ofCode n = some x ∧ x.code = n) := by
  rcases Nat.lt_or_ge 1 n with h | h
  · obtain ⟨k, rfl⟩ := Nat.exists_eq_add_of_le' h
    exact .inl ⟨h, rfl⟩
  · refine .inr ⟨h, ?_⟩
    interval_cases n <;> exact ⟨_, rfl, rfl⟩

theorem Timing.ofCode_cases (n : Nat) : (1 < n ∧ Timing.ofCode n = none) ∨
    (n ≤ 1 ∧ ∃ x, Timing.ofCode n = some x ∧ x.code = n) := by
  rcases Nat.lt_or_ge 1 n with h | h
  · obtain ⟨k, rfl⟩ := Nat.exists_eq_add_of_le' h
    exact .inl ⟨h, rfl⟩
  · refine .inr ⟨h, ?_⟩
    interval_cases n <;> exact ⟨_, rfl, rfl⟩

theorem scope_cases (n : Nat) : 16 < n ∨ (n ≤ 16 ∧ scopeCode (toFin? 16 n) = n ∧
    ((toFin? 16 n).isNone = true ↔ n = 16)) := by
  rcases Nat.lt_trichotomy n 16 with h | rfl | h
  · have hfin : toFin? 16 n = some ⟨n, h⟩ := toFin?_of_eq (i := ⟨n, h⟩) rfl
    rw [hfin]
    exact .inr ⟨h.le, rfl, by simp [h.ne]⟩
  · exact .inr ⟨le_rfl, rfl, by decide⟩
  · exact .inl h

/-! ### The checks of a written rule (R129) -/

/-- The written positions that a rule takes. -/
structure RuleWrite.Named (w : RuleWrite) (n : RuleNames) : Prop where
  names : w.names = some n
  kind : n.kind.code = w.kind
  scope : scopeCode n.scope = w.scope
  qualify : n.qualify.code = w.qualify
  ackMode : n.ackMode.code = w.ackMode
  severity : n.severity.code = w.severity
  timing : n.timing.code = w.timing
  partKind : n.kind.partScoped = true ↔ 9 ≤ w.kind
  partScope : n.scope.isNone = true ↔ w.scope = 16

/-- Every position is in range. -/
def RuleWrite.inRange (w : RuleWrite) : Prop :=
  w.kind ≤ 11 ∧ w.qualify ≤ 1 ∧ w.ackMode ≤ 1 ∧ w.severity ≤ 1 ∧ w.timing ≤ 1 ∧ w.scope ≤ 16

theorem RuleWrite.names_cases (w : RuleWrite) : (¬ w.inRange ∧ w.names = none) ∨ (w.inRange ∧ ∃ n, w.Named n) := by
  unfold RuleWrite.inRange
  rcases CondKind.ofCode_cases w.kind with ⟨hbad, hkind⟩ | ⟨hk, kind, hkind, hkindCode, hpart⟩
  · exact .inl ⟨by omega, by simp [RuleWrite.names, hkind]⟩
  rcases QualifyMode.ofCode_cases w.qualify with ⟨hbad, hqualify⟩ | ⟨hq, qualify, hqualify, hqualifyCode⟩
  · exact .inl ⟨by omega, by simp [RuleWrite.names, hkind, hqualify]⟩
  rcases AutoManual.ofCode_cases w.ackMode with ⟨hbad, hack⟩ | ⟨ha, ack, hack, hackCode⟩
  · exact .inl ⟨by omega, by simp [RuleWrite.names, hkind, hqualify, hack]⟩
  rcases Severity.ofCode_cases w.severity with ⟨hbad, hseverity⟩ | ⟨hs, severity, hseverity, hseverityCode⟩
  · exact .inl ⟨by omega, by simp [RuleWrite.names, hkind, hqualify, hack, hseverity]⟩
  rcases Timing.ofCode_cases w.timing with ⟨hbad, htiming⟩ | ⟨ht, timing, htiming, htimingCode⟩
  · exact .inl ⟨by omega, by simp [RuleWrite.names, hkind, hqualify, hack, hseverity, htiming]⟩
  rcases scope_cases w.scope with hbad | ⟨hc, hscope, hnone⟩
  · exact .inl ⟨by omega, by simp [RuleWrite.names, hkind, hqualify, hack, hseverity, htiming, Nat.not_le.mpr hbad]⟩
  · refine .inr ⟨⟨hk, hq, ha, hs, ht, hc⟩, ⟨kind, toFin? 16 w.scope, qualify, ack, severity, timing⟩, ?_, hkindCode,
      hscope, hqualifyCode, hackCode, hseverityCode, htimingCode, hpart, hnone⟩
    simp [RuleWrite.names, hkind, hqualify, hack, hseverity, htiming, hc]

/-- Kind and scope agree, and no action falls to the part (R129). -/
def RuleWrite.sound (w : RuleWrite) : Prop :=
  (9 ≤ w.kind ↔ w.scope = 16) ∧ (w.scope = 16 → w.actions.mute = false ∧ w.actions.freeze = false ∧
    w.actions.holdDelay = false ∧ w.actions.changeover = false)

theorem Actions.eq_none_iff (a : Actions) : a = {} ↔
    a.mute = false ∧ a.freeze = false ∧ a.holdDelay = false ∧ a.changeover = false := by
  obtain ⟨mute, freeze, hold, change⟩ := a
  simp

theorem RuleWrite.Named.agrees_iff {w : RuleWrite} {n : RuleNames} (h : w.Named n) :
    n.agrees w.actions = true ↔ w.sound := by
  have hsome : n.scope.isSome = true ↔ ¬ w.scope = 16 := by
    rw [← h.partScope]
    cases n.scope <;> simp
  rw [RuleNames.agrees, Bool.and_eq_true, Bool.or_eq_true, beq_iff_eq, Bool.eq_iff_iff, h.partKind, h.partScope, hsome,
    beq_iff_eq, Actions.eq_none_iff, RuleWrite.sound, or_iff_not_imp_left, not_not]

/-! ### WRITE of a rule -/

section Write
variable {s : State} {o : Order} {r : Fin 64}

theorem State.writeRule_of_le (h : 64 ≤ o.index) : s.writeRule o = (.refusedIndex, s) := by
  rw [State.writeRule, toFin?_of_le h]

theorem State.writeRule_refused (h : o.index = r.val) (hbad : ¬ ((ruleWrite o.args).inRange ∧ (ruleWrite o.args).sound)) :
    s.writeRule o = (.refusedValue, s) := by
  rw [State.writeRule, toFin?_of_eq h]
  dsimp only
  rcases (ruleWrite o.args).names_cases with ⟨_, hnone⟩ | ⟨hrange, n, hn⟩
  · rw [hnone]
  · rw [hn.names]
    exact if_neg (mt hn.agrees_iff.mp fun hsound => hbad ⟨hrange, hsound⟩)

theorem State.writeRule_stored (h : o.index = r.val) {n : RuleNames} (hn : (ruleWrite o.args).Named n)
    (hsound : (ruleWrite o.args).sound) : s.writeRule o =
      (doneOr ((ruleWrite o.args).clamped ((ruleWrite o.args).rule n)), s.rewriteRule r ((ruleWrite o.args).rule n)) := by
  rw [State.writeRule, toFin?_of_eq h]
  dsimp only
  rw [hn.names]
  exact if_pos (hn.agrees_iff.mpr hsound)

end Write

theorem RuleWrite.clamped_iff (w : RuleWrite) (e : Rule) : doneOr (w.clamped e) = .done ↔
    e.level = w.level ∧ e.n = w.n ∧ e.w = w.w ∧ e.releaseTime = w.releaseTime ∧ e.stretch = w.stretch := by
  have hdone : doneOr (w.clamped e) = .done ↔ w.clamped e = false := by
    cases w.clamped e <;> simp [doneOr]
  rw [hdone, RuleWrite.clamped]
  simp only [Bool.or_eq_false_iff, bne_eq_false_iff_eq, and_assoc]
  exact ⟨fun ⟨a, b, c, d, e⟩ => ⟨a.symm, b.symm, c.symm, d.symm, e.symm⟩,
    fun ⟨a, b, c, d, e⟩ => ⟨a.symm, b.symm, c.symm, d.symm, e.symm⟩⟩

/-- The stored entry as R129 says it. -/
structure RuleWrite.Stores (w : RuleWrite) (e : Rule) : Prop where
  enabled : e.enabled = w.enabled
  kind : e.kind.code = w.kind
  scope : scopeCode e.scope = w.scope
  level : e.level = max (-7000) (min w.level 7000)
  qualify : e.qualify.code = w.qualify
  window : e.w = max 1 (min w.w 60000)
  count : e.n = if w.qualify = 1 then min (max 1 (min w.n 60000)) e.w else max 1 (min w.n 60000)
  releaseTime : e.releaseTime = min w.releaseTime 60000
  stretch : e.stretch = min w.stretch 60000
  ackMode : e.ackMode.code = w.ackMode
  severity : e.severity.code = w.severity
  actions : e.actions = w.actions
  notice : e.notice = w.notice
  timing : e.timing.code = w.timing

theorem RuleWrite.Named.stores {w : RuleWrite} {n : RuleNames} (h : w.Named n) : w.Stores (w.rule n) := by
  have hw : (w.rule n).w = max 1 (min w.w 60000) := clampNat_eq (by decide) _
  refine ⟨rfl, h.kind, h.scope, clampInt_eq (by decide) _, h.qualify, hw, ?_, rfl, rfl, h.ackMode, h.severity, rfl,
    rfl, h.timing⟩
  rw [hw, ← clampNat_eq (show 1 ≤ 60000 by decide), ← clampNat_eq (show 1 ≤ 60000 by decide)]
  have hcode := h.qualify
  show clampQualify n.qualify w.n w.w = _
  cases hmode : n.qualify with
  | persist =>
    rw [hmode] at hcode
    rw [if_neg (by intro hone; rw [hone] at hcode; exact absurd hcode (by decide))]
    rfl
  | count =>
    rw [hmode] at hcode
    rw [if_pos (by have : (1 : Int) = (w.qualify : Int) := hcode; omega)]
    rfl

end Sys2Proof.Machine
end

section
/-! SUPPORT. What a rewritten rule leaves: its record CLEAR, its actions released, its notice (R130, R142, R143). -/

namespace Sys2Proof.Machine

/-! ### The rule cleared -/

section Cleared
variable (s : State) (r : Fin 64) (e : Rule)

theorem State.record_ruleCleared_self : (s.ruleCleared r e).record r = (s.record r).cleared := by
  unfold State.ruleCleared
  split
  · exact (State.record_releaseActions _ _ r).trans (s.record_setRecord_self r _)
  · exact s.record_setRecord_self r _

theorem State.record_ruleCleared_ne {k : Fin 64} (h : k ≠ r) : (s.ruleCleared r e).record k = s.record k := by
  unfold State.ruleCleared
  split
  · exact (State.record_releaseActions _ _ k).trans (s.record_setRecord_ne _ h)
  · exact s.record_setRecord_ne _ h

theorem State.ruleCleared_frame : s.ruleCleared r e = { s with
    tables := { s.tables with rules := s.tables.rules.set r.val e r.isLt }
    programs := (s.ruleCleared r e).programs
    alarm := { s.alarm with records := (s.ruleCleared r e).alarm.records } } := by
  unfold State.ruleCleared State.releaseActions
  split
  · cases (s.rule r).scope <;> rfl
  · rfl

theorem State.count_ruleCleared (p : Fin 16) (a : ActionName) : ((s.ruleCleared r e).program p).holds.count a =
    (s.program p).holds.count a - if (s.record r).state.holding = true ∧ (s.rule r).scope = some p ∧
      (s.rule r).actions.has a = true then 1 else 0 := by
  unfold State.ruleCleared
  split
  next hheld =>
    refine (State.count_releaseActions (s.setRecord r (s.record r).cleared) (s.rule r) p a).trans ?_
    congr 1
    rw [hheld]
    cases hscope : ((s.rule r).scope == some p) <;> cases hhas : (s.rule r).actions.has a <;> simp_all
  next hheld => simp [hheld, State.setRule, State.setRecord, State.program]

theorem State.sameMarks_ruleCleared : s.SameMarks (s.ruleCleared r e) r := by
  have hrecord := s.record_ruleCleared_self r e
  have hframe := s.ruleCleared_frame r e
  refine ⟨?_, ?_, ?_, ?_, ?_, ?_⟩
  · rw [hrecord]; rfl
  · rw [hrecord]; rfl
  · rw [hrecord]; rfl
  · rw [hframe]
  · rw [hframe]
  · rw [hframe]

/-! ### Its change told, and its queued notice in place -/

/-- A rule cleared, with the notice of its change. -/
def State.ruleTold : State :=
  if (s.record r).state = .clear then s.ruleCleared r e
  else (s.ruleCleared r e).noticeChange r .rewritten ((s.rule r).notice || e.notice)

/-- And with the notice that stands in the queue renewed. -/
def State.ruleNoticed : State :=
  if (s.record r).queued then (s.ruleTold r e).refreshNotice r else s.ruleTold r e

theorem State.rewriteRule_noticed : s.rewriteRule r e = (s.ruleNoticed r e).followThrough := s.rewriteRule_eq r e

theorem State.ruleTold_noticed : (s.ruleCleared r e).Noticed (s.ruleTold r e) := by
  unfold State.ruleTold
  split
  · exact .refl _
  · exact State.noticeChange_noticed _ _ _ _

theorem State.ruleNoticed_noticed : (s.ruleCleared r e).Noticed (s.ruleNoticed r e) := by
  unfold State.ruleNoticed
  split
  · exact (s.ruleTold_noticed r e).trans (State.refreshNotice_noticed _ r)
  · exact s.ruleTold_noticed r e

theorem State.record_ruleNoticed (k : Fin 64) : (s.ruleNoticed r e).record k = (s.ruleTold r e).record k := by
  unfold State.ruleNoticed
  split
  · exact State.record_refreshNotice _ r k
  · rfl

theorem State.record_ruleTold_ne {k : Fin 64} (h : k ≠ r) : (s.ruleTold r e).record k = s.record k := by
  unfold State.ruleTold
  split
  · exact s.record_ruleCleared_ne r e h
  · exact (State.record_noticeChange_ne h).trans (s.record_ruleCleared_ne r e h)

end Cleared

/-! ### A notice renewed twice -/

/-- A notice of this rule gives way to the one given. -/
def Notice.renewed (r : Fin 64) (n m : Notice) : Notice := if m.isOf r then n else m

theorem map_renewed_twice {r : Fin 64} {n : Notice} (h : n.isOf r = true) (xs : List Notice) :
    (xs.map (Notice.renewed r n)).map (Notice.renewed r n) = xs.map (Notice.renewed r n) := by
  rw [List.map_map]
  refine List.map_congr_left fun m _ => ?_
  by_cases hm : m.isOf r = true <;> simp [Notice.renewed, hm, h]

theorem State.notices_refreshNotice (s : State) (r : Fin 64) :
    (s.refreshNotice r).alarm.notices = s.alarm.notices.map (Notice.renewed r (s.noticeOf r)) := rfl

/-! ### What the write leaves of its record and of the queue -/

section Rewritten
variable {s : State} {r : Fin 64} {e : Rule}

theorem State.ruleTold_of_clear (h : (s.record r).state = .clear) : s.ruleTold r e = s.ruleCleared r e := if_pos h

theorem State.ruleTold_made (h : (s.record r).state ≠ .clear) :
    NoticeMade s (s.ruleTold r e) r .rewritten ((s.rule r).notice || e.notice) := by
  unfold State.ruleTold
  rw [if_neg h]
  exact (State.noticeChange_made _ _ _ _).before (s.sameMarks_ruleCleared r e)

/-- The change is told (R130, R142). -/
def State.tellsRewrite (s : State) (r : Fin 64) (e : Rule) : Prop :=
  (s.record r).state ≠ .clear ∧ ((s.rule r).notice = true ∨ e.notice = true) ∧ s.tables.settings.node ≠ 0

/-- A change that is not told leaves the changes count, the marks and the queue. -/
theorem State.ruleTold_untold (h : ¬ s.tellsRewrite r e) :
    ((s.ruleTold r e).record r).changes = (s.record r).changes ∧
      ((s.ruleTold r e).record r).queued = (s.record r).queued ∧
      ((s.ruleTold r e).record r).owed = (s.record r).owed ∧
      (s.ruleTold r e).alarm.notices = s.alarm.notices := by
  by_cases hclear : (s.record r).state = .clear
  · rw [State.ruleTold_of_clear hclear, s.record_ruleCleared_self r e]
    exact ⟨rfl, rfl, rfl, (s.sameMarks_ruleCleared r e).notices⟩
  · obtain ⟨_, _, huntold, _⟩ := State.ruleTold_made (e := e) hclear
    refine huntold ?_
    by_cases hnode : s.tables.settings.node = 0
    · exact .inr hnode
    · refine .inl (Bool.eq_false_iff.mpr fun hflag => h ⟨hclear, ?_, hnode⟩)
      exact Bool.or_eq_true_iff.mp hflag

theorem State.ruleTold_told (h : s.tellsRewrite r e) :
    let x := s.record r
    let t := s.ruleTold r e
    let y := t.record r
    y.changes = min (x.changes + 1) 255 ∧
      (x.queued = true → y.queued = true ∧ y.owed = x.owed ∧
        t.alarm.notices = s.alarm.notices.map (Notice.renewed r (t.noticeOf r))) ∧
      (x.queued = false → x.owed = false → s.alarm.notices.length < 16 → y.queued = true ∧ y.owed = false ∧
        t.alarm.notices = s.alarm.notices ++ [t.noticeOf r]) ∧
      (x.queued = false → x.owed = true ∨ 16 ≤ s.alarm.notices.length → y.queued = false ∧ y.owed = true ∧
        t.alarm.notices = s.alarm.notices) := by
  obtain ⟨hclear, hflag, hnode⟩ := h
  obtain ⟨_, _, _, htold⟩ := State.ruleTold_made (e := e) hclear
  exact htold (Bool.or_eq_true_iff.mpr hflag) hnode

/-- The queue behind the write, its notice renewed where it stood. -/
theorem State.notices_ruleNoticed : (s.ruleNoticed r e).alarm.notices =
    if (s.record r).queued then s.alarm.notices.map (Notice.renewed r ((s.ruleNoticed r e).noticeOf r))
    else (s.ruleTold r e).alarm.notices := by
  have hnotice : (s.ruleNoticed r e).noticeOf r = (s.ruleTold r e).noticeOf r := by
    rw [State.noticeOf, State.noticeOf, State.record_ruleNoticed]
  rw [hnotice]
  unfold State.ruleNoticed
  split
  next hqueued =>
    rw [State.notices_refreshNotice]
    by_cases htold : s.tellsRewrite r e
    · obtain ⟨_, hplace, _⟩ := State.ruleTold_told htold
      rw [(hplace hqueued).2.2]
      exact map_renewed_twice (by rw [State.isOf_noticeOf]; exact beq_self_eq_true r) _
    · obtain ⟨_, _, _, hnotices⟩ := State.ruleTold_untold htold
      rw [hnotices]
  next => rfl

theorem State.ruleTold_last : ((s.ruleTold r e).record r).last =
      (if (s.record r).state = .clear then (s.record r).last else some .rewritten) ∧
    ((s.ruleTold r e).record r).lastStamp =
      (if (s.record r).state = .clear then (s.record r).lastStamp else s.house.stamp) := by
  by_cases hclear : (s.record r).state = .clear
  · rw [State.ruleTold_of_clear hclear, s.record_ruleCleared_self r e, if_pos hclear, if_pos hclear]
    exact ⟨rfl, rfl⟩
  · obtain ⟨hlast, hstamp, _⟩ := State.ruleTold_made (e := e) hclear
    rw [if_neg hclear, if_neg hclear]
    exact ⟨hlast, hstamp⟩

end Rewritten

/-! ### The part behind the write -/

section Behind
variable (s : State) (r : Fin 64) (e : Rule)

theorem State.record_rewriteRule (k : Fin 64) : (s.rewriteRule r e).record k = (s.ruleTold r e).record k := by
  rw [State.rewriteRule_noticed, State.record_followThrough, State.record_ruleNoticed]

theorem State.noticeOf_rewriteRule : (s.rewriteRule r e).noticeOf r = (s.ruleTold r e).noticeOf r := by
  rw [State.noticeOf, State.noticeOf, State.record_rewriteRule]

theorem State.notices_rewriteRule : (s.rewriteRule r e).alarm.notices =
    if (s.record r).queued then s.alarm.notices.map (Notice.renewed r ((s.rewriteRule r e).noticeOf r))
    else (s.ruleTold r e).alarm.notices := by
  have hnotice : (s.ruleNoticed r e).noticeOf r = (s.ruleTold r e).noticeOf r := by
    rw [State.noticeOf, State.noticeOf, State.record_ruleNoticed]
  rw [State.noticeOf_rewriteRule, ← hnotice, ← State.notices_ruleNoticed, State.rewriteRule_noticed]
  exact State.followThrough_notices _

/-- The record behind the write, but for its last change and its marks. -/
theorem State.unmarked_rewriteRule : ((s.rewriteRule r e).record r).unmarked = (s.record r).cleared.unmarked := by
  rw [State.record_rewriteRule, (s.ruleTold_noticed r e).records r, s.record_ruleCleared_self r e]

theorem State.count_rewriteRule (p : Fin 16) (a : ActionName) : ((s.rewriteRule r e).program p).holds.count a =
    (s.program p).holds.count a - if (s.record r).state.holding = true ∧ (s.rule r).scope = some p ∧
      (s.rule r).actions.has a = true then 1 else 0 := by
  rw [← s.count_ruleCleared r e p a, State.rewriteRule_noticed, (State.handsOn_followThrough _).program p,
    (s.ruleNoticed_noticed r e).program p]

/-- All that the write of a rule leaves but its record, its notice, the hold counts and what these hand on. -/
structure State.RuleWritten (s t : State) (r : Fin 64) (e : Rule) : Prop where
  tables : t.tables = { s.tables with rules := s.tables.rules.set r.val e r.isLt }
  orders : t.orders = s.orders
  lanes : t.lanes = s.lanes
  mem : t.mem = s.mem
  house : t.house = s.house
  egress : t.egress = s.egress
  rx : t.rx = s.rx

theorem State.ruleWritten : s.RuleWritten (s.rewriteRule r e) r e := by
  have hframe := s.ruleCleared_frame r e
  have hnoticed := (s.ruleNoticed_noticed r e).frame
  rw [State.rewriteRule_noticed, (State.handsOn_followThrough _).rest, hnoticed, hframe]
  exact ⟨rfl, rfl, rfl, rfl, rfl, rfl, rfl⟩

end Behind

/-- With no owed rule waiting for a place, a rule is owed only while the queue is full (R144). -/
theorem State.owed_of_calm {s : State} (h : s.calm = true) {r : Fin 64} (hroom : s.alarm.notices.length < 16) :
    (s.record r).owed = false := by
  have hdue : s.promotionDue = false := Bool.not_eq_true' _ |>.mp (Bool.and_eq_true_iff.mp h).2
  refine Bool.eq_false_iff.mpr fun howed => ?_
  have hany : ((List.finRange 64).any fun r => (s.record r).owed) = true :=
    List.any_eq_true.mpr ⟨r, List.mem_finRange r, howed⟩
  rw [State.promotionDue, hany, Bool.and_true] at hdue
  exact absurd hroom (of_decide_eq_false hdue)

/-- What the write leaves of its record and of the queue (R130, R142, R143). -/
theorem State.rewriteRule_record {s : State} {r : Fin 64} {e : Rule}
    (howed : s.alarm.notices.length < 16 → (s.record r).owed = false) :
    let u := s.rewriteRule r e
    let x := s.record r
    let y := u.record r
    y.state = .clear ∧ y.qual = 0 ∧ y.window = 0 ∧ y.stretch = 0 ∧ y.release = 0 ∧ y.due = none ∧
    y.acked = x.acked ∧ y.raises = x.raises ∧
    let told := s.tellsRewrite r e
    let joins := told ∧ x.queued = false ∧ s.alarm.notices.length < 16
    let owes := told ∧ x.queued = false ∧ 16 ≤ s.alarm.notices.length
    y.last = (if x.state = .clear then x.last else some .rewritten) ∧
    y.lastStamp = (if x.state = .clear then x.lastStamp else s.house.stamp) ∧
    (told → y.changes = min (x.changes + 1) 255) ∧ (¬ told → y.changes = x.changes) ∧
    (joins → y.queued = true ∧ y.owed = false ∧ u.alarm.notices = s.alarm.notices ++ [u.noticeOf r]) ∧
    (owes → y.queued = false ∧ y.owed = true ∧ u.alarm.notices = s.alarm.notices) ∧
    (¬ joins → ¬ owes → y.queued = x.queued ∧ y.owed = x.owed ∧
      u.alarm.notices = if x.queued then
        s.alarm.notices.map fun n => if n.isOf r then u.noticeOf r else n else s.alarm.notices) ∧
    ∀ p a, (u.program p).holds.count a = (s.program p).holds.count a -
      if x.state.holding = true ∧ (s.rule r).scope = some p ∧ (s.rule r).actions.has a = true
      then 1 else 0 := by
  dsimp only
  have hunmarked := s.unmarked_rewriteRule r e
  have hrecord := s.record_rewriteRule r e r
  have hlast := State.ruleTold_last (s := s) (r := r) (e := e)
  have hnotices := s.notices_rewriteRule r e
  have hnotice := s.noticeOf_rewriteRule r e
  refine ⟨(congrArg Record.state hunmarked :), (congrArg Record.qual hunmarked :), (congrArg Record.window hunmarked :),
    (congrArg Record.stretch hunmarked :), (congrArg Record.release hunmarked :), (congrArg Record.due hunmarked :),
    (congrArg Record.acked hunmarked :), (congrArg Record.raises hunmarked :), ?_, ?_, fun htold => ?_, fun hnot => ?_,
    fun ⟨htold, hqueued, hroom⟩ => ?_, fun ⟨htold, hqueued, hfull⟩ => ?_, fun hjoins howes => ?_,
    s.count_rewriteRule r e⟩
  · rw [hrecord]
    exact hlast.1
  · rw [hrecord]
    exact hlast.2
  · rw [hrecord]
    exact (State.ruleTold_told htold).1
  · rw [hrecord]
    exact (State.ruleTold_untold hnot).1
  · obtain ⟨_, _, hjoin, _⟩ := State.ruleTold_told htold
    rw [hnotices, hqueued, hrecord, hnotice]
    exact hjoin hqueued (howed hroom) hroom
  · obtain ⟨_, _, _, hwait⟩ := State.ruleTold_told htold
    rw [hnotices, hqueued, hrecord]
    exact hwait hqueued (.inr hfull)
  · rw [hnotices, hrecord]
    by_cases htold : s.tellsRewrite r e
    · cases hqueued : (s.record r).queued with
      | true =>
        obtain ⟨_, hplace, _⟩ := State.ruleTold_told htold
        obtain ⟨hq, ho, _⟩ := hplace hqueued
        exact ⟨hq, ho, rfl⟩
      | false =>
        rcases Nat.lt_or_ge s.alarm.notices.length 16 with hroom | hfull
        · exact absurd ⟨htold, hqueued, hroom⟩ hjoins
        · exact absurd ⟨htold, hqueued, hfull⟩ howes
    · obtain ⟨_, hq, ho, hsame⟩ := State.ruleTold_untold htold
      exact ⟨hq, ho, by rw [hsame]; rfl⟩

/-- Settles O44: a rule's checks, its entry, and its record rewritten. -/
theorem rulesAreWritten : Obligations.RulesAreWritten := by
  intro s o h hrow
  have hrun : exec .writeRule s = .next (State.finish o (s.dropHead.writeRule o)) := by
    rw [exec_of_takes h hrow, State.carryOut, hrow]
  refine ⟨fun hi => ?_, fun r hr => ⟨fun hbad => ?_, fun hgood => ?_⟩⟩
  · rw [hrun, State.writeRule_of_le hi]
    rfl
  · rw [hrun, State.writeRule_refused hr]
    · rfl
    · rintro ⟨⟨hk, hq, ha, hs, ht, hc⟩, hagree⟩
      exact hbad ⟨hk, hq, ha, hs, ht, hc, hagree⟩
  obtain ⟨hk, hq, ha, hs, ht, hc, hagree⟩ := hgood
  obtain ⟨hno, _⟩ | ⟨_, n, hn⟩ := (ruleWrite o.args).names_cases
  · exact absurd ⟨hk, hq, ha, hs, ht, hc⟩ hno
  rw [hrun, State.writeRule_stored hr hn hagree]
  generalize he : (ruleWrite o.args).rule n = e
  have hstores := he ▸ hn.stores
  have hwritten := s.dropHead.ruleWritten r e
  have hrule : (s.dropHead.rewriteRule r e).rule r = e := by
    rw [State.rule, hwritten.tables]
    exact Vector.getElem_set_self _
  refine ⟨s.dropHead.rewriteRule r e, _, rfl, ?_, ?_, ?_, ?_, fun k hk => ?_, hwritten.orders, hwritten.lanes, hwritten.mem,
    hwritten.house, hwritten.egress, hwritten.rx⟩
  · cases (ruleWrite o.args).clamped e
    · exact .inl rfl
    · exact .inr rfl
  · rw [hrule]
    exact hwritten.tables
  · rw [hrule]
    exact ⟨hstores.enabled, hstores.kind, hstores.scope, hstores.level, hstores.qualify, hstores.window, hstores.count,
      hstores.releaseTime, hstores.stretch, hstores.ackMode, hstores.severity, hstores.actions, hstores.notice,
      hstores.timing, RuleWrite.clamped_iff _ e⟩
  · rw [hrule]
    have hmoves := State.rewriteRule_record (s := s.dropHead) (r := r) (e := e) fun hroom => State.owed_of_calm h.1 hroom
    exact hmoves
  · rw [State.record_rewriteRule, State.record_ruleTold_ne _ _ _ hk]
    rfl

end Sys2Proof.Machine
end

section
/-! SUPPORT. The moves of one record: raise, window end and release (R133 to R136, R139), and ACKNOWLEDGE of one rule (R137). -/

namespace Sys2Proof.Machine

/-! ### One record turned, before its notice -/

/-- One record and the hold counts have moved, and nothing else: no mark, no notice. -/
structure State.Turned (s t : State) (r : Fin 64) : Prop where
  frame : t = { s with
    programs := t.programs, alarm := { s.alarm with records := t.alarm.records } }
  others : ∀ k, k ≠ r → t.record k = s.record k
  programs : ∀ p, t.program p = { s.program p with holds := (t.program p).holds }
  changes : (t.record r).changes = (s.record r).changes
  queued : (t.record r).queued = (s.record r).queued
  owed : (t.record r).owed = (s.record r).owed

section Turned
variable {s t : State} {r : Fin 64} {x : Record}

theorem State.Turned.sameMarks (h : s.Turned t r) : s.SameMarks t r where
  changes := h.changes
  queued := h.queued
  owed := h.owed
  notices := by rw [h.frame]
  stamp := by rw [h.frame]
  node := by rw [h.frame]

theorem State.Turned.setRecord (hchanges : x.changes = (s.record r).changes) (hqueued : x.queued = (s.record r).queued)
    (howed : x.owed = (s.record r).owed) : s.Turned (s.setRecord r x) r where
  frame := rfl
  others k hk := s.record_setRecord_ne _ hk
  programs _ := rfl
  changes := by rw [State.record_setRecord_self, hchanges]
  queued := by rw [State.record_setRecord_self, hqueued]
  owed := by rw [State.record_setRecord_self, howed]

theorem State.Turned.setHolds (h : s.Turned t r) (p : Fin 16) (c : Holds) :
    s.Turned (t.setProgram p { t.program p with holds := c }) r where
  frame := by
    rw [h.frame]
    rfl
  others k hk := (t.record_setProgram p _ k).trans (h.others k hk)
  programs q := by
    by_cases hq : q = p
    · subst hq
      rw [State.program_setProgram_self, h.programs q]
    · rw [State.program_setProgram_ne _ _ hq]
      exact h.programs q
  changes := by rw [State.record_setProgram, h.changes]
  queued := by rw [State.record_setProgram, h.queued]
  owed := by rw [State.record_setProgram, h.owed]

theorem State.Turned.held (h : s.Turned t r) (rl : Rule) : s.Turned (t.holdActions rl) r := by
  unfold State.holdActions
  split
  · exact h.setHolds _ _
  · exact h

theorem State.Turned.released (h : s.Turned t r) (rl : Rule) : s.Turned (t.releaseActions rl) r := by
  unfold State.releaseActions
  split
  · exact h.setHolds _ _
  · exact h

/-- A turned record, its change told or not, and what follows. -/
theorem State.Turned.told (h : s.Turned t r) (cause : Cause) (flagged : Bool) :
    OnlyRecordMoves s (t.noticeChange r cause flagged).followThrough r ∧
      NoticeMade s (t.noticeChange r cause flagged).followThrough r cause flagged ∧
      (((t.noticeChange r cause flagged).followThrough).record r).unmarked = (t.record r).unmarked ∧
      ∀ p, (((t.noticeChange r cause flagged).followThrough).program p).holds = (t.program p).holds := by
  have hnoticed := (t.noticeChange_noticed r cause flagged).toNoticedCore
  have hmade := NoticeMade.followed (cause := cause) (flagged := flagged) h.sameMarks
  have hothers : ∀ k, k ≠ r → (t.noticeChange r cause flagged).record k = s.record k := fun k hk =>
    (State.record_noticeChange_ne hk).trans (h.others k hk)
  generalize t.noticeChange r cause flagged = u at hnoticed hmade hothers ⊢
  have hhands := u.handsOn_followThrough
  have hprogram : ∀ p, u.program p = { s.program p with holds := (t.program p).holds } := fun p =>
    (hnoticed.program p).trans (h.programs p)
  refine ⟨⟨?_, fun k hk => ?_, ?_, fun p => ?_⟩, hmade, ?_, fun p => ?_⟩
  · rw [hhands.rest, hnoticed.frame, h.frame]
  · rw [State.record_followThrough]
    exact hothers k hk
  · rw [hhands.rest, hnoticed.frame, h.frame]
  · rw [hhands.program p, hprogram p]
  · rw [State.record_followThrough]
    exact hnoticed.records r
  · rw [hhands.program p, hprogram p]

end Turned

/-! ### When a move is taken (R142) -/

/-- A move is next when no lower-indexed rule has a move due that makes a notice beside its own. -/
theorem State.moveDue_of_first {s : State} {r : Fin 64} {m : DueMove} (hdue : (s.record r).due = some m)
    (hfirst : (s.rule r).notice = true → s.tables.settings.node ≠ 0 → ∀ k, k < r → (s.rule k).notice = true →
      (s.record k).due ≠ some .raise ∧ (s.record k).due ≠ some .release) : s.moveDue r m = true := by
  rw [State.moveDue, hdue, beq_self_eq_true, Bool.true_and, Bool.or_eq_true, Bool.not_eq_true', List.all_eq_true]
  refine or_iff_not_imp_left.mpr fun hreports k _ => ?_
  obtain ⟨_, hnotice, hnode⟩ : m.notifies = true ∧ (s.rule r).notice = true ∧ s.tables.settings.node ≠ 0 := by
    simpa [State.reports] using hreports
  rw [Bool.or_eq_true, decide_eq_true_iff, Bool.not_eq_true']
  refine or_iff_not_imp_left.mpr fun hlower => ?_
  have hnone := hfirst hnotice hnode k (not_le.mp hlower)
  cases hd : (s.record k).due with
  | none => rfl
  | some d =>
    cases hk : (s.rule k).notice with
    | false => simp [State.reports, hk]
    | true =>
      obtain ⟨hraise, hrelease⟩ := hnone hk
      cases d with
      | raise => exact absurd hd hraise
      | release => exact absurd hd hrelease
      | windowEnd => simp [State.reports, DueMove.notifies]

/-- A window's end waits for none (R133). -/
theorem State.moveDue_windowEnd {s : State} {r : Fin 64} (hdue : (s.record r).due = some .windowEnd) :
    s.moveDue r .windowEnd = true := by
  rw [State.moveDue, hdue]
  rfl

/-! ### Raise and release -/

/-- A record is another but for what its notices carry and mark. -/
theorem Record.eq_of_unmarked {x y : Record} (h : y.unmarked = x.unmarked) : y = { x with
    last := y.last, lastStamp := y.lastStamp, changes := y.changes, queued := y.queued, owed := y.owed } := by
  calc y = { y.unmarked with
          last := y.last, lastStamp := y.lastStamp, changes := y.changes, queued := y.queued, owed := y.owed } := rfl
    _ = { x.unmarked with
          last := y.last, lastStamp := y.lastStamp, changes := y.changes, queued := y.queued, owed := y.owed } := by rw [h]
    _ = _ := rfl

theorem Bool.toNat_eq_ite_of_iff {b : Bool} {P : Prop} [Decidable P] (h : b = true ↔ P) : b.toNat = if P then 1 else 0 := by
  by_cases hP : P
  · rw [if_pos hP, h.mpr hP]
    rfl
  · rw [if_neg hP, Bool.eq_false_iff.mpr (mt h.mp hP)]
    rfl

/-- A raised record, its actions held where it was not releasing (R134, R136). -/
def State.raised (s : State) (r : Fin 64) : State :=
  if (s.record r).state != .releasing then
    (s.setRecord r ((s.record r).enterRaised (s.rule r))).holdActions (s.rule r)
  else s.setRecord r ((s.record r).enterRaised (s.rule r))

theorem State.raised_turned (s : State) (r : Fin 64) : s.Turned (s.raised r) r := by
  have hset : s.Turned (s.setRecord r ((s.record r).enterRaised (s.rule r))) r := .setRecord rfl rfl rfl
  unfold State.raised
  split
  · exact hset.held _
  · exact hset

theorem State.record_raised (s : State) (r : Fin 64) :
    (s.raised r).record r = (s.record r).enterRaised (s.rule r) := by
  unfold State.raised
  split
  · exact (State.record_holdActions _ _ r).trans (s.record_setRecord_self r _)
  · exact s.record_setRecord_self r _

theorem State.count_raised (s : State) (r : Fin 64) (p : Fin 16) (a : ActionName) :
    ((s.raised r).program p).holds.count a = (s.program p).holds.count a +
      if (s.rule r).scope = some p ∧ (s.rule r).actions.has a = true ∧ (s.record r).state ≠ .releasing then 1 else 0 := by
  unfold State.raised
  split
  next h =>
    refine (State.count_holdActions _ (s.rule r) p a).trans (congrArg _ (Bool.toNat_eq_ite_of_iff ?_))
    rw [Bool.and_eq_true, beq_iff_eq]
    exact ⟨fun ⟨hp, ha⟩ => ⟨hp, ha, bne_iff_ne.mp h⟩, fun ⟨hp, ha, _⟩ => ⟨hp, ha⟩⟩
  next h =>
    rw [if_neg fun hall => h (bne_iff_ne.mpr hall.2.2)]
    rfl

/-- A record that has left RELEASING, its actions released (R135). -/
def State.left (s : State) (r : Fin 64) : State :=
  (s.setRecord r ((s.record r).leaveReleasing (s.rule r))).releaseActions (s.rule r)

theorem State.left_turned (s : State) (r : Fin 64) : s.Turned (s.left r) r :=
  State.Turned.released (s := s) (t := s.setRecord r ((s.record r).leaveReleasing (s.rule r)))
    (.setRecord rfl rfl rfl) (s.rule r)

theorem State.record_left (s : State) (r : Fin 64) :
    (s.left r).record r = (s.record r).leaveReleasing (s.rule r) :=
  (State.record_releaseActions _ _ r).trans (s.record_setRecord_self r _)

theorem State.count_left (s : State) (r : Fin 64) (p : Fin 16) (a : ActionName) :
    ((s.left r).program p).holds.count a = (s.program p).holds.count a -
      if (s.rule r).scope = some p ∧ (s.rule r).actions.has a = true then 1 else 0 := by
  refine (State.count_releaseActions _ (s.rule r) p a).trans (congrArg _ (Bool.toNat_eq_ite_of_iff ?_))
  rw [Bool.and_eq_true, beq_iff_eq]

theorem State.releaseRecord_eq (s : State) (r : Fin 64) : s.releaseRecord r =
    ((s.left r).noticeChange r (if (s.rule r).ackMode == .auto || (s.record r).acked then .cleared else .ackWait)
      (s.rule r).notice).followThrough := rfl

/-- Settles O35: raise, window end and release of a record, with holds and notice. -/
theorem recordsMove : Obligations.RecordsMove := by
  intro s r hrunning
  refine ⟨fun hfirst hdue => ?_, fun hdue => ?_, fun hfirst hdue => ?_⟩
  · have hrun : exec (.recordRaised r) s = .next (s.raiseRecord r) :=
      congrArg Host.Outcome.next (State.ownCommand_of_due hrunning (State.moveDue_of_first hdue hfirst) _)
    obtain ⟨honly, hmade, hunmarked, hholds⟩ := (s.raised_turned r).told .raised (s.rule r).notice
    rw [s.record_raised r] at hunmarked
    refine ⟨s.raiseRecord r, hrun, honly, ⟨(congrArg Record.state hunmarked :), (congrArg Record.due hunmarked :),
      (congrArg Record.release hunmarked :), (congrArg Record.qual hunmarked :), (congrArg Record.window hunmarked :),
      ?_, (congrArg Record.acked hunmarked :), ?_⟩, hmade, fun p a => ?_⟩
    · refine (congrArg Record.stretch hunmarked :).trans ?_
      by_cases hstate : (s.record r).state = .releasing <;> simp [Record.enterRaised, Record.unmarked, hstate]
    · refine (congrArg Record.raises hunmarked :).trans ?_
      by_cases hstate : (s.record r).state = .qualifying <;> simp [Record.enterRaised, Record.unmarked, hstate, satAdd]
    · rw [← s.count_raised r p a]
      exact congrArg (fun c : Holds => c.count a) (hholds p)
  · exact congrArg Host.Outcome.next (State.ownCommand_of_due hrunning (State.moveDue_windowEnd hdue) _)
  · have hrun : exec (.releaseEnd r) s = .next (s.releaseRecord r) :=
      congrArg Host.Outcome.next (State.ownCommand_of_due hrunning (State.moveDue_of_first hdue hfirst) _)
    obtain ⟨honly, hmade, hunmarked, hholds⟩ := (s.left_turned r).told
      (if (s.rule r).ackMode == .auto || (s.record r).acked then .cleared else .ackWait) (s.rule r).notice
    rw [s.record_left r] at hunmarked
    have hmade : NoticeMade s (s.releaseRecord r) r
      (if (s.rule r).ackMode == .auto || (s.record r).acked then .cleared else .ackWait) (s.rule r).notice := hmade
    refine ⟨s.releaseRecord r, hrun, honly, ⟨?_, fun hclosed => ?_, fun hopen => ?_⟩, fun p a => ?_⟩
    · refine (Record.eq_of_unmarked hunmarked).trans ?_
      by_cases hclosed : (s.rule r).ackMode = .auto ∨ (s.record r).acked = true <;>
        simp [Record.leaveReleasing, hclosed, State.releaseRecord_eq]
    · rw [if_pos (by simpa using hclosed)] at hmade
      exact hmade
    · rw [if_neg (by simpa using hopen)] at hmade
      exact hmade
    · rw [← s.count_left r p a]
      exact congrArg (fun c : Holds => c.count a) (hholds p)

end Sys2Proof.Machine
end

section
/-! SUPPORT. A list of rules whose records are moved in turn, each with its notice: what becomes of the records and of the
queue (R137, R138, R142 to R144). -/

namespace Sys2Proof.Machine

/-- The moves of many records: the cause of their changes, which of them make a change, and what each record becomes
before its change is noted. -/
structure Turning where
  cause : Cause
  acts : Fin 64 → Bool
  turned : Fin 64 → Record

section Define
variable (T : Turning) (s : State)

/-- The rule makes a notice (R142). -/
def Turning.noticed (r : Fin 64) : Bool := T.acts r && (s.rule r).notice && s.tables.settings.node != 0

/-- The rules of a list whose notice takes a free place of the queue (R143). -/
def Turning.joining (xs : List (Fin 64)) : List (Fin 64) :=
  ((xs.filter (T.noticed s)).filter fun r => !(s.record r).queued && !(s.record r).owed).take
    (16 - s.alarm.notices.length)

/-- What the moves of a list of rules make of the record of one of them. -/
def Turning.record (xs : List (Fin 64)) (r : Fin 64) : Record :=
  if T.acts r then
    { T.turned r with
      last := some T.cause, lastStamp := s.house.stamp
      changes := if T.noticed s r then min ((s.record r).changes + 1) 255 else (s.record r).changes
      queued := (s.record r).queued || decide (r ∈ T.joining s xs)
      owed := if T.noticed s r = true ∧ (s.record r).queued = false then decide (r ∉ T.joining s xs)
        else (s.record r).owed }
  else T.turned r

/-- A notice that stood in the queue, renewed where its rule makes one (R143). -/
def Turning.renewed (v : State) (xs : List (Fin 64)) (n : Notice) : Notice :=
  match n with
  | .rule r _ _ _ _ _ => if r ∈ xs ∧ T.noticed s r = true ∧ (s.record r).queued = true then v.noticeOf r else n
  | .started _ _ _ => n

/-- The part behind the moves of a list of rules. -/
structure Turning.Done (v : State) (xs : List (Fin 64)) : Prop where
  frame : v = { s with
    programs := v.programs, alarm := { s.alarm with records := v.alarm.records, notices := v.alarm.notices } }
  others : ∀ r, r ∉ xs → v.record r = s.record r
  records : ∀ r ∈ xs, v.record r = T.record s xs r
  notices : v.alarm.notices = s.alarm.notices.map (T.renewed s v xs) ++ (T.joining s xs).map v.noticeOf

/-- The move of one rule, from a state in which its record still stands. -/
structure Turning.Moves (v w : State) (r : Fin 64) : Prop where
  frame : w = { v with
    programs := w.programs, alarm := { v.alarm with records := w.alarm.records, notices := w.alarm.notices } }
  others : ∀ k, k ≠ r → w.record k = v.record k
  silent : T.acts r = false → w.record r = T.turned r ∧ w.alarm.notices = v.alarm.notices
  made : T.acts r = true → NoticeMade v w r T.cause (v.rule r).notice ∧ (w.record r).unmarked = (T.turned r).unmarked

end Define

theorem State.noticeOf_congr {t u : State} {r : Fin 64} (h : u.record r = t.record r) : u.noticeOf r = t.noticeOf r := by
  rw [State.noticeOf, State.noticeOf, h]

section Turn
variable {T : Turning} {s v w : State} {xs : List (Fin 64)} {r : Fin 64}

theorem Turning.joining_subset (h : r ∈ T.joining s xs) : r ∈ xs :=
  List.mem_of_mem_filter (List.mem_of_mem_filter (List.mem_of_mem_take h))

/-- One more rule joins where it makes a notice, has none in the queue, is not owed, and a place is left. -/
theorem Turning.joining_snoc : T.joining s (xs ++ [r]) = T.joining s xs ++
    if T.noticed s r = true ∧ (s.record r).queued = false ∧ (s.record r).owed = false ∧
      s.alarm.notices.length + (T.joining s xs).length < 16 then [r] else [] := by
  unfold Turning.joining
  rw [List.filter_append, List.filter_append, List.take_append, List.length_take]
  congr 1
  generalize ((xs.filter (T.noticed s)).filter fun r => !(s.record r).queued && !(s.record r).owed).length = k
  by_cases hjoins : T.noticed s r = true ∧ (s.record r).queued = false ∧ (s.record r).owed = false
  · obtain ⟨hnoticed, hqueued, howed⟩ := hjoins
    simp only [List.filter_cons, hnoticed, hqueued, howed, if_true, List.filter_nil, Bool.not_false, Bool.and_self,
      true_and]
    by_cases hroom : s.alarm.notices.length + min (16 - s.alarm.notices.length) k < 16
    · rw [if_pos hroom, List.take_of_length_le]
      rw [List.length_singleton]
      omega
    · rw [if_neg hroom, show 16 - s.alarm.notices.length - k = 0 by omega, List.take_zero]
  · rw [if_neg fun h => hjoins ⟨h.1, h.2.1, h.2.2.1⟩]
    have hnone : (([r].filter (T.noticed s)).filter fun r => !(s.record r).queued && !(s.record r).owed) = [] := by
      rw [List.filter_filter, List.filter_eq_nil_iff]
      intro k hk htold
      rw [List.mem_singleton.mp hk] at htold
      simp only [Bool.and_eq_true, Bool.not_eq_true'] at htold
      exact hjoins ⟨htold.2, htold.1.1, htold.1.2⟩
    rw [hnone, List.take_nil]

theorem Turning.renewed_snoc (hr : r ∉ xs) (hothers : ∀ k, k ≠ r → w.record k = v.record k) (n : Notice) :
    T.renewed s w (xs ++ [r]) n =
      if T.noticed s r = true ∧ (s.record r).queued = true then
        Notice.renewed r (w.noticeOf r) (T.renewed s v xs n)
      else T.renewed s v xs n := by
  cases n with
  | started a b c => split <;> rfl
  | rule k st acked last stamp changes =>
    by_cases hk : k = r
    · subst hk
      have hstands : T.renewed s v xs (.rule k st acked last stamp changes) = .rule k st acked last stamp changes :=
        if_neg fun h => hr h.1
      rw [hstands]
      by_cases hrenew : T.noticed s k = true ∧ (s.record k).queued = true
      · rw [if_pos hrenew]
        exact (if_pos ⟨List.mem_append_right _ (List.mem_singleton_self k), hrenew⟩).trans
          (if_pos (beq_self_eq_true k)).symm
      · rw [if_neg hrenew]
        exact if_neg fun h => hrenew h.2
    · have hsame : T.renewed s w (xs ++ [r]) (.rule k st acked last stamp changes) =
          T.renewed s v xs (.rule k st acked last stamp changes) := by
        simp only [Turning.renewed, List.mem_append, List.mem_singleton, hk, or_false,
          State.noticeOf_congr (hothers k hk)]
      have hkeeps : Notice.renewed r (w.noticeOf r) (T.renewed s v xs (.rule k st acked last stamp changes)) =
          T.renewed s v xs (.rule k st acked last stamp changes) := by
        refine if_neg ?_
        have hof : (T.renewed s v xs (.rule k st acked last stamp changes)).isOf r = (k == r) := by
          unfold Turning.renewed
          dsimp only
          split <;> rfl
        rw [hof, beq_iff_eq]
        exact hk
      rw [hsame, hkeeps, ite_self]

theorem Turning.Done.length (h : T.Done s v xs) :
    v.alarm.notices.length = s.alarm.notices.length + (T.joining s xs).length := by
  rw [h.notices, List.length_append, List.length_map, List.length_map]

theorem Turning.record_snoc {k : Fin 64} (hk : k ≠ r) : T.record s (xs ++ [r]) k = T.record s xs k := by
  have hmem : k ∈ T.joining s (xs ++ [r]) ↔ k ∈ T.joining s xs := by
    rw [Turning.joining_snoc, List.mem_append]
    refine or_iff_left fun hin => ?_
    split at hin
    · exact hk (List.mem_singleton.mp hin)
    · exact List.not_mem_nil hin
  simp only [Turning.record, hmem]

/-- The marks and the queue behind one more rule, whose change is told or not. -/
theorem Turning.Done.marks (h : T.Done s v xs) (hr : r ∉ xs) (hmoves : T.Moves v w r) (hacts : T.acts r = true) :
    let y := w.record r
    (y.changes = if T.noticed s r then min ((s.record r).changes + 1) 255 else (s.record r).changes) ∧
      y.queued = ((s.record r).queued || decide (r ∈ T.joining s (xs ++ [r]))) ∧
      (y.owed = if T.noticed s r = true ∧ (s.record r).queued = false then decide (r ∉ T.joining s (xs ++ [r]))
        else (s.record r).owed) ∧
      w.alarm.notices = (if T.noticed s r = true ∧ (s.record r).queued = true then
          v.alarm.notices.map (Notice.renewed r (w.noticeOf r)) else v.alarm.notices) ++
        (if T.noticed s r = true ∧ (s.record r).queued = false ∧ (s.record r).owed = false ∧
          s.alarm.notices.length + (T.joining s xs).length < 16 then [w.noticeOf r] else []) := by
  have hrecord := h.others r hr
  have htables : v.tables = s.tables := by rw [h.frame]
  have hrule : v.rule r = s.rule r := by rw [State.rule, htables, State.rule]
  obtain ⟨⟨_, _, huntold, htold⟩, _⟩ := hmoves.made hacts
  have hnot : r ∉ T.joining s xs := fun hin => hr (Turning.joining_subset hin)
  rw [hrecord, hrule, htables] at huntold htold
  rw [h.length] at htold
  dsimp only
  rw [Turning.joining_snoc]
  have hnoticed : T.noticed s r = true ↔ (s.rule r).notice = true ∧ s.tables.settings.node ≠ 0 := by
    rw [Turning.noticed, hacts, Bool.true_and, Bool.and_eq_true, bne_iff_ne]
  cases hn : T.noticed s r with
  | false =>
    obtain ⟨hchanges, hqueued, howed, hnotices⟩ := huntold (by
      by_contra hno
      rw [not_or] at hno
      rw [hnoticed.mpr ⟨by simpa using hno.1, hno.2⟩] at hn
      cases hn)
    simp [hchanges, hqueued, howed, hnotices, hnot]
  | true =>
    obtain ⟨hflag, hnode⟩ := hnoticed.mp hn
    obtain ⟨hchanges, hplace, hjoin, hwait⟩ := htold hflag hnode
    cases hq : (s.record r).queued with
    | true =>
      obtain ⟨hqueued, howed, hnotices⟩ := hplace hq
      refine ⟨by simpa using hchanges, by simp [hqueued], by simp [howed], ?_⟩
      rw [hnotices]
      simp [Notice.renewed]
    | false =>
      by_cases hroom : (s.record r).owed = false ∧ s.alarm.notices.length + (T.joining s xs).length < 16
      · obtain ⟨hqueued, howed, hnotices⟩ := hjoin hq hroom.1 hroom.2
        simp [hchanges, hqueued, howed, hnotices, hroom]
      · obtain ⟨hqueued, howed, hnotices⟩ := hwait hq (by
          rcases Bool.eq_false_or_eq_true (s.record r).owed with ho | ho
          · exact .inl ho
          · exact .inr (Nat.not_lt.mp fun hlt => hroom ⟨ho, hlt⟩))
        simp [hchanges, hqueued, howed, hnotices, hroom, hnot]

/-- One more rule of the list is moved. -/
theorem Turning.Done.snoc (h : T.Done s v xs) (hr : r ∉ xs) (hmoves : T.Moves v w r) : T.Done s w (xs ++ [r]) := by
  have hothers := hmoves.others
  have hrecord := h.others r hr
  have hjoined : (T.joining s xs).map v.noticeOf = (T.joining s xs).map w.noticeOf :=
    List.map_congr_left fun k hk => (State.noticeOf_congr (hothers k fun e =>
      hr (e ▸ Turning.joining_subset hk))).symm
  refine ⟨?_, fun k hk => ?_, fun k hk => ?_, ?_⟩
  · rw [hmoves.frame, h.frame]
  · rw [List.mem_append, List.mem_singleton, not_or] at hk
    rw [hothers k hk.2, h.others k hk.1]
  · by_cases hkr : k = r
    · subst hkr
      cases hacts : T.acts k with
      | false =>
        rw [(hmoves.silent hacts).1, Turning.record, hacts]
        rfl
      | true =>
        obtain ⟨hchanges, hqueued, howed, _⟩ := h.marks hr hmoves hacts
        obtain ⟨⟨hlast, hstamp, _⟩, hunmarked⟩ := hmoves.made hacts
        have hhouse : v.house.stamp = s.house.stamp := by rw [h.frame]
        refine (Record.eq_of_unmarked hunmarked).trans ?_
        rw [hchanges, hqueued, howed, hlast, hstamp, hhouse, Turning.record, hacts]
        rfl
    · rw [Turning.record_snoc hkr, hothers k hkr]
      exact h.records k ((List.mem_append.mp hk).resolve_right fun hin => hkr (List.mem_singleton.mp hin))
  · rw [Turning.joining_snoc, List.map_append]
    have hrenewed := fun n => Turning.renewed_snoc (T := T) (s := s) (n := n) hr hothers
    have hstays : ∀ k ∈ T.joining s xs, Notice.renewed r (w.noticeOf r) (v.noticeOf k) = v.noticeOf k := fun k hk => by
      refine if_neg ?_
      rw [State.isOf_noticeOf, beq_iff_eq]
      exact fun e => hr (e ▸ Turning.joining_subset hk)
    rw [funext hrenewed]
    cases hacts : T.acts r with
    | false =>
      have hnoticed : T.noticed s r = false := by rw [Turning.noticed, hacts]; rfl
      rw [(hmoves.silent hacts).2, h.notices, hnoticed, hjoined]
      simp
    | true =>
      obtain ⟨_, _, _, hnotices⟩ := h.marks hr hmoves hacts
      rw [hnotices, h.notices, ← hjoined, ← List.append_assoc]
      congr 1
      · split
        · rw [List.map_append, List.map_map, List.map_map]
          exact congrArg _ (List.map_congr_left hstays)
        · rfl
      · split <;> rfl

theorem Turning.Done.nil (T : Turning) (s : State) : T.Done s s [] where
  frame := rfl
  others _ _ := rfl
  records _ h := absurd h List.not_mem_nil
  notices := by
    have hstands : T.renewed s s [] = id := funext fun n => by
      cases n with
      | started a b c => rfl
      | rule k st acked last stamp changes =>
        have hnot : ¬ (k ∈ ([] : List (Fin 64)) ∧ T.noticed s k = true ∧ (s.record k).queued = true) :=
          fun hmem => List.not_mem_nil hmem.1
        exact if_neg (t := s.noticeOf k) hnot
    rw [hstands, List.map_id, Turning.joining, List.filter_nil, List.filter_nil, List.take_nil]
    exact (List.append_nil _).symm

/-- A list of rules moved in its order. -/
theorem Turning.done_foldl {step : State → Fin 64 → State}
    (hstep : ∀ (v : State) (xs : List (Fin 64)) (r : Fin 64), T.Done s v xs → r ∉ xs → T.Moves v (step v r) r)
    (h : xs.Nodup) : T.Done s (xs.foldl step s) xs := by
  induction xs using List.reverseRecOn with
  | nil => exact .nil T s
  | append_singleton xs r ih =>
    rw [List.foldl_append]
    have hsplit := List.nodup_append.mp h
    have hr : r ∉ xs := fun hr => hsplit.2.2 r hr r (List.mem_singleton_self r) rfl
    exact (ih hsplit.1).snoc hr (hstep _ xs r (ih hsplit.1) hr)

/-! ### Every rule at once -/

theorem Turning.mem_noticed : r ∈ (List.finRange 64).filter (T.noticed s) ↔ T.noticed s r = true := by
  rw [List.mem_filter, and_iff_right (List.mem_finRange r)]

theorem Turning.record_all (h : T.acts r = true) : T.record s (List.finRange 64) r = { T.turned r with
    last := some T.cause, lastStamp := s.house.stamp
    changes := if r ∈ (List.finRange 64).filter (T.noticed s) then min ((s.record r).changes + 1) 255
      else (s.record r).changes
    queued := (s.record r).queued || decide (r ∈ T.joining s (List.finRange 64))
    owed := if r ∈ (List.finRange 64).filter (T.noticed s) ∧ (s.record r).queued = false then
        decide (r ∉ T.joining s (List.finRange 64))
      else (s.record r).owed } := by
  rw [Turning.record, if_pos h]
  simp only [Turning.mem_noticed]

theorem Turning.renewed_all {st : RecordState} {acked : Bool} {last : Option Cause} {stamp : Stamp} {changes : Nat} :
    T.renewed s v (List.finRange 64) (.rule r st acked last stamp changes) =
      if r ∈ (List.finRange 64).filter (T.noticed s) ∧ (s.record r).queued = true then v.noticeOf r
      else .rule r st acked last stamp changes := by
  simp only [Turning.renewed, Turning.mem_noticed, List.mem_finRange, true_and]

end Turn

end Sys2Proof.Machine
end

section
/-! SUPPORT. ACKNOWLEDGE of one rule and of all rules, with their changes and notices (R137, R142 to R144). -/

namespace Sys2Proof.Machine

/-! ### One record acknowledged -/

/-- ACKNOWLEDGE changes the record: in ACK_WAIT, or unacknowledged in RAISED or RELEASING (R137). -/
def Record.acknowledges (x : Record) : Bool :=
  x.state == .ackWait || (!x.acked && (x.state == .raised || x.state == .releasing))

/-- The record acknowledged, before its change is noted (R137). -/
def Record.acknowledged (x : Record) : Record :=
  { x with
    state := if x.state = .ackWait then .clear else x.state
    due := if x.state = .ackWait then none else x.due
    acked := true }

section One
variable {s : State} {r : Fin 64}

theorem State.acknowledge_still (h : (s.record r).acknowledges = false) : s.acknowledge r = s := by
  unfold State.acknowledge
  dsimp only
  split
  · rfl
  · rfl
  · next hstate => rw [if_pos (by simpa [Record.acknowledges, hstate] using h)]
  · next hstate => rw [if_pos (by simpa [Record.acknowledges, hstate] using h)]
  · next hstate => simp [Record.acknowledges, hstate] at h

theorem State.acknowledge_moves (h : (s.record r).acknowledges = true) : s.acknowledge r =
    (s.setRecord r (s.record r).acknowledged).noticeChange r .acknowledged (s.rule r).notice := by
  have hother : (s.record r).state ≠ .ackWait →
      (s.record r).acknowledged = { s.record r with acked := true } := fun hstate => by
    rw [Record.acknowledged, if_neg hstate, if_neg hstate]
  unfold State.acknowledge
  dsimp only
  split
  · next hstate => simp [Record.acknowledges, hstate] at h
  · next hstate => simp [Record.acknowledges, hstate] at h
  · next hstate =>
    rw [if_neg (by simpa [Record.acknowledges, hstate] using h), hother (by rw [hstate]; exact RecordState.noConfusion)]
  · next hstate =>
    rw [if_neg (by simpa [Record.acknowledges, hstate] using h), hother (by rw [hstate]; exact RecordState.noConfusion)]
  · next hstate =>
    rw [Record.acknowledged, if_pos hstate, if_pos hstate]

theorem State.acknowledged_turned (s : State) (r : Fin 64) :
    s.Turned (s.setRecord r (s.record r).acknowledged) r := .setRecord rfl rfl rfl

theorem OnlyRecordMoves.followThrough (s : State) (r : Fin 64) : OnlyRecordMoves s s.followThrough r := by
  have hhands := s.handsOn_followThrough
  refine ⟨?_, fun k _ => State.record_followThrough s k, ?_, fun p => ?_⟩
  · rw [hhands.rest]
  · rw [hhands.rest]
  · rw [hhands.program p]

theorem State.holds_followThrough (s : State) (p : Fin 16) : (s.followThrough.program p).holds = (s.program p).holds := by
  rw [s.handsOn_followThrough.program p]

/-- The order's own effect on one rule. -/
theorem State.acknowledge_one (s : State) (r : Fin 64) :
    let u := (s.acknowledge r).followThrough
    let x := s.record r
    let y := u.record r
    OnlyRecordMoves s u r ∧
    ((x.acknowledges = false → y = x ∧ u.alarm.notices = s.alarm.notices) ∧
      (x.acknowledges = true → y.unmarked = x.acknowledged.unmarked ∧
        NoticeMade s u r .acknowledged (s.rule r).notice)) ∧
    ∀ p, (u.program p).holds = (s.program p).holds := by
  dsimp only
  cases hmoves : (s.record r).acknowledges with
  | false =>
    rw [State.acknowledge_still hmoves]
    exact ⟨.followThrough s r, ⟨fun _ => ⟨State.record_followThrough s r, s.followThrough_notices⟩, nofun⟩,
      s.holds_followThrough⟩
  | true =>
    obtain ⟨honly, hmade, hunmarked, hholds⟩ := (s.acknowledged_turned r).told .acknowledged (s.rule r).notice
    rw [State.record_setRecord_self] at hunmarked
    rw [State.acknowledge_moves hmoves]
    exact ⟨honly, ⟨nofun, fun _ => ⟨hunmarked, hmade⟩⟩, hholds⟩

end One

theorem Record.acknowledges_still {x : Record} (h : x.state = .clear ∨ x.state = .qualifying ∨
    (x.acked = true ∧ (x.state = .raised ∨ x.state = .releasing))) : x.acknowledges = false := by
  rcases h with h | h | ⟨hacked, h | h⟩ <;> simp [Record.acknowledges, *]

theorem Record.acknowledges_open {x : Record} (hacked : x.acked = false)
    (h : x.state = .raised ∨ x.state = .releasing) : x.acknowledges = true ∧ x.state ≠ .ackWait := by
  rcases h with h | h <;> simp [Record.acknowledges, *]

theorem Record.acknowledges_waiting {x : Record} (h : x.state = .ackWait) : x.acknowledges = true := by
  simp [Record.acknowledges, h]

/-! ### All records acknowledged, in ascending index -/

/-- ACKNOWLEDGE of all, as moves of the records (R137). -/
def State.acksTurning (s : State) : Turning where
  cause := .acknowledged
  acts r := (s.record r).acknowledges
  turned r := if (s.record r).acknowledges then (s.record r).acknowledged else s.record r

section All
variable {s v : State} {r : Fin 64}

theorem State.acknowledge_others {k : Fin 64} (h : k ≠ r) : (v.acknowledge r).record k = v.record k := by
  cases hmoves : (v.record r).acknowledges with
  | false => rw [State.acknowledge_still hmoves]
  | true => rw [State.acknowledge_moves hmoves, State.record_noticeChange_ne h, State.record_setRecord_ne _ _ h]

theorem State.acknowledge_frame : v.acknowledge r = { v with alarm := { v.alarm with
    records := (v.acknowledge r).alarm.records, notices := (v.acknowledge r).alarm.notices } } := by
  cases hmoves : (v.record r).acknowledges with
  | false => rw [State.acknowledge_still hmoves]
  | true =>
    rw [State.acknowledge_moves hmoves]
    have hframe := ((v.setRecord r (v.record r).acknowledged).noticeChange_noticed r .acknowledged
      (v.rule r).notice).frame
    generalize (v.setRecord r (v.record r).acknowledged).noticeChange r .acknowledged (v.rule r).notice = w at hframe ⊢
    rw [hframe]
    rfl

theorem State.acknowledge_turns (h : v.record r = s.record r) : s.acksTurning.Moves v (v.acknowledge r) r where
  frame := by
    rw [State.acknowledge_frame]
  others _ hk := State.acknowledge_others hk
  silent hstill := by
    have hstill : (s.record r).acknowledges = false := hstill
    rw [State.acknowledge_still (h.symm ▸ hstill), h]
    exact ⟨(if_neg (Bool.eq_false_iff.mp hstill)).symm, rfl⟩
  made hmoves := by
    have hmoves : (s.record r).acknowledges = true := hmoves
    have hturned : s.acksTurning.turned r = (v.record r).acknowledged := by
      rw [h]
      exact if_pos hmoves
    rw [hturned, State.acknowledge_moves (h.symm ▸ hmoves)]
    refine ⟨(State.noticeChange_made _ _ _ _).before (v.acknowledged_turned r).sameMarks, ?_⟩
    rw [(State.noticeChange_noticed _ _ _ _).records r, State.record_setRecord_self]

/-- With no rule owed while a place is free, the rules that join are those without a notice in the queue. -/
theorem Turning.joining_of_calm {T : Turning} {xs : List (Fin 64)}
    (hcalm : s.alarm.notices.length < 16 → ∀ r, (s.record r).owed = false) : T.joining s xs =
      ((xs.filter (T.noticed s)).filter fun r => !(s.record r).queued).take (16 - s.alarm.notices.length) := by
  unfold Turning.joining
  rcases Nat.lt_or_ge s.alarm.notices.length 16 with hroom | hfull
  · simp only [hcalm hroom, Bool.not_false, Bool.and_true]
  · rw [Nat.sub_eq_zero_of_le hfull, List.take_zero, List.take_zero]

end All

theorem State.orderAcknowledge_one {s : State} {o : Order} {r : Fin 64} (h : field o.args 0 1 = r.val) :
    s.orderAcknowledge o = (.done, (s.acknowledge r).followThrough) := by
  unfold State.orderAcknowledge
  dsimp only
  rw [h, if_neg (by omega), toFin?_of_eq rfl]

theorem State.orderAcknowledge_of_le {s : State} {o : Order} (h : 64 ≤ field o.args 0 1) (hall : field o.args 0 1 ≠ 255) :
    s.orderAcknowledge o = (.refusedIndex, s) := by
  unfold State.orderAcknowledge
  dsimp only
  rw [if_neg hall, toFin?_of_le h]

theorem State.orderAcknowledge_all {s : State} {o : Order} (h : field o.args 0 1 = 255) : s.orderAcknowledge o =
    (.done, ((List.finRange 64).foldl (fun v r => v.acknowledge r) s).followThrough) := if_pos h

/-- Settles O49: ACKNOWLEDGE of one rule and of all rules. -/
theorem acknowledgesReachRecords : Obligations.AcknowledgesReachRecords := by
  intro s o h hrow
  have hrun : exec .acknowledge s = .next (State.finish o (s.dropHead.orderAcknowledge o)) := by
    rw [exec_of_takes h hrow, State.carryOut, hrow]
  refine ⟨fun hi hall => ?_, fun r hr => ?_, fun hall => ?_⟩
  · rw [hrun, State.orderAcknowledge_of_le hi hall]
    rfl
  · obtain ⟨honly, ⟨hstill, hmoves⟩, hholds⟩ := s.dropHead.acknowledge_one r
    refine ⟨(s.dropHead.acknowledge r).followThrough, ?_, honly, ⟨fun hno => hstill (Record.acknowledges_still hno),
      fun hacked hopen => ?_, fun hwait => ?_⟩, hholds⟩
    · rw [hrun, State.orderAcknowledge_one hr]
      rfl
    · obtain ⟨hack, hstate⟩ := Record.acknowledges_open hacked hopen
      obtain ⟨hunmarked, hmade⟩ := hmoves hack
      exact ⟨(congrArg Record.state hunmarked).trans (if_neg hstate), (congrArg Record.acked hunmarked :),
        (congrArg Record.qual hunmarked :), (congrArg Record.stretch hunmarked :),
        (congrArg Record.release hunmarked :), (congrArg Record.due hunmarked).trans (if_neg hstate), hmade⟩
    · obtain ⟨hunmarked, hmade⟩ := hmoves (Record.acknowledges_waiting hwait)
      exact ⟨(congrArg Record.state hunmarked).trans (if_pos hwait),
        (congrArg Record.due hunmarked).trans (if_pos hwait), hmade⟩
  · have hacked := Turning.done_foldl (T := s.dropHead.acksTurning) (s := s.dropHead) (step := State.acknowledge)
      (fun v xs r hdone hr => State.acknowledge_turns (hdone.others r hr)) (List.nodup_finRange 64)
    have hjoining := Turning.joining_of_calm (T := s.dropHead.acksTurning) (s := s.dropHead) (xs := List.finRange 64)
      fun hroom r => State.owed_of_calm h.1 hroom
    have hprograms : ((List.finRange 64).foldl State.acknowledge s.dropHead).programs = s.dropHead.programs :=
      foldl_rel (R := fun a b : State => b.programs = a.programs) (fun _ => rfl) (fun hab hbc => hbc.trans hab)
        (fun v r => by rw [State.acknowledge_frame]) _ _
    generalize hv : (List.finRange 64).foldl State.acknowledge s.dropHead = v at hacked hprograms
    refine ⟨v.followThrough, ?_, ⟨fun r => ⟨fun hno => ?_, fun hyes => ?_⟩, ?_⟩, ?_, ?_, fun p => ?_⟩
    · rw [hrun, State.orderAcknowledge_all hall]
      exact congrArg (fun u : State => Host.Outcome.next (u.followThrough.answer o .done [])) hv
    · rw [State.record_followThrough, hacked.records r (List.mem_finRange r), Turning.record,
        if_neg (show ¬ s.dropHead.acksTurning.acts r = true from Bool.eq_false_iff.mp hno)]
      exact if_neg (Bool.eq_false_iff.mp hno)
    · have hturned : s.dropHead.acksTurning.turned r = (s.record r).acknowledged := if_pos hyes
      rw [State.record_followThrough, hacked.records r (List.mem_finRange r),
        Turning.record_all (T := s.dropHead.acksTurning) hyes, hjoining, hturned]
      rfl
    · have hrecord : ∀ r, v.followThrough.noticeOf r = v.noticeOf r := fun r =>
        State.noticeOf_congr (State.record_followThrough v r)
      rw [State.followThrough_notices, hacked.notices, hjoining]
      refine congrArg₂ (· ++ ·) (List.map_congr_left fun n _ => ?_) (List.map_congr_left fun r _ => (hrecord r).symm)
      cases n with
      | started a b c => rfl
      | rule k st acked last stamp changes =>
        dsimp only
        rw [hrecord k]
        exact Turning.renewed_all (T := s.dropHead.acksTurning) (s := s.dropHead)
    · rw [v.handsOn_followThrough.rest, hacked.frame]
    · rw [v.handsOn_followThrough.rest, hacked.frame]
      rfl
    · have hprogram : v.program p = s.program p := by
        rw [State.program, hprograms]
        rfl
      rw [v.handsOn_followThrough.program p, hprogram]

end Sys2Proof.Machine
end

section
/-! SUPPORT. RESYNC_FLUSH: the members' rings, the program and the discontinuities (R34, R48, R107, R121, R160). -/

namespace Sys2Proof.Machine

/-! ### Flushed rings (R34) -/

/-- A lane whose ring is flushed. -/
def Lane.flushed (x : Lane) : Lane := { x with taint := 0, horizon := none, lastSeq := none }

/-- The rings of a list of lanes are flushed, and nothing else has moved. -/
structure State.Flushed (s t : State) (ls : List (Fin 32)) : Prop where
  frame : t = { s with lanes := t.lanes, mem := t.mem }
  lanes : ∀ l, t.lane l = if l ∈ ls then (s.lane l).flushed else s.lane l
  words : ∀ i, t.mem.find i = if ∃ l ∈ ls, (s.laneEntry l).inRegion i = true then none else s.mem.find i

theorem State.lane_flushLane_self (s : State) (l : Fin 32) : (s.flushLane l).lane l = (s.lane l).flushed := by
  exact s.lane_setLane_self l _

theorem State.lane_flushLane_ne (s : State) {l k : Fin 32} (h : k ≠ l) : (s.flushLane l).lane k = s.lane k := by
  exact s.lane_setLane_ne _ h

theorem State.flushed_foldl (ls : List (Fin 32)) (s : State) : s.Flushed (ls.foldl (fun s l => s.flushLane l) s) ls := by
  induction ls generalizing s with
  | nil => exact ⟨rfl, fun l => (if_neg List.not_mem_nil).symm, fun i => by simp⟩
  | cons l ls ih =>
    have hrest := ih (s.flushLane l)
    rw [List.foldl_cons]
    refine ⟨?_, fun k => ?_, fun i => ?_⟩
    · rw [hrest.frame]
      rfl
    · rw [hrest.lanes k]
      by_cases hk : k = l
      · subst hk
        rw [State.lane_flushLane_self, if_pos List.mem_cons_self]
        split <;> rfl
      · rw [State.lane_flushLane_ne _ hk]
        simp only [List.mem_cons, hk, false_or]
    · rw [hrest.words i]
      have hmem : (s.flushLane l).mem.find i = if (s.laneEntry l).inRegion i then none else s.mem.find i :=
        DelayMem.find_clear _ _ _
      simp only [State.laneEntry_flushLane, hmem, List.exists_mem_cons_iff]
      by_cases hl : (s.laneEntry l).inRegion i = true
      · simp [hl]
      · simp [hl]

theorem State.flushed_flushMembers (s : State) (p : Fin 16) : s.Flushed (s.flushMembers p) (s.entry p).members :=
  State.flushed_foldl _ s

section Frame
variable {s t : State} {ls : List (Fin 32)} (h : s.Flushed t ls)
include h

theorem State.Flushed.program (p : Fin 16) : t.program p = s.program p := (congrArg (fun u : State => u.program p) h.frame).trans rfl
theorem State.Flushed.tables : t.tables = s.tables := (congrArg State.tables h.frame).trans rfl
theorem State.Flushed.egress : t.egress = s.egress := (congrArg State.egress h.frame).trans rfl

end Frame

/-! ### Discontinuities (R160) -/

/-- Feeding rests on the map, the crossfades and the latches. -/
theorem State.feeds_congr {s t : State} {p : Fin 16} (hegress : t.egress = s.egress)
    (hlatch : ∀ q, (t.program q).change.latch = (s.program q).change.latch) (e : Fin 32) : t.feeds p e = s.feeds p e := by
  simp only [State.feeds, State.mapEntry, State.egressLane, hegress, hlatch]
  rfl

theorem State.egressLane_markDiscontinuity (s : State) (p : Fin 16) (e : Fin 32) :
    (s.markDiscontinuity p).egressLane e =
      { s.egressLane e with owed := (s.egressLane e).owed || s.feeds p e } := by
  rw [State.markDiscontinuity, State.egressLane_mapEgressLanes]
  cases s.feeds p e with
  | true => simp
  | false => simp

/-- Only what the egress lanes owe has moved. -/
theorem State.markDiscontinuity_frame (s : State) (p : Fin 16) : s.markDiscontinuity p = { s with
    egress := { s.egress with lanes := (s.markDiscontinuity p).egress.lanes } } := by
  unfold State.markDiscontinuity State.mapEgressLanes
  generalize Vector.ofFn (fun e => if s.feeds p e then { s.egressLane e with owed := true } else s.egressLane e) = v
  rfl

/-! ### RESYNC_FLUSH -/

/-- A program as the flush leaves it, PRIMING (R48, R107, R121). -/
def Program.flushed (x : Program) : Program :=
  { x with
    play := { x.play with state := .priming, warmUpSet := 20, elapsed := false }
    conv := { x.conv with pos := none, glide := 0, hold := false, fixed := none }
    meter := x.meter.resync
    gain := x.gain.resync }

/-- The part with the members' rings flushed and the program PRIMING. -/
def State.programFlushed (s : State) (p : Fin 16) : State :=
  (s.flushMembers p).setProgram p ((s.flushMembers p).program p).flushed

theorem State.resyncFlush_eq (s : State) (p : Fin 16) :
    s.resyncFlush p = ((s.programFlushed p).markDiscontinuity p).followThrough := rfl

section Flush
variable (s : State) (p : Fin 16)

theorem State.programFlushed_frame : s.programFlushed p = { s with
    lanes := (s.flushMembers p).lanes, mem := (s.flushMembers p).mem, programs := (s.programFlushed p).programs } := by
  have hflush := (s.flushed_flushMembers p).frame
  unfold State.programFlushed
  generalize s.flushMembers p = u at hflush ⊢
  rw [hflush]
  rfl

theorem State.program_programFlushed_self : (s.programFlushed p).program p = (s.program p).flushed := by
  rw [State.programFlushed, State.program_setProgram_self, (s.flushed_flushMembers p).program]

theorem State.program_programFlushed_ne {q : Fin 16} (h : q ≠ p) : (s.programFlushed p).program q = s.program q := by
  rw [State.programFlushed, State.program_setProgram_ne _ _ h, (s.flushed_flushMembers p).program]

theorem State.feeds_programFlushed (e : Fin 32) : (s.programFlushed p).feeds p e = s.feeds p e := by
  refine State.feeds_congr (by rw [State.programFlushed_frame]) (fun q => ?_) e
  by_cases hq : q = p
  · subst hq
    rw [State.program_programFlushed_self]
    rfl
  · rw [State.program_programFlushed_ne _ _ hq]

/-- What the flush leaves of the part, from the members' rings on. -/
theorem State.resyncFlush_frame : s.resyncFlush p = { s with
    lanes := (s.flushMembers p).lanes, mem := (s.flushMembers p).mem, programs := (s.resyncFlush p).programs
    alarm := (s.resyncFlush p).alarm, egress := { s.egress with lanes := (s.resyncFlush p).egress.lanes } } := by
  have hmark := (s.programFlushed p).markDiscontinuity_frame p
  have hhands := ((s.programFlushed p).markDiscontinuity p).handsOn_followThrough.rest
  have hflushed := s.programFlushed_frame p
  rw [← State.resyncFlush_eq] at hhands
  generalize (s.programFlushed p).markDiscontinuity p = v at hmark hhands
  generalize s.programFlushed p = u at hmark hflushed
  rw [hhands, hmark, hflushed]

theorem State.resyncFlush_alarm : (s.resyncFlush p).alarm.records = s.alarm.records ∧
    (s.resyncFlush p).alarm.notices = s.alarm.notices := by
  have hmark := (s.programFlushed p).markDiscontinuity_frame p
  have hhands := ((s.programFlushed p).markDiscontinuity p).handsOn_followThrough.rest
  have hflushed := s.programFlushed_frame p
  rw [← State.resyncFlush_eq] at hhands
  rw [hhands, hmark, hflushed]
  exact ⟨rfl, rfl⟩

theorem State.program_resyncFlush (q : Fin 16) : (s.resyncFlush p).program q = { (s.programFlushed p).program q with
    play := { ((s.programFlushed p).program q).play with target := ((s.programFlushed p).program q).fadeTarget }
    change := ((s.resyncFlush p).program q).change } := by
  have hmark : ((s.programFlushed p).markDiscontinuity p).program q = (s.programFlushed p).program q :=
    State.program_markDiscontinuity _ p q
  rw [State.resyncFlush_eq]
  generalize (s.programFlushed p).markDiscontinuity p = v at hmark ⊢
  have hhands := v.handsOn_followThrough.program q
  rw [hmark] at hhands
  exact hhands

theorem State.egressLane_resyncFlush (e : Fin 32) : (s.resyncFlush p).egressLane e =
    { s.egressLane e with owed := (s.egressLane e).owed || s.feeds p e } := by
  have hmark := (s.programFlushed p).egressLane_markDiscontinuity p e
  have hegress : (s.programFlushed p).egressLane e = s.egressLane e := by
    rw [State.programFlushed_frame]
    rfl
  rw [hegress, s.feeds_programFlushed p] at hmark
  rw [← hmark, State.resyncFlush_eq]
  exact State.egressLane_followThrough _ e

end Flush

/-- Settles O32: the flush that ends RESYNCING. -/
theorem resyncFlushes : Obligations.ResyncFlushes := by
  intro s p hrunning hstate hfade
  have hdue : s.flushDue p = true := by
    rw [State.flushDue, hstate, hfade]
    rfl
  have hrun : exec (.resyncFlush p) s = .next (s.resyncFlush p) :=
    congrArg Host.Outcome.next (State.ownCommand_of_due hrunning hdue _)
  have hflush := s.flushed_flushMembers p
  have hframe := s.resyncFlush_frame p
  have hlane : ∀ l, (s.resyncFlush p).lane l = (s.flushMembers p).lane l := fun l => by
    rw [hframe]
    rfl
  have hmem : (s.resyncFlush p).mem = (s.flushMembers p).mem := by rw [hframe]
  have hself := s.program_resyncFlush p p
  rw [State.program_programFlushed_self] at hself
  refine ⟨s.resyncFlush p, hrun, fun l hl => ⟨?_, fun i hi => ?_⟩, fun l hl => ?_, fun i hi => ?_, ⟨?_, ?_, ?_, ?_, ?_, ?_⟩,
    fun e => ⟨?_, ?_, ?_, ?_⟩, ?_, ?_, ?_, ?_, (s.resyncFlush_alarm p).1, (s.resyncFlush_alarm p).2, ?_, fun q hq => ?_⟩
  · rw [hlane, hflush.lanes l, if_pos hl]
    rfl
  · rw [hmem, hflush.words i, if_pos ⟨l, hl, hi⟩]
  · rw [hlane, hflush.lanes l, if_neg hl]
  · rw [hmem, hflush.words i, if_neg]
    rintro ⟨l, hl, hin⟩
    rw [hi l hl] at hin
    cases hin
  · rw [hself]; rfl
  · rw [hself]; rfl
  · rw [hself]; rfl
  · rw [hself]; rfl
  · rw [hself]; rfl
  · rw [hself]; rfl
  · rw [State.egressLane_resyncFlush]
  · rw [State.egressLane_resyncFlush]
  · rw [State.egressLane_resyncFlush]
  · rw [State.egressLane_resyncFlush, Bool.or_eq_true]
  · rw [hframe]
  · rw [hframe]
  · rw [hframe]
  · rw [hframe]
  · rw [hframe]
  · rw [s.program_resyncFlush p q, State.program_programFlushed_ne _ _ hq]

end Sys2Proof.Machine
end

section
/-! SUPPORT. The end of PARKING (R49, R138, R142 to R144, R157). -/

namespace Sys2Proof.Machine

/-! ### One record returned to CLEAR -/

/-- A record returned to CLEAR, its actions out of the hold counts where it held them (R130, R138). -/
def State.recordCleared (s : State) (r : Fin 64) : State :=
  if (s.record r).state.holding = true then (s.setRecord r (s.record r).cleared).releaseActions (s.rule r)
  else s.setRecord r (s.record r).cleared

theorem State.recordCleared_turned (s : State) (r : Fin 64) : s.Turned (s.recordCleared r) r := by
  have hset : s.Turned (s.setRecord r (s.record r).cleared) r := .setRecord rfl rfl rfl
  unfold State.recordCleared
  split
  · exact hset.released _
  · exact hset

theorem State.record_recordCleared (s : State) (r : Fin 64) :
    (s.recordCleared r).record r = (s.record r).cleared := by
  unfold State.recordCleared
  split
  · exact (State.record_releaseActions _ _ r).trans (s.record_setRecord_self r _)
  · exact s.record_setRecord_self r _

theorem State.program_releaseActions_ne {s : State} {rl : Rule} {q : Fin 16} (h : rl.scope ≠ some q) :
    (s.releaseActions rl).program q = s.program q := by
  unfold State.releaseActions
  split
  next p hp => exact State.program_setProgram_ne _ _ fun e => h (e ▸ hp)
  next => rfl

theorem State.program_recordCleared_ne {s : State} {r : Fin 64} {q : Fin 16} (h : (s.rule r).scope ≠ some q) :
    (s.recordCleared r).program q = s.program q := by
  unfold State.recordCleared
  split
  · exact State.program_releaseActions_ne h
  · rfl

theorem State.program_noticeChange (s : State) (r : Fin 64) (cause : Cause) (flagged : Bool) (q : Fin 16) :
    (s.noticeChange r cause flagged).program q = s.program q :=
  (s.noticeChange_noticed r cause flagged).toNoticedCore.program q

section Park
variable {s v : State} {r : Fin 64}

theorem State.parkRecord_clear (h : (s.record r).state = .clear) : s.parkRecord r = s := by
  unfold State.parkRecord
  dsimp only
  rw [h]

theorem State.parkRecord_qualifying (h : (s.record r).state = .qualifying) :
    s.parkRecord r = s.setRecord r (s.record r).cleared := by
  unfold State.parkRecord
  dsimp only
  rw [h]

/-- A record that was RAISED, RELEASING or in ACK_WAIT makes its PARKED change. -/
theorem State.parkRecord_open (hclear : (s.record r).state ≠ .clear) (hqual : (s.record r).state ≠ .qualifying) :
    s.parkRecord r = (s.recordCleared r).noticeChange r .parked (s.rule r).notice := by
  unfold State.parkRecord State.recordCleared
  dsimp only
  cases h : (s.record r).state with
  | clear => exact absurd h hclear
  | qualifying => exact absurd h hqual
  | raised => rfl
  | releasing => rfl
  | ackWait => rfl

theorem State.parkRecord_others {k : Fin 64} (h : k ≠ r) : (v.parkRecord r).record k = v.record k := by
  by_cases hclear : (v.record r).state = .clear
  · rw [State.parkRecord_clear hclear]
  · by_cases hqual : (v.record r).state = .qualifying
    · rw [State.parkRecord_qualifying hqual, State.record_setRecord_ne _ _ h]
    · rw [State.parkRecord_open hclear hqual, State.record_noticeChange_ne h, v.recordCleared_turned r |>.others k h]

theorem State.parkRecord_frame : v.parkRecord r = { v with
    programs := (v.parkRecord r).programs
    alarm := { v.alarm with
      records := (v.parkRecord r).alarm.records, notices := (v.parkRecord r).alarm.notices } } := by
  by_cases hclear : (v.record r).state = .clear
  · rw [State.parkRecord_clear hclear]
  · by_cases hqual : (v.record r).state = .qualifying
    · rw [State.parkRecord_qualifying hqual]
      rfl
    · rw [State.parkRecord_open hclear hqual]
      have hturned := (v.recordCleared_turned r).frame
      have hnoticed := ((v.recordCleared r).noticeChange_noticed r .parked (v.rule r).notice).frame
      generalize (v.recordCleared r).noticeChange r .parked (v.rule r).notice = w at hnoticed ⊢
      rw [hnoticed, hturned]

theorem State.program_parkRecord_ne {q : Fin 16} (h : (v.rule r).scope ≠ some q) :
    (v.parkRecord r).program q = v.program q := by
  by_cases hclear : (v.record r).state = .clear
  · rw [State.parkRecord_clear hclear]
  · by_cases hqual : (v.record r).state = .qualifying
    · rw [State.parkRecord_qualifying hqual]
      rfl
    · rw [State.parkRecord_open hclear hqual, State.program_noticeChange, State.program_recordCleared_ne h]

theorem State.program_parkRecord (q : Fin 16) :
    (v.parkRecord r).program q = { v.program q with holds := ((v.parkRecord r).program q).holds } := by
  by_cases hclear : (v.record r).state = .clear
  · rw [State.parkRecord_clear hclear]
  · by_cases hqual : (v.record r).state = .qualifying
    · rw [State.parkRecord_qualifying hqual]
      rfl
    · rw [State.parkRecord_open hclear hqual, State.program_noticeChange]
      exact (v.recordCleared_turned r).programs q

end Park

/-! ### Every record of the program, in ascending index (R138) -/

/-- The end of PARKING, as moves of the records scoped to the program. -/
def State.parksTurning (s : State) (p : Fin 16) : Turning where
  cause := .parked
  acts r := (s.rule r).scope == some p && (s.record r).state != .clear && (s.record r).state != .qualifying
  turned r := if (s.rule r).scope = some p ∧ (s.record r).state ≠ .clear then (s.record r).cleared else s.record r

/-- One step of `State.parkRecords`. -/
def State.parkScoped (p : Fin 16) (v : State) (r : Fin 64) : State :=
  if (v.rule r).scope == some p then v.parkRecord r else v

section Scoped
variable {s v : State} {p : Fin 16} {r : Fin 64}

theorem State.parkScoped_of_scope (h : (v.rule r).scope = some p) : v.parkScoped p r = v.parkRecord r :=
  if_pos (beq_iff_eq.mpr h)

theorem State.parkScoped_of_ne (h : (v.rule r).scope ≠ some p) : v.parkScoped p r = v :=
  if_neg (mt beq_iff_eq.mp h)

theorem State.parkScoped_turns (hrecord : v.record r = s.record r) (hrule : v.rule r = s.rule r) :
    (s.parksTurning p).Moves v (v.parkScoped p r) r := by
  by_cases hscope : (v.rule r).scope = some p
  · rw [State.parkScoped_of_scope hscope]
    refine ⟨by rw [State.parkRecord_frame], fun k hk => State.parkRecord_others hk, fun hstill => ?_, fun hacts => ?_⟩
    · by_cases hclear : (v.record r).state = .clear
      · rw [State.parkRecord_clear hclear, hrecord]
        exact ⟨(if_neg fun h => h.2 (hrecord ▸ hclear)).symm, rfl⟩
      · have hqual : (v.record r).state = .qualifying := by
          rw [hrecord] at hclear ⊢
          simpa [State.parksTurning, ← hrule, hscope, hclear] using hstill
        rw [State.parkRecord_qualifying hqual, State.record_setRecord_self, hrecord]
        exact ⟨(if_pos ⟨hrule ▸ hscope, hrecord ▸ hclear⟩).symm, rfl⟩
    · obtain ⟨hclear, hqual⟩ : (v.record r).state ≠ .clear ∧ (v.record r).state ≠ .qualifying := by
        rw [hrecord]
        simpa [State.parksTurning, ← hrule, hscope] using hacts
      have hturned : (s.parksTurning p).turned r = (v.record r).cleared := by
        rw [hrecord]
        exact if_pos ⟨hrule ▸ hscope, hrecord ▸ hclear⟩
      rw [hturned, State.parkRecord_open hclear hqual]
      refine ⟨(State.noticeChange_made _ _ _ _).before (v.recordCleared_turned r).sameMarks, ?_⟩
      rw [(State.noticeChange_noticed _ _ _ _).records r, State.record_recordCleared]
  · rw [State.parkScoped_of_ne hscope]
    have hnone : (s.parksTurning p).acts r = false := by simp [State.parksTurning, ← hrule, hscope]
    refine ⟨rfl, fun _ _ => rfl, fun _ => ⟨?_, rfl⟩, fun h => absurd h (Bool.eq_false_iff.mp hnone)⟩
    rw [hrecord]
    exact (if_neg fun h => hscope (hrule ▸ h.1)).symm

/-- What the records' return to CLEAR leaves of the tables and the programs. -/
structure State.OnlyHoldsOf (s v : State) (p : Fin 16) : Prop where
  tables : v.tables = s.tables
  self : v.program p = { s.program p with holds := (v.program p).holds }
  others : ∀ q, q ≠ p → v.program q = s.program q

theorem State.OnlyHoldsOf.trans {w : State} (h : s.OnlyHoldsOf v p) (k : v.OnlyHoldsOf w p) : s.OnlyHoldsOf w p where
  tables := k.tables.trans h.tables
  self := by rw [k.self, h.self]
  others q hq := (k.others q hq).trans (h.others q hq)

theorem State.parkScoped_onlyHolds (v : State) (p : Fin 16) (r : Fin 64) : v.OnlyHoldsOf (v.parkScoped p r) p := by
  by_cases hscope : (v.rule r).scope = some p
  · rw [State.parkScoped_of_scope hscope]
    refine ⟨by rw [State.parkRecord_frame], State.program_parkRecord p, fun q hq => State.program_parkRecord_ne ?_⟩
    rw [hscope]
    exact fun e => hq (Option.some.inj e).symm
  · rw [State.parkScoped_of_ne hscope]
    exact ⟨rfl, rfl, fun _ _ => rfl⟩

theorem State.parkRecords_onlyHolds (s : State) (p : Fin 16) : s.OnlyHoldsOf (s.parkRecords p) p :=
  foldl_rel (R := fun a b : State => a.OnlyHoldsOf b p) (fun _ => ⟨rfl, rfl, fun _ _ => rfl⟩) (fun h k => h.trans k)
    (fun v r => v.parkScoped_onlyHolds p r) _ s

theorem State.parkRecords_done (s : State) (p : Fin 16) :
    (s.parksTurning p).Done s (s.parkRecords p) (List.finRange 64) :=
  Turning.done_foldl (step := State.parkScoped p)
    (fun v xs r hdone hr => State.parkScoped_turns (hdone.others r hr) (by rw [hdone.frame]; rfl))
    (List.nodup_finRange 64)

theorem State.record_parkRecords_of_scope (hscope : (s.rule r).scope = some p) :
    ((s.parkRecords p).record r).state = .clear := by
  rw [(s.parkRecords_done p).records r (List.mem_finRange r), Turning.record]
  have hturned : ((s.parksTurning p).turned r).state = .clear := by
    unfold State.parksTurning
    dsimp only
    split
    · rfl
    next h => exact not_not.mp fun hne => h ⟨hscope, hne⟩
  split
  · exact hturned
  · exact hturned

theorem Holds.eq_zero {h : Holds} (hcount : ∀ a, h.count a = 0) :
    h = { mute := 0, freeze := 0, holdDelay := 0, changeover := 0 } := by
  have hmute := hcount .mute
  have hfreeze := hcount .freeze
  have hdelay := hcount .holdDelay
  have hchange := hcount .changeover
  cases h
  simp only [Holds.count] at hmute hfreeze hdelay hchange
  rw [hmute, hfreeze, hdelay, hchange]

/-- With every record of the program CLEAR, nothing is held on it (R130). -/
theorem State.holds_parkRecords (hcounts : s.holdsOk) :
    ((s.parkRecords p).program p).holds = { mute := 0, freeze := 0, holdDelay := 0, changeover := 0 } := by
  refine Holds.eq_zero fun a => ?_
  rw [((s.parkRecords_moved p).holds hcounts).1 p a, List.length_eq_zero_iff, List.filter_eq_nil_iff]
  intro r _ hon
  unfold State.holdsOn at hon
  have hrule : (s.parkRecords p).rule r = s.rule r := by
    rw [State.rule, (s.parkRecords_onlyHolds p).tables, State.rule]
  rw [hrule] at hon
  simp only [Bool.and_eq_true, beq_iff_eq] at hon
  obtain ⟨⟨⟨_, hscope⟩, _⟩, hholding⟩ := hon
  rw [State.record_parkRecords_of_scope hscope] at hholding
  cases hholding

end Scoped

/-! ### A parked alternate is left (R157) -/

/-- A changeover whose latched alternate parks. -/
def State.dropped (s : State) (q : Fin 16) (c : Change) : Change :=
  { c with state := if s.wanted q then .wanted else .primary, revert := 0, revertDue := false }

section Drop
variable (s : State) (p q : Fin 16)

theorem State.program_dropAlternate : (s.dropAlternate p).program q = { s.program q with
    change := ((s.dropAlternate p).program q).change } := by
  unfold State.dropAlternate
  rw [State.program_mapPrograms]
  dsimp only
  split
  · rfl
  · rfl

theorem State.dropAlternate_frame : s.dropAlternate p = { s with programs := (s.dropAlternate p).programs } := rfl

theorem State.change_dropAlternate (hlatch : (s.program q).change.latch = some p)
    (hcrossed : (s.program q).change.state = .alternate ∨ (s.program q).change.state = .reverting) :
    ((s.dropAlternate p).program q).change = s.dropped q (s.program q).change := by
  have hcross : (s.program q).change.state.crossed = true := by
    rcases hcrossed with h | h <;> rw [h] <;> rfl
  unfold State.dropAlternate
  rw [State.program_mapPrograms]
  dsimp only
  rw [if_pos (Bool.and_eq_true_iff.mpr ⟨beq_iff_eq.mpr hlatch, hcross⟩)]
  rfl

theorem State.force_dropAlternate : ((s.dropAlternate p).program q).change.force = (s.program q).change.force := by
  unfold State.dropAlternate
  rw [State.program_mapPrograms]
  dsimp only
  split
  · rfl
  · rfl

theorem State.dropped_state (c : Change) : (s.dropped q c).state = .primary ∨ (s.dropped q c).state = .wanted := by
  unfold State.dropped
  dsimp only
  split
  · exact .inr rfl
  · exact .inl rfl

end Drop

/-- A program crossed over to one that has parked is in WANTED or PRIMARY, or on its own alternate once its latch
clears (R155, R157). -/
theorem State.settled_dropped {s : State} {p q : Fin 16} {c : Change} (hparked : s.healthy p = false)
    (hlatch : c.latch = some p) (hstate : c.state = .primary ∨ c.state = .wanted) :
    let fits (b : Fin 16) : Prop := (s.entry q).alternate = some b ∧ s.healthy b = true
    (s.wanted q = false → (s.settled q c).state = .primary ∧
      (s.settled q c).latch = if s.lanesHome q then none else some p) ∧
    (s.wanted q = true →
      (∀ b, s.lanesHome q = true → fits b → (s.settled q c).state = .alternate ∧ (s.settled q c).latch = some b) ∧
      (s.lanesHome q = false ∨ (∀ b, ¬ fits b) →
        (s.settled q c).state = .wanted ∧ (s.settled q c).latch = if s.lanesHome q then none else some p)) := by
  have hcand : ∀ a, c.latch.or (s.entry q).alternate = some a → s.healthy a = false := fun a ha => by
    rw [hlatch] at ha
    rw [← Option.some.inj ha]
    exact hparked
  have hkept : s.latchKept q c = if s.lanesHome q then none else some p := by rw [State.latchKept, hlatch]
  refine ⟨fun hunwanted => ?_, fun hwanted => ⟨fun b hhome hfits => ?_, fun hnone => ?_⟩⟩
  · rw [State.settled_home hunwanted hstate, ← hkept]
    exact ⟨rfl, rfl⟩
  · rw [State.settled_unlatched hwanted hstate hcand hhome hfits.1 hfits.2]
    exact ⟨rfl, rfl⟩
  · rw [State.settled_waits hwanted hstate hcand (hnone.imp_right fun h b hb =>
      Bool.eq_false_iff.mpr fun hhealthy => h b ⟨hb, hhealthy⟩), ← hkept]
    exact ⟨rfl, rfl⟩

/-! ### The whole step -/

/-- The part as the members and the program have parked, before the records (R49). -/
def State.membersParked (s : State) (p : Fin 16) : State :=
  (s.flushMembers p).moveMembers p (fun y => { y with status := .parked }) (s.program p).park

/-- Before changes are handed on. -/
def State.parkSettled (s : State) (p : Fin 16) : State := ((s.membersParked p).parkRecords p).dropAlternate p

section Whole
variable (s : State) (p : Fin 16)

theorem State.endParking_answered (hunit : s.orders.unit = .parkPending) : s.endParking p =
    { (s.parkSettled p).followThrough with orders := s.orders.settleOwing } := by
  have hflush := s.flushed_flushMembers p
  rw [State.endParking_eq, hflush.program p]
  have horders : (s.parkSettled p).followThrough.orders = s.orders := by
    rw [(s.parkSettled p).handsOn_followThrough.rest]
    dsimp only
    rw [State.parkSettled, State.dropAlternate_frame]
    dsimp only
    rw [(State.parkRecords_done _ p).frame]
    dsimp only
    rw [State.membersParked, State.moveMembers_frame]
    dsimp only
    rw [hflush.frame]
  have hshape : ((((s.flushMembers p).moveMembers p (fun y => { y with status := .parked }) (s.program p).park).parkRecords
      p).dropAlternate p).followThrough = (s.parkSettled p).followThrough := rfl
  rw [hshape]
  generalize (s.parkSettled p).followThrough = t at horders ⊢
  dsimp only
  rw [horders, if_pos hunit]

theorem State.membersParked_frame : s.membersParked p = { s with
    lanes := (s.membersParked p).lanes, mem := (s.flushMembers p).mem, programs := (s.membersParked p).programs } := by
  have hflush := (s.flushed_flushMembers p).frame
  have hframe := (s.flushMembers p).moveMembers_frame p (fun y => { y with status := .parked }) (s.program p).park
  unfold State.membersParked
  generalize (s.flushMembers p).moveMembers p (fun y => { y with status := .parked }) (s.program p).park = v at hframe ⊢
  rw [hframe, hflush]

theorem State.lane_membersParked (l : Fin 32) : (s.membersParked p).lane l =
    if l ∈ (s.entry p).members then { s.lane l with status := .parked, taint := 0, horizon := none, lastSeq := none }
    else s.lane l := by
  have hflush := s.flushed_flushMembers p
  have hentry : (s.flushMembers p).entry p = s.entry p := by rw [State.entry, hflush.tables, State.entry]
  rw [State.membersParked, State.lane_moveMembers, hentry, hflush.lanes l]
  split
  · rfl
  · rfl

theorem State.program_membersParked_self : (s.membersParked p).program p = (s.program p).park :=
  State.program_moveMembers_self _ _ _ _

theorem State.program_membersParked_ne {q : Fin 16} (h : q ≠ p) : (s.membersParked p).program q = s.program q :=
  (State.program_moveMembers_ne _ _ _ _ h).trans ((s.flushed_flushMembers p).program q)

/-- What the parking of the program leaves of the part. -/
theorem State.parkSettled_frame : s.parkSettled p = { s with
    lanes := (s.membersParked p).lanes, mem := (s.flushMembers p).mem, programs := (s.parkSettled p).programs
    alarm := { s.alarm with
      records := ((s.membersParked p).parkRecords p).alarm.records
      notices := ((s.membersParked p).parkRecords p).alarm.notices } } := by
  have hdrop := ((s.membersParked p).parkRecords p).dropAlternate_frame p
  have hrecords := (State.parkRecords_done (s.membersParked p) p).frame
  have hmembers := s.membersParked_frame p
  unfold State.parkSettled
  generalize ((s.membersParked p).parkRecords p).dropAlternate p = x at hdrop ⊢
  generalize (s.membersParked p).parkRecords p = w at hdrop hrecords ⊢
  generalize s.membersParked p = v at hrecords hmembers ⊢
  rw [hdrop, hrecords, hmembers]

theorem State.program_parkSettled_self : (s.parkSettled p).program p = { (s.program p).park with
    holds := (((s.membersParked p).parkRecords p).program p).holds
    change := ((s.parkSettled p).program p).change } := by
  unfold State.parkSettled
  rw [State.program_dropAlternate, (State.parkRecords_onlyHolds _ p).self, State.program_membersParked_self]

theorem State.program_parkSettled_ne {q : Fin 16} (h : q ≠ p) : (s.parkSettled p).program q = { s.program q with
    change := ((s.parkSettled p).program q).change } := by
  unfold State.parkSettled
  rw [State.program_dropAlternate, (State.parkRecords_onlyHolds _ p).others q h, State.program_membersParked_ne _ _ h]

/-- Nothing is held on the parked program (R138, R139). -/
theorem State.holds_membersParked (h : s.holdsOk) :
    (((s.membersParked p).parkRecords p).program p).holds = { mute := 0, freeze := 0, holdDelay := 0, changeover := 0 } := by
  have hflush := s.flushed_flushMembers p
  refine State.holds_parkRecords (State.holdsOk_moveMembers ?_ ((s.flushMembers_tranquil p).toOrderly.holdsOk h))
  rw [hflush.program p]
  exact (s.program p).park_kept.2.2

theorem State.wanted_parkSettled {q : Fin 16} (h : q ≠ p) : (s.parkSettled p).wanted q = s.wanted q := by
  have hforce : ((s.parkSettled p).program q).change.force = (s.program q).change.force := by
    unfold State.parkSettled
    rw [State.force_dropAlternate, (State.parkRecords_onlyHolds _ p).others q h, State.program_membersParked_ne _ _ h]
  simp only [State.wanted, hforce]
  rw [State.program_parkSettled_ne _ _ h]

theorem State.healthy_parkSettled {b : Fin 16} (h : b ≠ p) : (s.parkSettled p).healthy b = s.healthy b := by
  have htables : (s.parkSettled p).tables = s.tables := by rw [State.parkSettled_frame]
  have hentry : (s.parkSettled p).entry b = s.entry b := by rw [State.entry, htables, State.entry]
  rw [State.healthy, hentry, State.playState, State.program_parkSettled_ne _ _ h, State.healthy, State.playState]

theorem State.healthy_parkSettled_self : (s.parkSettled p).healthy p = false := by
  rw [State.healthy, State.playState, State.program_parkSettled_self, Bool.and_eq_false_iff, Bool.and_eq_false_iff]
  exact .inl (.inr rfl)

theorem State.lanesHome_parkSettled (q : Fin 16) : (s.parkSettled p).lanesHome q = s.lanesHome q := by
  have hegress : (s.parkSettled p).egress = s.egress := by rw [State.parkSettled_frame]
  simp only [State.lanesHome, State.mapEntry, State.egressLane, hegress]

theorem State.change_parkSettled {q : Fin 16} (h : q ≠ p) (hlatch : (s.program q).change.latch = some p)
    (hcrossed : (s.program q).change.state = .alternate ∨ (s.program q).change.state = .reverting) :
    ∃ u : State, ((s.parkSettled p).program q).change = u.dropped q (s.program q).change := by
  have hprogram : ((s.membersParked p).parkRecords p).program q = s.program q := by
    rw [(State.parkRecords_onlyHolds _ p).others q h, State.program_membersParked_ne _ _ h]
  refine ⟨(s.membersParked p).parkRecords p, ?_⟩
  unfold State.parkSettled
  rw [State.change_dropAlternate _ _ _ (by rw [hprogram]; exact hlatch) (by rw [hprogram]; exact hcrossed), hprogram]

end Whole

section Records
variable {s u : State} (hrule : ∀ r, u.rule r = s.rule r) (hrecord : ∀ r, u.record r = s.record r)

include hrule hrecord in
theorem State.parksTurning_congr (p : Fin 16) : u.parksTurning p = s.parksTurning p := by
  simp only [State.parksTurning, hrule, hrecord]

theorem Turning.noticed_congr (htables : u.tables = s.tables) (T : Turning) : T.noticed u = T.noticed s := by
  funext r
  simp only [Turning.noticed, State.rule, htables]

include hrecord in
theorem Turning.joining_congr (htables : u.tables = s.tables) (halarm : u.alarm = s.alarm) (T : Turning)
    (xs : List (Fin 64)) : T.joining u xs = T.joining s xs := by
  simp only [Turning.joining, Turning.noticed_congr htables T, hrecord, halarm]

include hrecord in
theorem Turning.record_congr (htables : u.tables = s.tables) (halarm : u.alarm = s.alarm) (hhouse : u.house = s.house)
    (T : Turning) (xs : List (Fin 64)) (r : Fin 64) : T.record u xs r = T.record s xs r := by
  simp only [Turning.record, Turning.noticed_congr htables T, Turning.joining_congr hrecord htables halarm T, hrecord, hhouse]

include hrecord in
theorem Turning.renewed_congr (htables : u.tables = s.tables) (T : Turning) (v : State) (xs : List (Fin 64)) (n : Notice) :
    T.renewed u v xs n = T.renewed s v xs n := by
  cases n with
  | started a b c => rfl
  | rule r st acked last stamp changes => simp only [Turning.renewed, Turning.noticed_congr htables T, hrecord]

end Records

/-- The records and notices behind the parked program, told from the part as it stood (R138, R142 to R144). -/
theorem State.parkedRecords (s : State) (p : Fin 16) :
    (∀ r, ((s.membersParked p).parkRecords p).record r = (s.parksTurning p).record s (List.finRange 64) r) ∧
    ((s.membersParked p).parkRecords p).alarm.notices =
      s.alarm.notices.map ((s.parksTurning p).renewed s ((s.membersParked p).parkRecords p) (List.finRange 64)) ++
        ((s.parksTurning p).joining s (List.finRange 64)).map ((s.membersParked p).parkRecords p).noticeOf := by
  have hmembers := s.membersParked_frame p
  have hdone := State.parkRecords_done (s.membersParked p) p
  generalize (s.membersParked p).parkRecords p = w at hdone ⊢
  generalize s.membersParked p = u at hmembers hdone
  have htables : u.tables = s.tables := by rw [hmembers]
  have halarm : u.alarm = s.alarm := by rw [hmembers]
  have hhouse : u.house = s.house := by rw [hmembers]
  have hrule : ∀ r, u.rule r = s.rule r := fun r => by rw [State.rule, htables, State.rule]
  have hrecord : ∀ r, u.record r = s.record r := fun r => by rw [State.record, halarm, State.record]
  rw [State.parksTurning_congr hrule hrecord] at hdone
  refine ⟨fun r => ?_, ?_⟩
  · rw [hdone.records r (List.mem_finRange r), Turning.record_congr hrecord htables halarm hhouse]
  · rw [hdone.notices, Turning.joining_congr hrecord htables halarm, halarm]
    exact congrArg (· ++ _) (List.map_congr_left fun n _ => Turning.renewed_congr hrecord htables _ _ _ n)

/-- What is handed on behind the parked program (R50, R157). -/
theorem State.program_endParked (s : State) (p q : Fin 16) : (s.parkSettled p).followThrough.program q =
    { (s.parkSettled p).program q with
      play := { ((s.parkSettled p).program q).play with target := ((s.parkSettled p).program q).fadeTarget }
      change := (s.parkSettled p).settled q ((s.parkSettled p).program q).change } := by
  rw [(s.parkSettled p).handsOn_followThrough.program q, State.change_followThrough]

theorem State.record_endParked (s : State) (p : Fin 16) (r : Fin 64) : (s.parkSettled p).followThrough.record r =
    ((s.membersParked p).parkRecords p).record r := by
  rw [State.record_followThrough]
  unfold State.parkSettled
  rw [State.record, State.dropAlternate_frame, State.record]

/-- Settles O33: the end of PARKING. -/
theorem parkingEnds : Obligations.ParkingEnds := by
  intro s p o hrunning hstate hfade hunit howing
  have hdue : s.parkingDue p = true := by
    rw [State.parkingDue, hstate, hfade]
    rfl
  have hrun : exec (.parkingEnd p) s = .next (s.endParking p) :=
    congrArg Host.Outcome.next (State.ownCommand_of_due hrunning hdue _)
  have hflush := s.flushed_flushMembers p
  have hframe := s.parkSettled_frame p
  have hself := s.program_parkSettled_self p
  have hlane := s.lane_membersParked p
  have hhands := (s.parkSettled p).handsOn_followThrough
  obtain ⟨hrecords, hqueue⟩ := s.parkedRecords p
  have hprogram := s.program_endParked p
  have hrecord := s.record_endParked p
  have hlanes : ∀ l, (s.parkSettled p).followThrough.lane l = (s.membersParked p).lane l := fun l => by
    rw [hhands.rest, hframe]
    rfl
  have hmem : (s.parkSettled p).followThrough.mem = (s.flushMembers p).mem := by rw [hhands.rest, hframe]
  have hnotices : (s.parkSettled p).followThrough.alarm.notices =
      ((s.membersParked p).parkRecords p).alarm.notices := by
    rw [hhands.rest, hframe]
  have hrest : (s.parkSettled p).followThrough.tables = s.tables ∧ (s.parkSettled p).followThrough.rx = s.rx ∧
      (s.parkSettled p).followThrough.house = s.house ∧ (s.parkSettled p).followThrough.egress = s.egress := by
    rw [hhands.rest, hframe]
    exact ⟨rfl, rfl, rfl, rfl⟩
  refine ⟨s.endParking p, hrun, ?_⟩
  rw [s.endParking_answered p hunit]
  generalize (s.parkSettled p).followThrough = t at hhands hprogram hrecord hlanes hmem hnotices hrest ⊢
  have hp : t.program p = _ := hprogram p
  rw [hself] at hp
  refine ⟨fun l hl => ⟨?_, fun i hi => ?_⟩, fun l hl => ?_, fun i hi => ?_, ⟨?_, ?_, ?_, ?_, ?_⟩, fun hcounts => ?_,
    fun r hr => ?_, ⟨fun r hr => ⟨fun hc => ?_, fun hc => ?_, fun hc hq => ?_⟩, ?_⟩, fun q hq hlatch hcrossed => ?_,
    ?_, hrest.1, hrest.2.1, hrest.2.2.1, hrest.2.2.2⟩
  · exact (hlanes l).trans ((hlane l).trans (if_pos hl))
  · show t.mem.find i = none
    rw [hmem, hflush.words i, if_pos ⟨l, hl, hi⟩]
  · exact (hlanes l).trans ((hlane l).trans (if_neg hl))
  · show t.mem.find i = _
    rw [hmem, hflush.words i, if_neg]
    rintro ⟨l, hl, hin⟩
    rw [hi l hl] at hin
    cases hin
  · exact (congrArg Program.play hp).trans rfl
  · exact (congrArg Program.conv hp).trans rfl
  · exact (congrArg Program.servo hp).trans rfl
  · exact (congrArg Program.meter hp).trans rfl
  · exact (congrArg Program.gain hp).trans rfl
  · have hheld : (t.program p).holds = (((s.membersParked p).parkRecords p).program p).holds :=
      by rw [hp]
    exact hheld.trans (s.holds_membersParked p hcounts)
  · rw [show ({ t with orders := s.orders.settleOwing } : State).record r = t.record r from rfl, hrecord, hrecords,
      Turning.record, if_neg (by simp [State.parksTurning, hr])]
    exact if_neg fun h => hr h.1
  · rw [show ({ t with orders := s.orders.settleOwing } : State).record r = t.record r from rfl, hrecord, hrecords,
      Turning.record, if_neg (by simp [State.parksTurning, hc])]
    exact if_neg fun h => h.2 hc
  · rw [show ({ t with orders := s.orders.settleOwing } : State).record r = t.record r from rfl, hrecord, hrecords,
      Turning.record, if_neg (by simp [State.parksTurning, hc])]
    exact if_pos ⟨hr, by rw [hc]; exact RecordState.noConfusion⟩
  · rw [show ({ t with orders := s.orders.settleOwing } : State).record r = t.record r from rfl, hrecord, hrecords,
      Turning.record_all (T := s.parksTurning p) (by simp [State.parksTurning, hr, hc, hq]),
      show (s.parksTurning p).turned r = (s.record r).cleared from if_pos ⟨hr, hc⟩]
    rfl
  · have hnotice : ∀ r, ({ t with orders := s.orders.settleOwing } : State).noticeOf r =
        ((s.membersParked p).parkRecords p).noticeOf r := fun r => State.noticeOf_congr (hrecord r)
    refine (hnotices.trans hqueue).trans ?_
    refine congrArg₂ (· ++ ·) (List.map_congr_left fun n _ => ?_) (List.map_congr_left fun r _ => (hnotice r).symm)
    cases n with
    | started a b c => rfl
    | rule k st acked last stamp changes =>
      dsimp only
      rw [hnotice k]
      exact Turning.renewed_all (T := s.parksTurning p) (s := s)
  · obtain ⟨u, hdropped⟩ := s.change_parkSettled p hq hlatch hcrossed
    have hchange : (t.program q).change = (s.parkSettled p).settled q (u.dropped q (s.program q).change) := by
      rw [hprogram q, ← hdropped]
    have hentry : (s.parkSettled p).entry q = s.entry q := by rw [State.entry, hframe, State.entry]
    have hfits : ∀ b, ((s.entry q).alternate = some b ∧ (s.parkSettled p).healthy b = true) ↔
        ((s.entry q).alternate = some b ∧ b ≠ p ∧ s.healthy b = true) := fun b => by
      refine and_congr_right fun _ => ?_
      by_cases hb : b = p
      · rw [hb, s.healthy_parkSettled_self p]
        exact iff_of_false Bool.false_ne_true fun h => h.1 rfl
      · rw [s.healthy_parkSettled p hb]
        exact ⟨fun h => ⟨hb, h⟩, And.right⟩
    have hsettled := State.settled_dropped (s := s.parkSettled p) (p := p) (q := q)
      (c := u.dropped q (s.program q).change) (s.healthy_parkSettled_self p) hlatch (u.dropped_state q _)
    simp only [hentry, hfits, s.wanted_parkSettled p hq, s.lanesHome_parkSettled p, ← hchange] at hsettled
    exact hsettled
  · rw [Orders.settleOwing, howing]

end Sys2Proof.Machine
end

section
/-! SUPPORT. WRITE of a program entry: the checks of R39, the entry stored, and what it puts in force (R73 to R75). -/

namespace Sys2Proof.Machine

/-! ### The checks of a written program (R39) -/

theorem DelayMode.ofCode_cases (n : Nat) : (1 < n ∧ DelayMode.ofCode n = none) ∨
    (n ≤ 1 ∧ ∃ x, DelayMode.ofCode n = some x ∧ x.code = n) := by
  rcases Nat.lt_or_ge 1 n with h | h
  · obtain ⟨k, rfl⟩ := Nat.exists_eq_add_of_le' h
    exact .inl ⟨h, rfl⟩
  · refine .inr ⟨h, ?_⟩
    interval_cases n <;> exact ⟨_, rfl, rfl⟩

theorem GlideRate.ofCode_cases (n : Nat) : (2 < n ∧ GlideRate.ofCode n = none) ∨
    (n ≤ 2 ∧ ∃ x, GlideRate.ofCode n = some x ∧ x.code = n) := by
  rcases Nat.lt_or_ge 2 n with h | h
  · obtain ⟨k, rfl⟩ := Nat.exists_eq_add_of_le' h
    exact .inl ⟨h, rfl⟩
  · refine .inr ⟨h, ?_⟩
    interval_cases n <;> exact ⟨_, rfl, rfl⟩

/-- An index is one of a table's, or past its end. -/
theorem toFin?_cases (k n : Nat) : (k ≤ n ∧ toFin? k n = none) ∨ (n < k ∧ ∃ i, toFin? k n = some i ∧ i.val = n) := by
  rcases Nat.lt_or_ge n k with h | h
  · exact .inr ⟨h, ⟨n, h⟩, toFin?_of_eq rfl, rfl⟩
  · exact .inl ⟨h, toFin?_of_le h⟩

/-- The written positions that a program takes. -/
structure ProgramWrite.Named (w : ProgramWrite) (n : ProgramNames) : Prop where
  names : w.names = some n
  profile : n.profile.val = w.profile
  bank : n.bank.val = w.bank
  delayMode : n.delayMode.code = w.delayMode
  bandSet : n.bandSet.val = w.bandSet
  glideRate : n.glideRate.code = w.glideRate
  revertMode : n.revertMode.code = w.revertMode

/-- Every position is in range. -/
def ProgramWrite.placed (w : ProgramWrite) : Prop :=
  w.profile ≤ 7 ∧ w.bank ≤ 3 ∧ w.bandSet ≤ 3 ∧ w.delayMode ≤ 1 ∧ w.glideRate ≤ 2 ∧ w.revertMode ≤ 1

theorem ProgramWrite.names_cases (w : ProgramWrite) :
    (¬ w.placed ∧ w.names = none) ∨ (w.placed ∧ ∃ n, w.Named n) := by
  unfold ProgramWrite.placed
  rcases toFin?_cases 8 w.profile with ⟨hbad, hprofile⟩ | ⟨hp, profile, hprofile, hprofileVal⟩
  · exact .inl ⟨by omega, by simp [ProgramWrite.names, hprofile]⟩
  rcases toFin?_cases 4 w.bank with ⟨hbad, hbank⟩ | ⟨hb, bank, hbank, hbankVal⟩
  · exact .inl ⟨by omega, by simp [ProgramWrite.names, hprofile, hbank]⟩
  rcases DelayMode.ofCode_cases w.delayMode with ⟨hbad, hmode⟩ | ⟨hm, mode, hmode, hmodeCode⟩
  · exact .inl ⟨by omega, by simp [ProgramWrite.names, hprofile, hbank, hmode]⟩
  rcases toFin?_cases 4 w.bandSet with ⟨hbad, hband⟩ | ⟨hs, band, hband, hbandVal⟩
  · exact .inl ⟨by omega, by simp [ProgramWrite.names, hprofile, hbank, hmode, hband]⟩
  rcases GlideRate.ofCode_cases w.glideRate with ⟨hbad, hglide⟩ | ⟨hg, glide, hglide, hglideCode⟩
  · exact .inl ⟨by omega, by simp [ProgramWrite.names, hprofile, hbank, hmode, hband, hglide]⟩
  rcases AutoManual.ofCode_cases w.revertMode with ⟨hbad, hrevert⟩ | ⟨hr, revert, hrevert, hrevertCode⟩
  · exact .inl ⟨by omega, by simp [ProgramWrite.names, hprofile, hbank, hmode, hband, hglide, hrevert]⟩
  · exact .inr ⟨⟨by omega, by omega, by omega, hm, hg, hr⟩, ⟨profile, bank, mode, band, glide, revert⟩, by
      simp [ProgramWrite.names, hprofile, hbank, hmode, hband, hglide, hrevert], hprofileVal, hbankVal, hmodeCode,
      hbandVal, hglideCode, hrevertCode⟩

/-- The fields that are not live are as stored. -/
def ProgramWrite.fixed (w : ProgramWrite) (old : ProgramEntry) : Prop :=
  w.defined = old.defined ∧ w.count = old.members.length ∧ w.members = old.members.map Fin.val ∧
    w.weights = old.weights ∧ w.bank = old.bank.val ∧ w.houseLocked = old.houseLocked ∧ w.picture = old.picture ∧
    w.cushion = old.cushion ∧ w.warmUp = old.warmUp ∧ w.autoStart = old.autoStart

theorem ProgramWrite.keepsFixed_iff (w : ProgramWrite) (old : ProgramEntry) : w.keepsFixed old = true ↔ w.fixed old := by
  simp only [ProgramWrite.keepsFixed, ProgramWrite.fixed, Bool.and_eq_true, beq_iff_eq, and_assoc]

/-- The structure R39 asks for beside the positions. -/
def ProgramWrite.shaped (w : ProgramWrite) (p : Fin 16) : Prop :=
  (w.defined = true → 1 ≤ w.count) ∧ w.count ≤ 8 ∧ (∀ m ∈ w.members, m ≤ 31) ∧ w.members.Nodup ∧
    (∀ n tag, w.picture = some (n, tag) → 1 ≤ n.toNat ∧ n.toNat ≤ 63) ∧
    ∀ a, w.alternate = some a → a ≤ 15 ∧ a ≠ p.val

theorem ProgramWrite.inRange_iff (w : ProgramWrite) (p : Fin 16) : w.inRange p = true ↔ w.shaped p := by
  have hdefined : (!w.defined || decide (1 ≤ w.count)) = true ↔ (w.defined = true → 1 ≤ w.count) := by
    cases w.defined <;> simp
  have hmembers : w.members.all (fun m => decide (m < 32)) = true ↔ ∀ m ∈ w.members, m ≤ 31 := by
    simp only [List.all_eq_true, decide_eq_true_iff]
    exact forall₂_congr fun m _ => by omega
  unfold ProgramWrite.inRange ProgramWrite.shaped
  rw [Bool.and_eq_true, Bool.and_eq_true, Bool.and_eq_true, Bool.and_eq_true, Bool.and_eq_true, hdefined, hmembers,
    decide_eq_true_iff, decide_eq_true_iff]
  constructor
  · rintro ⟨⟨⟨⟨⟨hcount, hdef⟩, hmem⟩, hnodup⟩, hpicture⟩, halternate⟩
    refine ⟨hdef, hcount, hmem, hnodup, fun n tag hn => ?_, fun a ha => ?_⟩
    · rw [hn] at hpicture
      simpa [nodeInRange] using hpicture
    · rw [ha] at halternate
      simp only [Bool.and_eq_true, decide_eq_true_iff, bne_iff_ne] at halternate
      exact ⟨Nat.le_of_lt_succ halternate.1, halternate.2⟩
  · rintro ⟨hdef, hcount, hmem, hnodup, hpicture, halternate⟩
    refine ⟨⟨⟨⟨⟨hcount, hdef⟩, hmem⟩, hnodup⟩, ?_⟩, ?_⟩
    · split
      next n tag hn => simpa [nodeInRange] using hpicture n tag hn
      next => rfl
    · split
      next a ha =>
        obtain ⟨hle, hne⟩ := halternate a ha
        rw [Bool.and_eq_true, decide_eq_true_iff, bne_iff_ne]
        exact ⟨Nat.lt_succ_of_le hle, hne⟩
      next => rfl

theorem State.membersTaken_iff (s : State) (p : Fin 16) (w : ProgramWrite) (n : ProgramNames) :
    ((w.entry n).defined && s.membersTaken p (w.entry n).members) = true ↔
      w.defined = true ∧ ∃ q l, q ≠ p ∧ (s.entry q).defined = true ∧ l ∈ (s.entry q).members ∧ l.val ∈ w.members := by
  have hmember : ∀ l : Fin 32, l ∈ w.members.filterMap (toFin? 32) ↔ l.val ∈ w.members := fun l => by
    rw [List.mem_filterMap]
    refine ⟨fun ⟨m, hm, hl⟩ => ?_, fun hl => ⟨l.val, hl, toFin?_of_eq rfl⟩⟩
    unfold toFin? at hl
    split at hl
    · rw [← Option.some.inj hl]
      exact hm
    · cases hl
  rw [Bool.and_eq_true, show (w.entry n).defined = w.defined from rfl]
  refine and_congr_right fun hdefined => ?_
  have hmembers : (w.entry n).members = w.members.filterMap (toFin? 32) := if_pos hdefined
  rw [hmembers, State.membersTaken]
  simp only [List.any_eq_true, List.mem_finRange, true_and, Bool.and_eq_true, bne_iff_ne, hmember,
    List.contains_iff_mem]
  exact ⟨fun ⟨q, ⟨hq, hdef⟩, l, hl, hin⟩ => ⟨q, l, hq, hdef, hin, hl⟩,
    fun ⟨q, l, hq, hdef, hin, hl⟩ => ⟨q, ⟨hq, hdef⟩, l, hl, hin⟩⟩

/-! ### WRITE of a program entry -/

section Write
variable {s : State} {o : Order} {p : Fin 16}

theorem State.writeProgram_of_le (h : 16 ≤ o.index) : s.writeProgram o = (.refusedIndex, s) := by
  rw [State.writeProgram, toFin?_of_le h]

theorem State.writeProgram_fixed (h : o.index = p.val) (hactive : s.active p = true)
    (hmoved : ¬ (programWrite o.args).fixed (s.entry p)) : s.writeProgram o = (.refusedState, s) := by
  rw [State.writeProgram, toFin?_of_eq h]
  refine if_pos ?_
  rw [hactive, Bool.true_and, Bool.not_eq_true']
  exact Bool.eq_false_iff.mpr (mt (ProgramWrite.keepsFixed_iff _ _).mp hmoved)

section Open
variable (h : o.index = p.val) (hopen : s.active p = false ∨ (programWrite o.args).fixed (s.entry p))
include hopen

theorem State.not_closed : ¬ (s.active p && !(programWrite o.args).keepsFixed (s.entry p)) = true := by
  rw [Bool.and_eq_true, Bool.not_eq_true', ← Bool.not_eq_true, ProgramWrite.keepsFixed_iff]
  rintro ⟨hactive, hmoved⟩
  rcases hopen with hidle | hfixed
  · rw [hactive] at hidle
    cases hidle
  · exact hmoved hfixed

include h in
theorem State.writeProgram_unsound (hbad : ¬ ((programWrite o.args).shaped p ∧ (programWrite o.args).placed)) :
    s.writeProgram o = (.refusedValue, s) := by
  rw [State.writeProgram, toFin?_of_eq h]
  refine (if_neg (State.not_closed hopen)).trans ?_
  by_cases hshaped : (programWrite o.args).shaped p
  · rw [if_neg (by rw [(ProgramWrite.inRange_iff _ p).mpr hshaped]; exact Bool.noConfusion)]
    rcases (programWrite o.args).names_cases with ⟨_, hnone⟩ | ⟨hplaced, _⟩
    · rw [hnone]
    · exact absurd ⟨hshaped, hplaced⟩ hbad
  · rw [if_pos (by rw [Bool.eq_false_iff.mpr (mt (ProgramWrite.inRange_iff _ p).mp hshaped)]; rfl)]

include h in
theorem State.writeProgram_at (hshaped : (programWrite o.args).shaped p) {n : ProgramNames}
    (hn : (programWrite o.args).Named n) : s.writeProgram o =
      if ((programWrite o.args).entry n).defined && s.membersTaken p ((programWrite o.args).entry n).members then
        (.refusedConflict, s)
      else (doneOr ((programWrite o.args).clamped ((programWrite o.args).entry n)),
        s.storeEntry p ((programWrite o.args).entry n)) := by
  rw [State.writeProgram, toFin?_of_eq h]
  refine (if_neg (State.not_closed hopen)).trans ?_
  rw [if_neg (by rw [(ProgramWrite.inRange_iff _ p).mpr hshaped]; exact Bool.noConfusion), hn.names]

end Open
end Write

/-! ### The stored entry (R38, R39) -/

theorem clampJump_eq (j : Nat) : clampJump j = if j = 0 then 0 else max 256 (min j 480000) := by
  unfold clampJump
  rw [clampNat_eq (by decide)]

/-- The stored entry as R39 says it. -/
structure ProgramWrite.Stores (w : ProgramWrite) (e : ProgramEntry) : Prop where
  defined : e.defined = w.defined
  members : e.members.map Fin.val = if w.defined then w.members else []
  weights : e.weights = w.weights.map (fun x => min x 2000)
  profile : e.profile.val = w.profile
  bank : e.bank.val = w.bank
  houseLocked : e.houseLocked = w.houseLocked
  delayMode : e.delayMode.code = w.delayMode
  manualDelay : e.manualDelay = min w.manualDelay 480000
  picture : e.picture = w.picture
  pictureOffset : e.pictureOffset = max (-48000) (min w.pictureOffset 48000)
  deadband : e.deadband = min w.deadband 4800
  pictureTimeout : e.pictureTimeout = max 100 (min w.pictureTimeout 10000)
  cushion : e.cushion = max 24 (min w.cushion 480)
  bandSet : e.bandSet.val = w.bandSet
  glideRate : e.glideRate.code = w.glideRate
  jumpThreshold : e.jumpThreshold = if w.jumpThreshold = 0 then 0 else max 256 (min w.jumpThreshold 480000)
  warmUp : e.warmUp = min w.warmUp 2000
  alternate : e.alternate.map Fin.val = w.alternate
  revertMode : e.revertMode.code = w.revertMode
  revertTime : e.revertTime = max 100 (min w.revertTime 60000)
  meterInterval : e.meterInterval = min w.meterInterval 100
  autoStart : e.autoStart = w.autoStart

theorem map_val_filterMap {k : Nat} {xs : List Nat} (h : ∀ m ∈ xs, m < k) :
    (xs.filterMap (toFin? k)).map Fin.val = xs := by
  induction xs with
  | nil => rfl
  | cons m xs ih =>
    have hm : toFin? k m = some ⟨m, h m List.mem_cons_self⟩ := toFin?_of_eq rfl
    rw [List.filterMap_cons_some hm, List.map_cons, ih fun x hx => h x (List.mem_cons_of_mem m hx)]

theorem ProgramWrite.Named.stores {w : ProgramWrite} {n : ProgramNames} {p : Fin 16} (h : w.Named n)
    (hshaped : w.shaped p) : w.Stores (w.entry n) := by
  obtain ⟨_, _, hmembers, _, _, halternate⟩ := hshaped
  refine ⟨rfl, ?_, rfl, h.profile, h.bank, rfl, h.delayMode, rfl, rfl, clampInt_eq (by decide) _, rfl,
    clampNat_eq (by decide) _, clampNat_eq (by decide) _, h.bandSet, h.glideRate, clampJump_eq _, rfl, ?_, h.revertMode,
    clampNat_eq (by decide) _, rfl, rfl⟩
  · unfold ProgramWrite.entry
    dsimp only
    split
    · exact map_val_filterMap fun m hm => Nat.lt_succ_of_le (hmembers m hm)
    · rfl
  · unfold ProgramWrite.entry
    dsimp only
    cases ha : w.alternate with
    | none => rfl
    | some a =>
      have hlt : a < 16 := Nat.lt_succ_of_le (halternate a ha).1
      rw [Option.bind_some, toFin?_of_eq (i := ⟨a, hlt⟩) rfl]
      rfl

theorem ProgramWrite.clamped_iff (w : ProgramWrite) (e : ProgramEntry) : doneOr (w.clamped e) = .done ↔
    e.weights = w.weights ∧ e.manualDelay = w.manualDelay ∧ e.pictureOffset = w.pictureOffset ∧
      e.deadband = w.deadband ∧ e.pictureTimeout = w.pictureTimeout ∧ e.cushion = w.cushion ∧
      e.jumpThreshold = w.jumpThreshold ∧ e.warmUp = w.warmUp ∧ e.revertTime = w.revertTime ∧
      e.meterInterval = w.meterInterval := by
  have hdone : doneOr (w.clamped e) = .done ↔ w.clamped e = false := by
    cases w.clamped e <;> simp [doneOr]
  rw [hdone, ProgramWrite.clamped]
  simp only [Bool.or_eq_false_iff, bne_eq_false_iff_eq, and_assoc]
  simp only [eq_comm]

theorem doneOr_cases (b : Bool) : doneOr b = .done ∨ doneOr b = .clamped := by
  cases b
  · exact .inl rfl
  · exact .inr rfl

/-! ### What a stored entry puts in force (R74, R75) -/

/-- The servo of a program whose entry is stored. -/
def State.ServoStored (s : State) (p : Fin 16) (e : ProgramEntry) (v : Servo) : Prop :=
  let x := s.program p
  let moved := s.active p = true ∧
    (e.delayMode ≠ (s.entry p).delayMode ∨ e.manualDelay ≠ (s.entry p).manualDelay)
  (¬ moved → v = x.servo) ∧
  (moved → e.delayMode = .manual → v = { x.servo with
    delay := min e.manualDelay x.servo.limit, clamped := decide (x.servo.limit < e.manualDelay)
    fill := (min e.manualDelay x.servo.limit * ((s.setEntry p e).nominal p).toNat + 8388608) / 16777216 + e.cushion }) ∧
  (moved → e.delayMode = .follow → (s.entry p).delayMode = .manual → v = x.servo.restartPicture) ∧
  (moved → e.delayMode = .follow → (s.entry p).delayMode = .follow → v = x.servo)

theorem State.setProgram_same (s : State) (p : Fin 16) : s.setProgram p (s.program p) = s := by
  unfold State.setProgram State.program
  simp

theorem State.storeEntry_of_moved {s : State} {p : Fin 16} {e : ProgramEntry}
    (h : e.delayMode ≠ (s.entry p).delayMode ∨ e.manualDelay ≠ (s.entry p).manualDelay) :
    s.storeEntry p e = ((s.setEntry p e).delayStored p (s.entry p) e).followThrough := by
  unfold State.storeEntry
  dsimp only
  rw [if_pos]
  rw [Bool.or_eq_true, bne_iff_ne, bne_iff_ne]
  exact h.imp Ne.symm Ne.symm

theorem State.storeEntry_of_kept {s : State} {p : Fin 16} {e : ProgramEntry}
    (h : ¬ (e.delayMode ≠ (s.entry p).delayMode ∨ e.manualDelay ≠ (s.entry p).manualDelay)) :
    s.storeEntry p e = (s.setEntry p e).followThrough := by
  unfold State.storeEntry
  dsimp only
  rw [if_neg]
  rw [Bool.or_eq_true, bne_iff_ne, bne_iff_ne]
  exact fun hmoved => h (hmoved.imp Ne.symm Ne.symm)

theorem State.storeEntry_stored (s : State) (p : Fin 16) (e : ProgramEntry) : ∃ v, s.ServoStored p e v ∧
    s.storeEntry p e = ((s.setEntry p e).setProgram p { s.program p with servo := v }).followThrough := by
  have hsame : (s.setEntry p e).setProgram p { s.program p with servo := (s.program p).servo } = s.setEntry p e :=
    (s.setEntry p e).setProgram_same p
  by_cases hfields : e.delayMode ≠ (s.entry p).delayMode ∨ e.manualDelay ≠ (s.entry p).manualDelay
  · rw [State.storeEntry_of_moved hfields]
    cases hactive : s.active p with
    | false =>
      have hstill : ¬ (s.active p = true ∧ (e.delayMode ≠ (s.entry p).delayMode ∨
          e.manualDelay ≠ (s.entry p).manualDelay)) := fun h => by
        rw [hactive] at h
        cases h.1
      exact ⟨(s.program p).servo, ⟨fun _ => rfl, fun h => absurd h hstill, fun h => absurd h hstill,
        fun h => absurd h hstill⟩, by rw [hsame, State.delayStored_of_parked ((s.active_setEntry p p e).trans hactive)]⟩
    | true =>
      have hmoved : ¬ ¬ (s.active p = true ∧ (e.delayMode ≠ (s.entry p).delayMode ∨
          e.manualDelay ≠ (s.entry p).manualDelay)) := not_not.mpr ⟨hactive, hfields⟩
      have hstored := (s.active_setEntry p p e).trans hactive
      cases hmode : e.delayMode with
      | manual =>
        rw [State.delayStored_manual hstored hmode, State.putInForce, State.entry_setEntry_self]
        exact ⟨_, ⟨fun h => absurd h hmoved, fun _ _ => rfl, fun _ h => absurd (hmode.symm.trans h) nofun,
          fun _ h => absurd (hmode.symm.trans h) nofun⟩, rfl⟩
      | follow =>
        cases hold : (s.entry p).delayMode with
        | manual =>
          rw [State.delayStored_follow hstored hold hmode]
          exact ⟨_, ⟨fun h => absurd h hmoved, fun _ h => absurd (hmode.symm.trans h) nofun, fun _ _ _ => rfl,
            fun _ _ h => absurd (hold.symm.trans h) nofun⟩, rfl⟩
        | follow =>
          rw [State.delayStored_follows hold hmode]
          exact ⟨_, ⟨fun h => absurd h hmoved, fun _ h => absurd (hmode.symm.trans h) nofun,
            fun _ _ h => absurd (hold.symm.trans h) nofun, fun _ _ _ => rfl⟩, by rw [hsame]⟩
  · rw [State.storeEntry_of_kept hfields]
    have hstill : ¬ (s.active p = true ∧ (e.delayMode ≠ (s.entry p).delayMode ∨
        e.manualDelay ≠ (s.entry p).manualDelay)) := fun h => hfields h.2
    exact ⟨(s.program p).servo, ⟨fun _ => rfl, fun h => absurd h hstill, fun h => absurd h hstill,
      fun h => absurd h hstill⟩, by rw [hsame]⟩

/-- Settles O43: WRITE of a program entry. -/
theorem programEntriesAreWritten : Obligations.ProgramEntriesAreWritten := by
  intro s o h hrow
  have hrun : exec .writeProgram s = .next (State.finish o (s.dropHead.writeProgram o)) := by
    rw [exec_of_takes h hrow, State.carryOut, hrow]
  refine ⟨fun hi => ?_, fun p hp => ⟨fun hactive hmoved => ?_, fun hopen hbad => ?_, fun hopen hsound hclash => ?_,
    fun hopen hsound hfree => ?_⟩⟩
  · rw [hrun, State.writeProgram_of_le hi]
    rfl
  · rw [hrun, State.writeProgram_fixed (s := s.dropHead) hp hactive hmoved]
    rfl
  · rw [hrun, State.writeProgram_unsound (s := s.dropHead) hp hopen fun ⟨hshaped, hplaced⟩ => hbad ?_]
    · rfl
    obtain ⟨hdef, hcount, hmem, hnodup, hpicture, halternate⟩ := hshaped
    obtain ⟨hprofile, hbank, hband, hmode, hglide, hrevert⟩ := hplaced
    exact ⟨hdef, hcount, hmem, hnodup, hprofile, hbank, hband, hmode, hglide, hrevert, hpicture, halternate⟩
  all_goals
    obtain ⟨hdef, hcount, hmem, hnodup, hprofile, hbank, hband, hmode, hglide, hrevert, hpicture, halternate⟩ := hsound
    have hshaped : (programWrite o.args).shaped p := ⟨hdef, hcount, hmem, hnodup, hpicture, halternate⟩
    obtain ⟨n, hn⟩ : ∃ n, (programWrite o.args).Named n :=
      ((programWrite o.args).names_cases.resolve_left fun h => h.1 ⟨hprofile, hbank, hband, hmode, hglide, hrevert⟩).2
    have hat := State.writeProgram_at (s := s.dropHead) hp hopen hshaped hn
    rw [hat] at hrun
  · rw [hrun, if_pos ((State.membersTaken_iff s.dropHead p _ n).mpr hclash)]
    rfl
  · rw [if_neg (mt (State.membersTaken_iff s.dropHead p _ n).mp hfree)] at hrun
    have hstores := hn.stores hshaped
    have hdone := (programWrite o.args).clamped_iff ((programWrite o.args).entry n)
    generalize (programWrite o.args).entry n = e at hrun hstores hdone
    obtain ⟨v, hservo, hstored⟩ := s.dropHead.storeEntry_stored p e
    have hhands := ((s.dropHead.setEntry p e).setProgram p { s.program p with servo := v }).handsOn_followThrough
    have hstored : s.dropHead.storeEntry p e =
        ((s.dropHead.setEntry p e).setProgram p { s.program p with servo := v }).followThrough := hstored
    have htables : ((s.dropHead.setEntry p e).setProgram p { s.program p with servo := v }).followThrough.tables =
        (s.dropHead.setEntry p e).tables := by rw [hhands.rest]; rfl
    have hself := hhands.program p
    rw [State.program_setProgram_self] at hself
    rw [hstored] at hrun
    generalize hu : ((s.dropHead.setEntry p e).setProgram p { s.program p with servo := v }).followThrough = u
      at hrun htables hself
    have hentry : u.entry p = e := by
      rw [State.entry, htables]
      exact State.entry_setEntry_self _ p e
    have hnominal : u.nominal p = (s.dropHead.setEntry p e).nominal p := State.nominal_congr htables p
    have hv : (u.program p).servo = v := by rw [hself]
    obtain ⟨hkept, hmanual, hfollow, hfollows⟩ := hservo
    refine ⟨u, _, hrun, ?_, ?_, ?_⟩
    · rw [htables, hentry]
      rfl
    · rw [hentry]
      exact ⟨hstores.defined, hstores.members, hstores.weights, hstores.profile, hstores.bank, hstores.houseLocked,
        hstores.delayMode, hstores.manualDelay, hstores.picture, hstores.pictureOffset, hstores.deadband,
        hstores.pictureTimeout, hstores.cushion, hstores.bandSet, hstores.glideRate, hstores.jumpThreshold,
        hstores.warmUp, hstores.alternate, hstores.revertMode, hstores.revertTime, hstores.meterInterval,
        hstores.autoStart, hdone, doneOr_cases _⟩
    · rw [hentry, hv, hnominal, htables]
      exact ⟨hkept, hmanual, hfollow, hfollows, hu.symm⟩

end Sys2Proof.Machine
end

section
/-! SUPPORT. A parcel reaches its lane (R13), and a cue enters schedule, outbox and meter list (R101, R113 to R118). -/

namespace Sys2Proof.Machine

/-! ### A parcel reaches its lane (R13, R16) -/

/-- No other lane has the key of one that hears it. -/
theorem State.laneFor_of_hears {s : State} {node tag : Byte} {l : Fin 32} (hlanes : s.lanesOk) (h : s.hears node tag l) :
    s.laneFor node tag = some l := by
  obtain ⟨hdefined, horigin, htag, hstatus⟩ := h
  unfold State.laneFor
  cases hfind : (List.finRange 32).find? fun l => (s.laneEntry l).defined && (s.laneEntry l).origin == node &&
      (s.laneEntry l).tag == tag && (s.lane l).status != .parked with
  | none =>
    have hnone := List.find?_eq_none.mp hfind l (List.mem_finRange l)
    simp [hdefined, horigin, htag, hstatus] at hnone
  | some k =>
    have hk := List.find?_some hfind
    simp only [Bool.and_eq_true, beq_iff_eq, bne_iff_ne] at hk
    obtain ⟨⟨⟨hkdefined, hkorigin⟩, hktag⟩, _⟩ := hk
    by_contra hne
    exact hlanes.2.2 k l (fun e => hne (congrArg some e)) hkdefined hdefined (hkorigin.trans horigin.symm)
      (hktag.trans htag.symm)

section Deliver
variable {s : State} {slot : Slot} {l : Fin 32}

theorem exec_cueParcel_of_next {stamp : Stamp} {kind : CueType} {mark : BitVec 16}
    (h : s.cueNext slot l stamp kind mark) :
    exec (.cueParcel slot) s = .next ((s.slotTaken 0).cueArrives l stamp kind mark) := by
  obtain ⟨hnext, hlanes, hstrap, hl, node, tag, hhears, hc⟩ := h
  have hfor := State.laneFor_of_hears hlanes hhears
  have hrow : s.slotRow slot = .cue := by
    rw [State.slotRow_of_content hc, State.contentRow, hstrap, hfor]
    rfl
  have htaken : (s.slotTaken 0).laneFor node tag = some l := hfor
  rw [exec, execCueParcel, State.slotCommand_of_checked hnext hl (by rw [hc]; nofun) hrow nofun, hc, State.deliverCue,
    htaken]

theorem exec_audioParcel_of_next {a : AudioIn} (h : s.audioNext slot l a) :
    exec (.audioParcel slot) s = .next ((s.slotTaken 0).audioArrives l a) := by
  obtain ⟨hnext, hlanes, hstrap, hl, node, tag, hhears, hc⟩ := h
  have hfor := State.laneFor_of_hears hlanes hhears
  have hrow : s.slotRow slot = .audio := by
    rw [State.slotRow_of_content hc, State.contentRow, hstrap, hfor]
    rfl
  have htaken : (s.slotTaken 0).laneFor node tag = some l := hfor
  rw [exec, execAudioParcel, State.slotCommand_of_checked hnext hl (by rw [hc]; nofun) hrow nofun, hc, State.deliverAudio,
    htaken]

end Deliver

/-! ### Where an entry stands (R101, R113) -/

theorem insertEntry_split (e : Entry) (xs : List Entry) : ∃ before after, xs = before ++ after ∧
    (∀ y ∈ before, ahead y.stamp e.stamp = false) ∧ (∀ y ∈ after.head?, ahead y.stamp e.stamp = true) ∧
    insertEntry e xs = before ++ e :: after := by
  induction xs with
  | nil => exact ⟨[], [], rfl, nofun, nofun, rfl⟩
  | cons x xs ih =>
    cases hx : ahead x.stamp e.stamp with
    | true =>
      refine ⟨[], x :: xs, rfl, nofun, fun y hy => ?_, if_pos hx⟩
      rw [← Option.mem_some.mp hy]
      exact hx
    | false =>
      obtain ⟨before, after, hxs, hbefore, hafter, hinsert⟩ := ih
      refine ⟨x :: before, after, by rw [hxs, List.cons_append], fun y hy => ?_, hafter, ?_⟩
      · rcases List.mem_cons.mp hy with rfl | hy
        · exact hx
        · exact hbefore y hy
      · rw [insertEntry, if_neg (Bool.eq_false_iff.mp hx), hinsert, List.cons_append]

theorem insertCue_split (c : Stamp × CueType) (xs : List (Stamp × CueType)) : ∃ first last, xs = first ++ last ∧
    (∀ y ∈ first, ahead y.1 c.1 = false) ∧ (∀ y ∈ last.head?, ahead y.1 c.1 = true) ∧
    insertCue c xs = first ++ c :: last := by
  induction xs with
  | nil => exact ⟨[], [], rfl, nofun, nofun, rfl⟩
  | cons x xs ih =>
    cases hx : ahead x.1 c.1 with
    | true =>
      refine ⟨[], x :: xs, rfl, nofun, fun y hy => ?_, if_pos hx⟩
      rw [← Option.mem_some.mp hy]
      exact hx
    | false =>
      obtain ⟨first, last, hxs, hfirst, hlast, hinsert⟩ := ih
      refine ⟨x :: first, last, by rw [hxs, List.cons_append], fun y hy => ?_, hlast, ?_⟩
      · rcases List.mem_cons.mp hy with rfl | hy
        · exact hx
        · exact hfirst y hy
      · rw [insertCue, if_neg (Bool.eq_false_iff.mp hx), hinsert, List.cons_append]

/-! ### The meter's list (R101) -/

section List
variable {m : Meter} {stamp : Stamp} {kind : CueType}

theorem Meter.listCue_unlisted (h : m.pos = none ∨ kind = .userMark) : m.listCue stamp kind = m := by
  refine if_pos ?_
  rw [Bool.or_eq_true, beq_iff_eq, Option.isNone_iff_eq_none]
  exact h.symm

theorem Meter.not_unlisted (hpos : m.pos ≠ none) (hkind : kind ≠ .userMark) :
    ¬ (kind == .userMark || m.pos.isNone) = true := by
  rw [Bool.or_eq_true, beq_iff_eq, Option.isNone_iff_eq_none]
  exact not_or.mpr ⟨hkind, hpos⟩

theorem Meter.listCue_listed (hpos : m.pos ≠ none) (hkind : kind ≠ .userMark) (hroom : m.cues.length < 16) :
    ∃ first last, m.cues = first ++ last ∧ (∀ c ∈ first, ahead c.1 stamp = false) ∧
      (∀ c ∈ last.head?, ahead c.1 stamp = true) ∧
      m.listCue stamp kind = { m with cues := first ++ (stamp, kind) :: last } := by
  obtain ⟨first, last, hcues, hfirst, hlast, hinsert⟩ := insertCue_split (stamp, kind) m.cues
  refine ⟨first, last, hcues, hfirst, hlast, ?_⟩
  rw [Meter.listCue, if_neg (Meter.not_unlisted hpos hkind), if_pos hroom, hinsert]

theorem Meter.listCue_full (hpos : m.pos ≠ none) (hkind : kind ≠ .userMark) (hfull : 16 ≤ m.cues.length) :
    m.listCue stamp kind = { m with cueOverflows := min (m.cueOverflows + 1) 65535 } := by
  rw [Meter.listCue, if_neg (Meter.not_unlisted hpos hkind), if_neg (Nat.not_lt.mpr hfull)]
  rfl

end List

/-! ### A cue is entered (R114 to R118) -/

section Enter
variable {s : State} {p : Fin 16} {stamp : Stamp} {kind : CueType} {mark : BitVec 16}

/-- The program fed first by the lowest enabled egress lane that takes its member 0 (R118). -/
theorem State.cueTag_of_first {e : Fin 32}
    (h : (s.mapEntry e).enabled = true ∧ (s.mapEntry e).program = p ∧ (s.mapEntry e).member = 0)
    (hfirst : ∀ k, k < e → ¬ ((s.mapEntry k).enabled = true ∧ (s.mapEntry k).program = p ∧ (s.mapEntry k).member = 0)) :
    s.cueTag p = some (s.mapEntry e).tag := by
  have htest : ∀ k, ((s.mapEntry k).enabled && (s.mapEntry k).program == p && (s.mapEntry k).member == 0) = true ↔
      (s.mapEntry k).enabled = true ∧ (s.mapEntry k).program = p ∧ (s.mapEntry k).member = 0 := fun k => by
    rw [Bool.and_eq_true, Bool.and_eq_true, beq_iff_eq, beq_iff_eq, and_assoc]
  unfold State.cueTag
  have hfind : ((List.finRange 32).find? fun e =>
      (s.mapEntry e).enabled && (s.mapEntry e).program == p && (s.mapEntry e).member == 0) = some e := by
    rw [List.find?_eq_some_iff_getElem]
    refine ⟨(htest e).mpr h, e.val, by simp, by simp, fun j hj => ?_⟩
    rw [Bool.not_eq_true', ← Bool.not_eq_true, htest, List.getElem_finRange]
    exact hfirst _ hj
  rw [hfind]
  rfl

theorem State.cueTag_of_none
    (h : ∀ e, ¬ ((s.mapEntry e).enabled = true ∧ (s.mapEntry e).program = p ∧ (s.mapEntry e).member = 0)) :
    s.cueTag p = none := by
  unfold State.cueTag
  rw [List.find?_eq_none.mpr, Option.map_none]
  intro e _ htest
  rw [Bool.and_eq_true, Bool.and_eq_true, beq_iff_eq, beq_iff_eq, and_assoc] at htest
  exact h e htest

theorem State.reached_of_pos {P : ReadPos} (h : (s.program p).conv.pos = some P) (t : Stamp) :
    s.reached p t = !ahead t P.stamp := by
  rw [State.reached, h]
  rfl

theorem State.not_reached (h : ∀ P, (s.program p).conv.pos = some P → ahead stamp P.stamp = true) :
    s.reached p stamp = false := by
  unfold State.reached
  cases hpos : (s.program p).conv.pos with
  | none => rfl
  | some P =>
    rw [Option.any_some, h P hpos]
    rfl

theorem State.enterCue_stored (h : s.reached p stamp = false) (hroom : (s.program p).gain.schedule.length < 128) :
    s.enterCue p stamp kind mark = s.setProgram p { s.program p with
      gain := { (s.program p).gain with schedule := insertEntry (.cue stamp kind mark) (s.program p).gain.schedule }
      meter := (s.program p).meter.listCue stamp kind } := by
  unfold State.enterCue
  rw [State.offer_of_room (e := .cue stamp kind mark) h hroom]
  dsimp only
  rw [State.program_setProgram_self, State.setProgram_setProgram]

theorem State.enterCue_dropped (h : s.reached p stamp = false) (hfull : 128 ≤ (s.program p).gain.schedule.length) :
    s.enterCue p stamp kind mark = s.setProgram p { s.program p with
      gain := { (s.program p).gain with cueDrops := min ((s.program p).gain.cueDrops + 1) 65535 }
      meter := (s.program p).meter.listCue stamp kind } := by
  unfold State.enterCue
  rw [State.offer_of_full (e := .cue stamp kind mark) h hfull]
  dsimp only
  rw [State.program_setProgram_self, State.setProgram_setProgram]
  rfl

theorem State.enterCue_placed {tag : Byte} (h : s.reached p stamp = true) (htag : s.cueTag p = some tag)
    (hroom : s.egress.outbox.length < 8) : s.enterCue p stamp kind mark =
      { s.setProgram p { s.program p with meter := (s.program p).meter.listCue stamp kind } with
        egress := { s.egress with outbox := s.egress.outbox ++ [⟨tag, s.house.stamp, kind, mark, p⟩] } } := by
  unfold State.enterCue
  rw [State.offer_of_reached (e := .cue stamp kind mark) h]
  simp only [State.takeEffect, State.forwardCue, htag, State.placeCue]
  rw [if_pos (show s.egress.outbox.length < outboxSize from hroom)]
  rfl

theorem State.enterCue_lost (h : s.reached p stamp = true) (hlost : s.cueTag p = none ∨ 8 ≤ s.egress.outbox.length) :
    s.enterCue p stamp kind mark = s.setProgram p { s.program p with
      gain := { (s.program p).gain with forwardDrops := min ((s.program p).gain.forwardDrops + 1) 65535 }
      meter := (s.program p).meter.listCue stamp kind } := by
  have heffect : s.takeEffect p (.cue stamp kind mark) = s.dropForward p := by
    simp only [State.takeEffect, State.forwardCue]
    split
    next tag htag =>
      have hfull : 8 ≤ s.egress.outbox.length := hlost.resolve_left (by rw [htag]; nofun)
      exact if_neg (Nat.not_lt.mpr hfull)
    next => rfl
  unfold State.enterCue
  rw [State.offer_of_reached (e := .cue stamp kind mark) h, heffect]
  simp only [State.dropForward]
  rw [State.program_setProgram_self, State.setProgram_setProgram]
  rfl

end Enter

/-- Settles O22: a CUE parcel, from whatever lane and in whatever state. -/
theorem cuesAreEntered : Obligations.CuesAreEntered := by
  intro s slot l stamp kind mark p hnext hmember
  have hof : (s.slotTaken 0).programOf l = some p := State.programOf_of_memberOf (s := s) hmember
  have hrun := exec_cueParcel_of_next hnext
  rw [State.cueArrives, hof] at hrun
  dsimp only at hrun
  refine ⟨fun haway => ?_, fun hleader hstate => ⟨(s.program p).meter.listCue stamp kind, Meter.listCue_unlisted,
    Meter.listCue_listed, Meter.listCue_full, fun hahead => ⟨fun hroom => ?_, fun hfull => ?_⟩,
    fun P hP hreached => ⟨fun e hfeeds hfirst hroom => ?_, fun hlost => ?_⟩⟩⟩
  · rw [hrun, if_neg]
    · rfl
    rw [Bool.and_eq_true, beq_iff_eq, bne_iff_ne]
    rintro ⟨hleader, hstate⟩
    exact haway.elim (fun h => h hleader) hstate
  all_goals
    rw [if_pos (show ((s.slotTaken 0).leader p == some l && (s.slotTaken 0).playState p != .resyncing) = true from
      Bool.and_eq_true_iff.mpr ⟨beq_iff_eq.mpr hleader, bne_iff_ne.mpr hstate⟩)] at hrun
  · obtain ⟨before, after, hsplit, hbefore, hafter, hinsert⟩ :=
      insertEntry_split (.cue stamp kind mark) (s.program p).gain.schedule
    refine ⟨before, after, hsplit, hbefore, hafter, ?_⟩
    rw [hrun, State.enterCue_stored (s := s.slotTaken 0) (State.not_reached hahead) hroom, ← hinsert]
    rfl
  · rw [hrun, State.enterCue_dropped (s := s.slotTaken 0) (State.not_reached hahead) hfull]
    rfl
  all_goals
    have hreached : (s.slotTaken 0).reached p stamp = true := by
      rw [State.reached_of_pos (s := s.slotTaken 0) hP, hreached]
      rfl
  · rw [hrun, State.enterCue_placed (s := s.slotTaken 0) hreached (State.cueTag_of_first (s := s) hfeeds hfirst) hroom]
    rfl
  · rw [hrun, State.enterCue_lost (s := s.slotTaken 0) hreached (hlost.imp_left State.cueTag_of_none)]
    rfl

/-! ### CUE (R101, R113 to R118) -/

theorem CueType.ofCode_cases (n : Nat) : (2 < n ∧ CueType.ofCode n = none) ∨
    (n ≤ 2 ∧ ∃ x, CueType.ofCode n = some x ∧ x.code = n ∧ (x = .userMark ↔ n = 2)) := by
  rcases Nat.lt_or_ge 2 n with h | h
  · obtain ⟨k, rfl⟩ := Nat.exists_eq_add_of_le' h
    exact .inl ⟨h, rfl⟩
  · refine .inr ⟨h, ?_⟩
    interval_cases n <;> exact ⟨_, rfl, rfl, by decide⟩

theorem CueType.ofCode_of_code {n : Nat} {kind : CueType} (h : (n : Int) = kind.code) :
    CueType.ofCode n = some kind := by
  cases kind <;> (rw [show n = _ from Int.ofNat_inj.mp h]; rfl)

/-- A mark of 16 bits is 0 as its field is. -/
theorem markField_eq_zero (a : List Byte) (offset : Nat) : BitVec.ofNat 16 (field a offset 2) = 0 ↔ field a offset 2 = 0 := by
  rw [field_two, BitVec.ofNat_toNat, BitVec.setWidth_eq, ← BitVec.toNat_inj]
  rfl

section Order
variable {s : State} {o : Order} {p : Fin 16} {kind : CueType}

theorem State.orderCue_unnamed (h : field o.args 0 1 < 16)
    (hbad : 2 < field o.args 1 1 ∨ (field o.args 1 1 < 2 ∧ field o.args 2 2 ≠ 0)) :
    s.orderCue o = (.refusedValue, s) := by
  rw [State.orderCue, Order.program_at (p := ⟨_, h⟩) rfl]
  dsimp only
  rcases CueType.ofCode_cases (field o.args 1 1) with ⟨_, hnone⟩ | ⟨hle, kind, hkind, _, huser⟩
  · rw [hnone]
  · rw [hkind]
    obtain ⟨hlt, hmark⟩ := hbad.resolve_left (Nat.not_lt.mpr hle)
    exact if_pos ⟨fun h => absurd (huser.mp h) hlt.ne, mt (markField_eq_zero _ _).mp hmark⟩

theorem CueType.marked (hmark : kind = .userMark ∨ field o.args 2 2 = 0) :
    ¬ (kind ≠ .userMark ∧ BitVec.ofNat 16 (field o.args 2 2) ≠ 0) := fun ⟨hne, hnonzero⟩ =>
  hnonzero ((markField_eq_zero _ _).mpr (hmark.resolve_left hne))

variable (h : field o.args 0 1 = p.val) (hkind : (field o.args 1 1 : Int) = kind.code)
  (hmark : kind = .userMark ∨ field o.args 2 2 = 0)
include h hkind hmark

theorem State.orderCue_refused (hstate : (s.program p).play.state = .parked ∨ (s.program p).play.state = .resyncing ∨
    (s.program p).meter.pos = none) : s.orderCue o = (.refusedState, s) := by
  rw [State.orderCue, Order.program_at h]
  dsimp only
  rw [CueType.ofCode_of_code hkind]
  refine (if_neg (CueType.marked hmark)).trans ?_
  cases hpos : (s.program p).meter.pos with
  | none => rfl
  | some M => exact if_pos (hstate.imp_right fun h => h.resolve_right (by rw [hpos]; nofun))

theorem State.orderCue_taken {M : Stamp} (hM : (s.program p).meter.pos = some M)
    (hparked : (s.program p).play.state ≠ .parked) (hresync : (s.program p).play.state ≠ .resyncing) :
    s.orderCue o = (.done, s.enterCue p M kind (BitVec.ofNat 16 (field o.args 2 2))) := by
  rw [State.orderCue, Order.program_at h]
  dsimp only
  rw [CueType.ofCode_of_code hkind]
  refine (if_neg (CueType.marked hmark)).trans ?_
  rw [hM]
  exact if_neg (not_or.mpr ⟨hparked, hresync⟩)

end Order

/-- Settles O50: CUE, checked and entered at the meter position. -/
theorem cueOrdersEnterAtMeter : Obligations.CueOrdersEnterAtMeter := by
  intro s o h hrow
  have hrun : exec .cue s = .next (State.finish o (s.dropHead.orderCue o)) := by
    rw [exec_of_takes h hrow, State.carryOut, hrow]
  refine ⟨fun hi => ?_, fun hi hbad => ?_, fun p kind hp hkind hmark => ⟨fun hstate => ?_, fun M hM hparked hresync =>
    ⟨(s.program p).meter.listCue M kind, fun huser => Meter.listCue_unlisted (.inr huser),
      Meter.listCue_listed (by rw [hM]; nofun), Meter.listCue_full (by rw [hM]; nofun),
      fun hahead => ⟨fun hroom => ?_, fun hfull => ?_⟩,
      fun P hP hreached => ⟨fun e hfeeds hfirst hroom => ?_, fun hlost => ?_⟩⟩⟩⟩
  · rw [hrun, State.orderCue, Order.program_of_le hi]
    rfl
  · rw [hrun, State.orderCue_unnamed hi hbad]
    rfl
  · rw [hrun, State.orderCue_refused (s := s.dropHead) hp hkind hmark hstate]
    rfl
  all_goals
    rw [State.orderCue_taken (s := s.dropHead) hp hkind hmark hM hparked hresync] at hrun
  · obtain ⟨before, after, hsplit, hbefore, hafter, hinsert⟩ :=
      insertEntry_split (.cue M kind (BitVec.ofNat 16 (field o.args 2 2))) (s.program p).gain.schedule
    refine ⟨before, after, hsplit, hbefore, hafter, ?_⟩
    rw [hrun, State.enterCue_stored (s := s.dropHead) (State.not_reached hahead) hroom, ← hinsert]
    rfl
  · rw [hrun, State.enterCue_dropped (s := s.dropHead) (State.not_reached hahead) hfull]
    rfl
  all_goals
    have hreached : s.dropHead.reached p M = true := by
      rw [State.reached_of_pos (s := s.dropHead) hP, hreached]
      rfl
  · rw [hrun, State.enterCue_placed (s := s.dropHead) hreached (State.cueTag_of_first (s := s) hfeeds hfirst) hroom]
    rfl
  · rw [hrun, State.enterCue_lost (s := s.dropHead) hreached (hlost.imp_left State.cueTag_of_none)]
    rfl

end Sys2Proof.Machine
end

section
/-! SUPPORT. PICTURE_REPORT: each program that names the source takes it by itself (R87, R89). -/

namespace Sys2Proof.Machine

/-! ### Programs moved one after another, each by itself -/

/-- Steps that each set one program's block from that block alone, taken over a list of programs. -/
theorem State.foldl_programs {step : State → Fin 16 → State} {f : Fin 16 → Program → Program} {s : State}
    (hstep : ∀ v : State, v.tables = s.tables → ∀ p, step v p = v.setProgram p (f p (v.program p)))
    {ps : List (Fin 16)} (hps : ps.Nodup) :
    ps.foldl step s = { s with programs := (ps.foldl step s).programs } ∧
      ∀ q, (ps.foldl step s).program q = if q ∈ ps then f q (s.program q) else s.program q := by
  induction ps using List.reverseRecOn with
  | nil => exact ⟨rfl, fun q => rfl⟩
  | append_singleton ps p ih =>
    obtain ⟨hnodup, _, hdisjoint⟩ := List.nodup_append.mp hps
    obtain ⟨hframe, hprogram⟩ := ih hnodup
    have hp : p ∉ ps := fun hin => hdisjoint p hin p (List.mem_singleton_self p) rfl
    rw [List.foldl_append, List.foldl_cons, List.foldl_nil]
    have htables : (ps.foldl step s).tables = s.tables := by rw [hframe]
    rw [hstep _ htables]
    generalize ps.foldl step s = v at hframe hprogram
    refine ⟨?_, fun q => ?_⟩
    · conv_lhs => rw [hframe]
      rfl
    · by_cases hq : q = p
      · subst hq
        rw [State.program_setProgram_self, hprogram q, if_neg hp,
          if_pos (List.mem_append_right _ (List.mem_singleton_self q))]
      · rw [State.program_setProgram_ne _ _ hq, hprogram q]
        simp only [List.mem_append, List.mem_singleton, hq, or_false]

/-! ### One program and its report (R87, R89) -/

/-- The proposed delay before it is limited (R89). -/
def ProgramEntry.proposed (e : ProgramEntry) (micros : Nat) : Int :=
  ((micros * 48 + 500) / 1000 : Nat) + e.pictureOffset

/-- The servo of a program that has heard a report (R87). -/
def Servo.heard (v : Servo) (micros : Nat) : Servo := { v with pictureIdle := 0, pictureLast := some micros }

/-- And with the proposal in force (R72, R74, R89). -/
def State.following (s : State) (p : Fin 16) (v : Servo) (micros : Nat) : Servo :=
  let sum := (s.entry p).proposed micros
  let dp := (max 0 (min sum v.limit)).toNat
  { v.heard micros with
    delay := dp
    fill := (dp * (s.nominal p).toNat + 8388608) / 16777216 + (s.entry p).cushion
    clamped := decide ((v.limit : Int) < sum) }

/-- The report is within the deadband, or HOLD_DELAY is in force (R89). -/
def State.staysPut (s : State) (p : Fin 16) (x : Program) (micros : Nat) : Bool :=
  decide (x.holds.holdDelay ≠ 0 ∨
    (((max 0 (min ((s.entry p).proposed micros) x.servo.limit)).toNat : Int) - x.servo.delay).natAbs <
      (s.entry p).deadband)

section Taken
variable {s : State} {p : Fin 16} {micros : Nat} {valid : Bool}

theorem State.pictureTaken_ignored (h : ¬ ((s.entry p).delayMode = .follow ∧ valid = true)) :
    s.pictureTaken p micros valid = s := by
  refine if_pos ?_
  cases hmode : (s.entry p).delayMode with
  | manual => rfl
  | follow =>
    cases valid with
    | false => rfl
    | true => exact absurd ⟨hmode, rfl⟩ h

theorem State.proposal_eq (s : State) (p : Fin 16) (micros : Nat) : s.proposal p micros =
    ((max 0 (min ((s.entry p).proposed micros) (s.program p).servo.limit)).toNat : Int) := by
  rw [State.proposal, clampInt_eq (Int.natCast_nonneg _), Int.toNat_of_nonneg (le_max_left _ _)]
  rfl

theorem State.not_ignored (hmode : (s.entry p).delayMode = .follow) (hvalid : valid = true) :
    ¬ ((s.entry p).delayMode == .manual || !valid) = true := by
  rw [hmode, hvalid]
  exact Bool.noConfusion

theorem State.pictureTaken_still (hmode : (s.entry p).delayMode = .follow) (hvalid : valid = true)
    (hstill : s.staysPut p (s.program p) micros = true) : s.pictureTaken p micros valid =
      s.setProgram p { s.program p with servo := (s.program p).servo.heard micros } := by
  unfold State.pictureTaken
  dsimp only
  rw [if_neg (State.not_ignored hmode hvalid)]
  by_cases hheld : ((s.program p).holds.holdDelay != 0) = true
  · rw [if_pos hheld]
    rfl
  · rw [if_neg hheld, if_neg]
    · rfl
    · have hnear := (of_decide_eq_true hstill).resolve_left fun h => hheld (bne_iff_ne.mpr h)
      rw [State.proposal_eq, State.program_setProgram_self, not_le]
      exact Int.ofNat_lt.mpr hnear

theorem State.pictureTaken_follows (hmode : (s.entry p).delayMode = .follow) (hvalid : valid = true)
    (hmoves : s.staysPut p (s.program p) micros = false) : s.pictureTaken p micros valid =
      s.setProgram p { s.program p with servo := s.following p (s.program p).servo micros } := by
  obtain ⟨hfree, hfar⟩ := not_or.mp (of_decide_eq_false hmoves)
  unfold State.pictureTaken
  dsimp only
  rw [if_neg (State.not_ignored hmode hvalid), if_neg (mt bne_iff_ne.mp hfree)]
  have hlimit : (max 0 (min ((s.entry p).proposed micros) (s.program p).servo.limit)).toNat ≤ (s.program p).servo.limit := by
    omega
  rw [State.proposal_eq, State.program_setProgram_self, State.entry_setProgram,
    if_pos (Int.ofNat_le.mpr (Nat.not_lt.mp hfar)), Int.toNat_natCast, State.putInForce, State.program_setProgram_self,
    State.program_setProgram_self, State.entry_setProgram, State.setProgram_setProgram, State.setProgram_setProgram,
    Nat.min_eq_left hlimit]
  rfl

end Taken

/-- What a report makes of a program (R87, R89). -/
def State.pictured (s : State) (node tag : Byte) (micros : Nat) (valid : Bool) (p : Fin 16) (x : Program) :
    Program :=
  if (x.play.state != .parked) = true ∧ (s.entry p).picture = some (node, tag) ∧ (s.entry p).delayMode = .follow ∧
      valid = true then
    if s.staysPut p x micros then { x with servo := x.servo.heard micros }
    else { x with servo := s.following p x.servo micros }
  else x

/-- The report as one program takes it. -/
def State.offerPicture (node tag : Byte) (micros : Nat) (valid : Bool) (v : State) (p : Fin 16) : State :=
  if v.watches node tag p then v.pictureTaken p micros valid else v

theorem State.offerPicture_eq {s v : State} (htables : v.tables = s.tables) (node tag : Byte) (micros : Nat)
    (valid : Bool) (p : Fin 16) : v.offerPicture node tag micros valid p =
      v.setProgram p (s.pictured node tag micros valid p (v.program p)) := by
  have hentry : v.entry p = s.entry p := by rw [State.entry, htables, State.entry]
  have hput : v.staysPut p (v.program p) micros = s.staysPut p (v.program p) micros := by
    rw [State.staysPut, State.staysPut, hentry]
  have hfollowing : v.following p (v.program p).servo micros = s.following p (v.program p).servo micros := by
    unfold State.following
    rw [hentry, State.nominal_congr htables]
  unfold State.offerPicture State.watches State.pictured
  have hwatch : ((v.entry p).picture == some (node, tag) && v.active p) = true ↔
      (s.entry p).picture = some (node, tag) ∧ ((v.program p).play.state != .parked) = true := by
    rw [Bool.and_eq_true, beq_iff_eq, hentry]
    rfl
  by_cases hwatches : (s.entry p).picture = some (node, tag) ∧ ((v.program p).play.state != .parked) = true
  · rw [if_pos (hwatch.mpr hwatches)]
    by_cases hheard : (s.entry p).delayMode = .follow ∧ valid = true
    · rw [if_pos ⟨hwatches.2, hwatches.1, hheard⟩]
      cases hstill : s.staysPut p (v.program p) micros with
      | true =>
        rw [State.pictureTaken_still (by rw [hentry]; exact hheard.1) hheard.2 (hput.trans hstill)]
        rfl
      | false =>
        rw [State.pictureTaken_follows (by rw [hentry]; exact hheard.1) hheard.2 (hput.trans hstill), hfollowing]
        rfl
    · rw [if_neg fun h => hheard h.2.2, State.pictureTaken_ignored (by rw [hentry]; exact hheard), State.setProgram_same]
  · rw [if_neg (mt hwatch.mp hwatches), if_neg fun h => hwatches ⟨h.2.1, h.1⟩, State.setProgram_same]

/-- Settles O23: a report reaches every program that names its source. -/
theorem pictureReportsAreFollowed : Obligations.PictureReportsAreFollowed := by
  intro s slot node tag micros valid hnext hstrap hl hc hsource
  have hwatched : s.watched node tag = true := by
    obtain ⟨p, hactive, hpicture⟩ := hsource
    exact List.any_eq_true.mpr ⟨p, List.mem_finRange p, Bool.and_eq_true_iff.mpr ⟨beq_iff_eq.mpr hpicture, hactive⟩⟩
  have hrow : s.slotRow slot = .picture := by
    rw [State.slotRow_of_content hc, State.contentRow, hstrap, hwatched]
    rfl
  have hrun : exec (.pictureReport slot) s =
      .next ((List.finRange 16).foldl (State.offerPicture node tag micros valid) (s.slotTaken 0)) := by
    rw [exec, execPictureReport, State.slotCommand_of_checked hnext hl (by rw [hc]; nofun) hrow nofun, hc]
    rfl
  obtain ⟨hframe, hprogram⟩ := State.foldl_programs (s := s.slotTaken 0)
    (fun v hv p => State.offerPicture_eq hv node tag micros valid p) (List.nodup_finRange 16)
  generalize (List.finRange 16).foldl (State.offerPicture node tag micros valid) (s.slotTaken 0) = t
    at hrun hframe hprogram
  refine ⟨t, hrun, hframe, fun p => ⟨fun hdeaf => ?_, fun hheard hstill => ?_, fun hheard hmoves => ?_⟩⟩
  all_goals
    have hp := hprogram p
    rw [if_pos (List.mem_finRange p)] at hp
    rw [hp]
  · exact if_neg hdeaf
  · exact (if_pos hheard).trans (if_pos (decide_eq_true hstill))
  · exact (if_pos hheard).trans (if_neg (Bool.eq_false_iff.mp (decide_eq_false hmoves)))

end Sys2Proof.Machine
end

section
/-! SUPPORT. What a forward move of the retired edge leaves behind in a ring (R17, R33). -/

namespace Sys2Proof.Machine

/-! ### The words behind the edge -/

/-- The test by which `State.retireLane` finds the words it retires. -/
def LaneEntry.passed (e : LaneEntry) (old new : Stamp) (i : Nat) : Bool :=
  e.inRegion i &&
    decide ((((i - e.startPage * 1024) + e.ringSize - old.toNat % e.ringSize) % e.ringSize : Nat) < stampDiff new old)

theorem State.retireLane_eq (s : State) (l : Fin 32) (old new : Stamp) : s.retireLane l old new =
    { s.setLane l { s.lane l with taint := (s.lane l).taint - s.mem.suspects ((s.laneEntry l).passed old new) } with
      mem := s.mem.clear ((s.laneEntry l).passed old new) } := rfl

/-- Index `k` of a ring of `R` words stands `d` behind `o` exactly when `d` is this. -/
theorem ring_distance {R o k d : Nat} (hk : k < R) (hd : d < R) : k = (o + d) % R ↔ (k + R - o % R) % R = d := by
  have hpos : 0 < R := Nat.zero_lt_of_lt hk
  have hr : o % R < R := Nat.mod_lt o hpos
  rw [Nat.add_mod, Nat.mod_eq_of_lt hd]
  generalize o % R = r at hr
  rcases Nat.lt_or_ge (r + d) R with hlt | hge
  · rw [Nat.mod_eq_of_lt hlt]
    rcases Nat.lt_or_ge k r with hkr | hkr
    · rw [Nat.mod_eq_of_lt (show k + R - r < R by omega)]
      omega
    · rw [show k + R - r = k - r + R by omega, Nat.add_mod_right, Nat.mod_eq_of_lt (show k - r < R by omega)]
      omega
  · rw [Nat.mod_eq_sub_mod hge, Nat.mod_eq_of_lt (show r + d - R < R by omega)]
    rcases Nat.lt_or_ge k r with hkr | hkr
    · rw [Nat.mod_eq_of_lt (show k + R - r < R by omega)]
      omega
    · rw [show k + R - r = k - r + R by omega, Nat.add_mod_right, Nat.mod_eq_of_lt (show k - r < R by omega)]
      omega

section Ring
variable {e : LaneEntry} (hsize : e.sizePages ∈ regionSizes)
include hsize

theorem LaneEntry.ringSize_dvd : e.ringSize ∣ 2 ^ 32 := by
  unfold LaneEntry.ringSize
  revert hsize
  generalize e.sizePages = n
  simp only [regionSizes, List.mem_cons, List.not_mem_nil, or_false]
  rintro (rfl | rfl | rfl | rfl | rfl | rfl | rfl | rfl) <;> decide

theorem LaneEntry.ringSize_pos : 0 < e.ringSize := Nat.pos_of_dvd_of_pos (LaneEntry.ringSize_dvd hsize) (by decide)

/-- The words of a ring follow one another, around its end (R17). -/
theorem LaneEntry.wordIndex_add (t : Stamp) (d : Nat) :
    e.wordIndex (t + BitVec.ofNat 32 d) = e.startPage * 1024 + (t.toNat + d) % e.ringSize := by
  rw [LaneEntry.wordIndex, BitVec.toNat_add, BitVec.toNat_ofNat, Nat.add_mod_mod,
    Nat.mod_mod_of_dvd _ (LaneEntry.ringSize_dvd hsize)]

/-- The words retired are those of the stamps from the old edge up to the new (R33). -/
theorem LaneEntry.passed_iff (old new : Stamp) (i : Nat) : e.passed old new i = true ↔
    ∃ d < e.ringSize, (d : Int) < stampDiff new old ∧ i = e.wordIndex (old + BitVec.ofNat 32 d) := by
  have hpos := LaneEntry.ringSize_pos hsize
  unfold LaneEntry.passed LaneEntry.inRegion
  simp only [Bool.and_eq_true, decide_eq_true_iff, LaneEntry.wordIndex_add hsize]
  constructor
  · rintro ⟨⟨hlow, hhigh⟩, hbehind⟩
    refine ⟨_, Nat.mod_lt _ hpos, hbehind, ?_⟩
    have hk := (ring_distance (o := old.toNat) (show i - e.startPage * 1024 < e.ringSize by omega) (Nat.mod_lt _ hpos)).mpr rfl
    rw [← hk]
    omega
  · rintro ⟨d, hd, hbehind, rfl⟩
    have hlt := Nat.mod_lt (old.toNat + d) hpos
    have hk := (ring_distance hlt hd).mp rfl
    rw [Nat.add_sub_cancel_left, hk]
    exact ⟨⟨Nat.le_add_right _ _, by omega⟩, hbehind⟩

end Ring

theorem LaneEntry.inRegion_of_passed {e : LaneEntry} {old new : Stamp} {i : Nat} (h : e.passed old new i = true) :
    e.inRegion i = true := (Bool.and_eq_true_iff.mp h).1

/-! ### One lane (R33) -/

section One
variable {m : DelayMem} {t u : Nat → Bool}

theorem DelayMem.suspects_clear_self : (m.clear t).suspects t = 0 := by
  unfold DelayMem.suspects DelayMem.clear
  rw [List.filter_filter, List.length_eq_zero_iff, List.filter_eq_nil_iff]
  intro c _ h
  simp only [Bool.and_eq_true, Bool.not_eq_true'] at h
  rw [h.1.1] at h
  cases h.2

theorem DelayMem.suspects_clear_of_disjoint (h : ∀ i, u i = true → t i = false) : (m.clear t).suspects u = m.suspects u := by
  unfold DelayMem.suspects DelayMem.clear
  rw [List.filter_filter]
  refine congrArg List.length (List.filter_congr fun c _ => ?_)
  cases hu : u c.1 with
  | false => rfl
  | true => rw [h _ hu]; simp

/-- Words counted in two ways, no word twice. -/
theorem DelayMem.suspects_eq_length {lost : List (Nat × RingWord)} (hwf : m.wf = true) (hsub : lost.Sublist m)
    (hlost : ∀ c ∈ m, c ∈ lost ↔ u c.1 = true ∧ c.2.suspect = true) : m.suspects u = lost.length := by
  have hnodup : List.Nodup m := ((DelayMem.wf_iff m).mp hwf).1.imp fun {a b} hab heq => by
    rw [heq] at hab
    exact lt_irrefl _ hab
  refine List.Perm.length_eq ((List.perm_ext_iff_of_nodup (hnodup.filter _) (hnodup.sublist hsub)).mpr fun c => ?_)
  rw [List.mem_filter, Bool.and_eq_true]
  exact ⟨fun ⟨hc, hgone⟩ => (hlost c hc).mpr hgone, fun hc => ⟨hsub.subset hc, (hlost c (hsub.subset hc)).mp hc⟩⟩

theorem DelayMem.find_ne_none {c : Nat × RingWord} (h : c ∈ m) : m.find c.1 ≠ none := by
  induction m with
  | nil => cases h
  | cons d rest ih =>
    obtain ⟨j, w⟩ := d
    rw [DelayMem.find]
    split
    · nofun
    next hj =>
      rcases List.mem_cons.mp h with rfl | h
      · exact absurd rfl hj
      · exact ih h

/-- No word stands where the test holds. -/
theorem DelayMem.suspects_eq_zero (h : ∀ i, u i = true → m.find i = none) : m.suspects u = 0 := by
  unfold DelayMem.suspects
  rw [List.length_eq_zero_iff, List.filter_eq_nil_iff]
  intro c hc htest
  exact DelayMem.find_ne_none hc (h c.1 (Bool.and_eq_true_iff.mp htest).1)

end One

section Lane
variable {s : State} {l k : Fin 32} {old new : Stamp}

theorem State.lane_retireLane_self : (s.retireLane l old new).lane l = { s.lane l with
    taint := (s.lane l).taint - s.mem.suspects ((s.laneEntry l).passed old new) } := s.lane_setLane_self l _

theorem State.lane_retireLane_ne (h : k ≠ l) : (s.retireLane l old new).lane k = s.lane k := s.lane_setLane_ne _ h

theorem State.find_retireLane (i : Nat) : (s.retireLane l old new).mem.find i =
    if (s.laneEntry l).passed old new i = true then none else s.mem.find i := by
  rw [State.retireLane_eq]
  exact DelayMem.find_clear s.mem _ i

end Lane

/-! ### Every member (R33) -/

/-- What a lane's taint count is once its words are retired. -/
def State.taintLeft (s : State) (old new : Stamp) (l : Fin 32) : Nat :=
  (s.lane l).taint - s.mem.suspects ((s.laneEntry l).passed old new)

/-- The part behind the retirement of a list of lanes. -/
structure State.Retired (s t : State) (ls : List (Fin 32)) (old new : Stamp) : Prop where
  frame : t = { s with lanes := t.lanes, mem := t.mem }
  lanes : ∀ k, t.lane k = { s.lane k with taint := (t.lane k).taint }
  others : ∀ k, k ∉ ls → t.lane k = s.lane k
  words : ∀ i, t.mem.find i = if ∃ l ∈ ls, (s.laneEntry l).passed old new i = true then none else s.mem.find i

section Fold
variable {old new : Stamp}

theorem State.Retired.refl (s : State) : s.Retired s [] old new :=
  ⟨rfl, fun _ => rfl, fun _ _ => rfl, fun _ => (if_neg fun ⟨_, h, _⟩ => absurd h List.not_mem_nil).symm⟩

theorem State.Retired.laneEntry {s t : State} {ls : List (Fin 32)} (h : s.Retired t ls old new) (l : Fin 32) :
    t.laneEntry l = s.laneEntry l := by
  have htables : t.tables = s.tables := by rw [h.frame]
  rw [State.laneEntry, htables, State.laneEntry]

theorem State.Retired.snoc {s t : State} {ls : List (Fin 32)} {l : Fin 32} (h : s.Retired t ls old new) :
    s.Retired (t.retireLane l old new) (ls ++ [l]) old new where
  frame := by
    have hframe : t.retireLane l old new = { t with
        lanes := (t.retireLane l old new).lanes, mem := (t.retireLane l old new).mem } := rfl
    generalize t.retireLane l old new = u at hframe ⊢
    rw [hframe, h.frame]
  lanes k := by
    by_cases hk : k = l
    · subst hk
      rw [State.lane_retireLane_self, h.lanes k]
    · rw [State.lane_retireLane_ne hk, h.lanes k]
  others k hk := by
    rw [List.mem_append, List.mem_singleton, not_or] at hk
    rw [State.lane_retireLane_ne hk.2, h.others k hk.1]
  words i := by
    rw [State.find_retireLane, h.laneEntry l, h.words i]
    by_cases hl : (s.laneEntry l).passed old new i = true
    · rw [if_pos hl, if_pos ⟨l, List.mem_append_right _ (List.mem_singleton_self l), hl⟩]
    · rw [if_neg hl]
      refine if_congr ⟨fun ⟨k, hk, hp⟩ => ⟨k, List.mem_append_left _ hk, hp⟩, fun ⟨k, hk, hp⟩ => ⟨k, ?_, hp⟩⟩ rfl rfl
      exact (List.mem_append.mp hk).resolve_right fun hin => hl (List.mem_singleton.mp hin ▸ hp)

theorem State.retired_foldl (s : State) (ls : List (Fin 32)) (old new : Stamp) :
    s.Retired (ls.foldl (fun s l => s.retireLane l old new) s) ls old new := by
  induction ls using List.reverseRecOn with
  | nil => exact .refl s
  | append_singleton ls l ih =>
    rw [List.foldl_append]
    exact ih.snoc

/-- Retiring one lane leaves what another will have left, where their regions are apart. -/
theorem State.taintLeft_retireLane {s : State} {l k : Fin 32}
    (h : k ≠ l → ∀ i, (s.laneEntry k).inRegion i = true → (s.laneEntry l).inRegion i = false) :
    (s.retireLane l old new).taintLeft old new k = s.taintLeft old new k := by
  unfold State.taintLeft
  rw [State.laneEntry_retireLane]
  by_cases hk : k = l
  · subst hk
    rw [State.lane_retireLane_self]
    exact (congrArg (_ - ·) DelayMem.suspects_clear_self).trans (Nat.sub_zero _)
  · rw [State.lane_retireLane_ne hk]
    refine congrArg ((s.lane k).taint - ·) (DelayMem.suspects_clear_of_disjoint (m := s.mem)
      (t := (s.laneEntry l).passed old new) (u := (s.laneEntry k).passed old new) fun i hi => ?_)
    refine Bool.eq_false_iff.mpr fun hpassed => ?_
    have hout := h hk i (LaneEntry.inRegion_of_passed hi)
    rw [LaneEntry.inRegion_of_passed hpassed] at hout
    cases hout

/-- The taint count of each lane of a list whose regions are apart, behind their retirement (R33). -/
theorem State.taint_retired {s : State} {ls : List (Fin 32)}
    (hapart : ∀ l ∈ ls, ∀ k ∈ ls, k ≠ l → ∀ i, (s.laneEntry k).inRegion i = true → (s.laneEntry l).inRegion i = false) :
    ∀ k ∈ ls, ((ls.foldl (fun s l => s.retireLane l old new) s).lane k).taint =
      ((s.retireLane k old new).lane k).taint := by
  have hkept : ∀ (ls : List (Fin 32)) (s : State) (k : Fin 32), (∀ l ∈ ls, k ≠ l → ∀ i,
      (s.laneEntry k).inRegion i = true → (s.laneEntry l).inRegion i = false) →
      (ls.foldl (fun s l => s.retireLane l old new) s).taintLeft old new k = s.taintLeft old new k := by
    intro ls
    induction ls with
    | nil => exact fun _ _ _ => rfl
    | cons l ls ih =>
      intro s k h
      rw [List.foldl_cons, ih _ k fun j hj hkj i hi => ?_]
      · exact State.taintLeft_retireLane (h l List.mem_cons_self)
      · rw [State.laneEntry_retireLane] at hi ⊢
        exact h j (List.mem_cons_of_mem l hj) hkj i hi
  intro k hk
  have hleft := hkept ls s k fun l hl hne => hapart l hl k hk hne
  have hnone : (ls.foldl (fun s l => s.retireLane l old new) s).mem.suspects ((s.laneEntry k).passed old new) = 0 := by
    refine DelayMem.suspects_eq_zero fun i hi => ?_
    rw [(s.retired_foldl ls old new).words i]
    exact if_pos ⟨k, hk, hi⟩
  unfold State.taintLeft at hleft
  rw [(s.retired_foldl ls old new).laneEntry, hnone, Nat.sub_zero] at hleft
  rw [hleft, State.lane_retireLane_self]

end Fold

end Sys2Proof.Machine
end

section
/-! SUPPORT. The schedule plays out (R117 to R119), and the read position is moved and set (R30, R33, R58, R60). -/

namespace Sys2Proof.Machine

/-! ### Entries that take effect, one after another (R117 to R119) -/

/-- The GAIN values among some entries, in order. -/
def gainValues (es : List Entry) : List Int :=
  es.filterMap fun
    | .gain _ value => some value
    | .cue _ _ _ => none

/-- The cues among some entries, in order. -/
def cueMarks (es : List Entry) : List (CueType × BitVec 16) :=
  es.filterMap fun
    | .cue _ kind mark => some (kind, mark)
    | .gain _ _ => none

/-- A gain block once these GAIN values have taken effect and so many cues were dropped. -/
def Gain.affected (g : Gain) (values : List Int) (dropped : Nat) : Gain :=
  let h := { g with forwardDrops := if dropped = 0 then g.forwardDrops else min (g.forwardDrops + dropped) 65535 }
  match values.getLast? with
  | some value => h.startRamp value
  | none => h

/-- The parcels of these cues, under the tag of the program's lane (R118). -/
def State.parcelsOf (s : State) (p : Fin 16) (cs : List (CueType × BitVec 16)) : List CueOut :=
  match s.cueTag p with
  | some tag => cs.map fun c => ⟨tag, s.house.stamp, c.1, c.2, p⟩
  | none => []

/-- As many of some parcels as the outbox has room for. -/
def State.roomFor (s : State) (cs : List CueOut) : List CueOut := cs.take (8 - s.egress.outbox.length)

/-- The part once these entries have taken effect. -/
def State.affected (s : State) (p : Fin 16) (es : List Entry) : State :=
  let placed := s.roomFor (s.parcelsOf p (cueMarks es))
  { s.setProgram p { s.program p with
      gain := (s.program p).gain.affected (gainValues es) ((cueMarks es).length - placed.length) } with
    egress := { s.egress with outbox := s.egress.outbox ++ placed } }

section Affected
variable {g : Gain} {values : List Int} {value : Int} {n : Nat}

theorem Gain.affected_snoc : g.affected (values ++ [value]) n = (g.affected values n).startRamp value := by
  unfold Gain.affected
  rw [List.getLast?_concat]
  cases values.getLast? <;> rfl

theorem Gain.affected_linear : (g.affected values n).linear = g.linear := by
  unfold Gain.affected
  cases values.getLast? <;> rfl

theorem Gain.affected_succ : g.affected values (n + 1) = { g.affected values n with
    forwardDrops := satAdd (g.affected values n).forwardDrops 1 } := by
  have hdrops : (if n + 1 = 0 then g.forwardDrops else min (g.forwardDrops + (n + 1)) 65535) =
      satAdd (if n = 0 then g.forwardDrops else min (g.forwardDrops + n) 65535) 1 := by
    unfold satAdd
    by_cases hn : n = 0
    · subst hn
      rfl
    · rw [if_neg hn, if_neg (Nat.succ_ne_zero n)]
      omega
  unfold Gain.affected
  cases values.getLast? with
  | none =>
    dsimp only
    rw [hdrops]
  | some value =>
    dsimp only [Gain.startRamp]
    rw [hdrops]

end Affected

section Take
variable {s : State} {p : Fin 16} {es : List Entry}

theorem State.affected_nil : s.affected p [] = s := by
  have hnone : s.roomFor (s.parcelsOf p (cueMarks [])) = [] := by
    unfold State.roomFor State.parcelsOf
    cases s.cueTag p <;> exact List.take_nil
  unfold State.affected
  rw [hnone]
  dsimp only
  rw [List.append_nil]
  exact s.setProgram_same p

theorem State.setProgram_withEgress (s : State) (p : Fin 16) (x y : Program) (e : Egress) :
    ({ s.setProgram p x with egress := e } : State).setProgram p y = { s.setProgram p y with egress := e } :=
  congrArg (fun u : State => { u with egress := e }) (s.setProgram_setProgram p x y)

theorem State.program_affected_self : (s.affected p es).program p = { s.program p with
    gain := (s.program p).gain.affected (gainValues es)
      ((cueMarks es).length - (s.roomFor (s.parcelsOf p (cueMarks es))).length) } := State.program_setProgram_self _ _ _

theorem State.affected_gain (t : Stamp) (value : Int) :
    s.affected p (es ++ [.gain t value]) = (s.affected p es).takeEffect p (.gain t value) := by
  have hcues : cueMarks (es ++ [.gain t value]) = cueMarks es := by simp [cueMarks]
  have hvalues : gainValues (es ++ [.gain t value]) = gainValues es ++ [value] := by simp [gainValues]
  unfold State.takeEffect
  dsimp only
  rw [State.program_affected_self]
  unfold State.affected
  dsimp only
  rw [hcues, hvalues, Gain.affected_snoc, State.setProgram_withEgress]

/-- One more cue without a lane or a place is one more forward drop (R118). -/
theorem State.affected_lost {c : CueType × BitVec 16} {es' : List Entry} (hvalues : gainValues es' = gainValues es)
    (hcues : cueMarks es' = cueMarks es ++ [c])
    (hplaced : s.roomFor (s.parcelsOf p (cueMarks es')) = s.roomFor (s.parcelsOf p (cueMarks es)))
    (hle : (s.roomFor (s.parcelsOf p (cueMarks es))).length ≤ (cueMarks es).length) :
    s.affected p es' = (s.affected p es).dropForward p := by
  unfold State.dropForward
  dsimp only
  rw [State.program_affected_self]
  unfold State.affected
  dsimp only
  have hlength : (cueMarks es').length - (s.roomFor (s.parcelsOf p (cueMarks es'))).length =
      (cueMarks es).length - (s.roomFor (s.parcelsOf p (cueMarks es))).length + 1 := by
    rw [hplaced, hcues, List.length_append, List.length_singleton]
    omega
  rw [hlength, hvalues, hplaced, Gain.affected_succ, State.setProgram_withEgress]

theorem State.parcelsOf_length_le (s : State) (p : Fin 16) (cs : List (CueType × BitVec 16)) :
    (s.parcelsOf p cs).length ≤ cs.length := by
  unfold State.parcelsOf
  cases s.cueTag p with
  | none => exact Nat.zero_le _
  | some tag => exact (List.length_map _).le

theorem State.roomFor_length (s : State) (cs : List CueOut) :
    (s.roomFor cs).length = min (8 - s.egress.outbox.length) cs.length := List.length_take

theorem State.affected_cue (t : Stamp) (kind : CueType) (mark : BitVec 16) :
    s.affected p (es ++ [.cue t kind mark]) = (s.affected p es).takeEffect p (.cue t kind mark) := by
  have hcues : cueMarks (es ++ [.cue t kind mark]) = cueMarks es ++ [(kind, mark)] := by simp [cueMarks]
  have hvalues : gainValues (es ++ [.cue t kind mark]) = gainValues es := by simp [gainValues]
  have hle : (s.roomFor (s.parcelsOf p (cueMarks es))).length ≤ (cueMarks es).length := by
    rw [State.roomFor_length]
    exact (Nat.min_le_right _ _).trans (s.parcelsOf_length_le p _)
  have htag : (s.affected p es).cueTag p = s.cueTag p := rfl
  unfold State.takeEffect State.forwardCue
  dsimp only
  rw [htag]
  cases hlane : s.cueTag p with
  | none =>
    refine State.affected_lost hvalues hcues ?_ hle
    simp only [State.parcelsOf, hlane]
  | some tag =>
    dsimp only
    have hparcels : ∀ cs, s.parcelsOf p cs = cs.map fun c => ⟨tag, s.house.stamp, c.1, c.2, p⟩ := fun cs => by
      simp only [State.parcelsOf, hlane]
    have hroom : (s.affected p es).egress.outbox.length =
        s.egress.outbox.length + (s.roomFor (s.parcelsOf p (cueMarks es))).length := List.length_append
    rw [State.roomFor_length, hparcels, List.length_map] at hroom
    unfold State.placeCue
    by_cases hlt : (s.affected p es).egress.outbox.length < outboxSize
    · rw [if_pos hlt]
      have hlt' : s.egress.outbox.length + min (8 - s.egress.outbox.length) (cueMarks es).length < 8 := hroom ▸ hlt
      have hall : s.roomFor (s.parcelsOf p (cueMarks es)) = s.parcelsOf p (cueMarks es) :=
        List.take_of_length_le (by rw [hparcels, List.length_map]; omega)
      have hmore : s.roomFor (s.parcelsOf p (cueMarks (es ++ [.cue t kind mark]))) =
          s.parcelsOf p (cueMarks es) ++ [⟨tag, s.house.stamp, kind, mark, p⟩] := by
        rw [hcues, hparcels, hparcels, List.map_append]
        exact List.take_of_length_le (by rw [List.length_append, List.length_map, List.length_map, List.length_singleton]; omega)
      unfold State.affected
      dsimp only
      rw [hmore, hall, hcues, hvalues, List.length_append, List.length_append, List.length_singleton, List.length_singleton,
        Nat.add_sub_add_right, List.append_assoc]
      rfl
    · rw [if_neg hlt]
      refine State.affected_lost hvalues hcues ?_ hle
      have hlt' : ¬ s.egress.outbox.length + min (8 - s.egress.outbox.length) (cueMarks es).length < 8 := hroom ▸ hlt
      rw [hcues, hparcels, hparcels, List.map_append]
      refine List.take_append_of_le_length ?_
      rw [List.length_map]
      omega

/-- Entries that take effect in order (R117). -/
theorem State.foldl_takeEffect (s : State) (p : Fin 16) (es : List Entry) :
    es.foldl (fun s e => s.takeEffect p e) s = s.affected p es := by
  induction es using List.reverseRecOn with
  | nil => exact State.affected_nil.symm
  | append_singleton es e ih =>
    rw [List.foldl_append, ih]
    cases e with
    | gain t value => exact (State.affected_gain t value).symm
    | cue t kind mark => exact (State.affected_cue t kind mark).symm

end Take

/-! ### The schedule plays out (R117) -/

/-- The part once the schedule has played out to a stamp. -/
def State.playedTo (s : State) (p : Fin 16) (at_ : Stamp) : State :=
  let placed := (s.cuesOut p at_ s.house.stamp).take (8 - s.egress.outbox.length)
  { s.setProgram p { s.program p with
      gain := (s.program p).gain.playedOut at_ ((s.dueCues p at_).length - placed.length) } with
    egress := { s.egress with outbox := s.egress.outbox ++ placed } }

theorem gainValues_due (es : List Entry) (at_ : Stamp) : gainValues (es.filter fun e => !ahead e.stamp at_) =
    es.filterMap fun
      | .gain t value => if ahead t at_ then none else some value
      | .cue _ _ _ => none := by
  unfold gainValues
  rw [List.filterMap_filter]
  congr
  funext e
  cases e with
  | gain t value => cases h : ahead t at_ <;> simp [Entry.stamp, h]
  | cue t kind mark => simp

theorem State.cueMarks_due (s : State) (p : Fin 16) (at_ : Stamp) :
    cueMarks ((s.program p).gain.schedule.filter fun e => !ahead e.stamp at_) = s.dueCues p at_ := by
  unfold cueMarks State.dueCues
  rw [List.filterMap_filter]
  congr
  funext e
  cases e with
  | gain t value => simp
  | cue t kind mark => cases h : ahead t at_ <;> simp [Entry.stamp, h]

theorem Gain.playedOut_eq (g : Gain) (at_ : Stamp) (n : Nat) : g.playedOut at_ n =
    { g with schedule := g.schedule.filter fun y => ahead y.stamp at_ }.affected
      (gainValues (g.schedule.filter fun e => !ahead e.stamp at_)) n := by
  rw [gainValues_due]
  rfl

theorem State.playOut_of_pos {s : State} {p : Fin 16} {P : ReadPos} (h : (s.program p).conv.pos = some P) :
    s.playOut p = s.playedTo p P.stamp := by
  unfold State.playOut
  dsimp only
  rw [h]
  dsimp only
  rw [State.foldl_takeEffect]
  unfold State.playedTo State.affected
  dsimp only
  rw [s.cueMarks_due p P.stamp, Gain.playedOut_eq, State.program_setProgram_self, State.setProgram_setProgram]
  rfl

/-! ### The retired edge follows the position (R30, R33) -/

theorem LaneEntry.passed_of_not_ahead {e : LaneEntry} {old new : Stamp} (h : ahead new old = false) (i : Nat) :
    e.passed old new i = false := by
  have hle : ¬ 0 < stampDiff new old := of_decide_eq_false h
  refine Bool.and_eq_false_iff.mpr (.inr (decide_eq_false fun hlt => hle ?_))
  exact lt_of_le_of_lt (Int.natCast_nonneg _) hlt

theorem State.retire_retired (s : State) (p : Fin 16) (old new : Stamp) :
    s.Retired (s.retire p (some old) (some new)) (s.entry p).members old new := by
  cases h : ahead new old with
  | true =>
    rw [State.retire, if_pos h]
    exact s.retired_foldl _ old new
  | false =>
    rw [State.retire, if_neg (Bool.eq_false_iff.mp h)]
    exact ⟨rfl, fun _ => rfl, fun _ _ => rfl, fun i => (if_neg fun ⟨l, _, hp⟩ => by
      rw [LaneEntry.passed_of_not_ahead h] at hp
      cases hp).symm⟩

theorem LaneEntry.inRegion_iff {e : LaneEntry} {i : Nat} : e.inRegion i = true ↔
    e.startPage * 1024 ≤ i ∧ i < e.startPage * 1024 + e.sizePages * 1024 := by
  rw [LaneEntry.inRegion, Bool.and_eq_true, decide_eq_true_iff, decide_eq_true_iff]
  rfl

/-- The rings of a program that is not PARKED share no word (R40). -/
theorem State.members_apart {s : State} {p : Fin 16} (hstarted : s.startedOk) (hapart : s.ringsApart)
    (hactive : s.active p = true) {l k : Fin 32} (hl : l ∈ (s.entry p).members) (hk : k ∈ (s.entry p).members)
    (hne : k ≠ l) {i : Nat} (hi : (s.laneEntry k).inRegion i = true) : (s.laneEntry l).inRegion i = false := by
  obtain ⟨_, hdefined, hlanes⟩ := hstarted
  have hstatus : ∀ j ∈ (s.entry p).members, (s.lane j).status ≠ .parked := fun j hj =>
    (hlanes j).mpr ⟨p, hdefined p hactive, hj, hactive⟩
  refine Bool.eq_false_iff.mpr fun hin => ?_
  rw [LaneEntry.inRegion_iff] at hi hin
  have := hapart k l hne (hstatus k hk) (hstatus l hl)
  omega

theorem State.taint_retire {s : State} {p : Fin 16} (hstarted : s.startedOk) (hapart : s.ringsApart)
    (hactive : s.active p = true) (old new : Stamp) : ∀ l ∈ (s.entry p).members,
      ((s.retire p (some old) (some new)).lane l).taint = ((s.retireLane l old new).lane l).taint := by
  intro l hl
  cases h : ahead new old with
  | true =>
    rw [State.retire, if_pos h]
    exact State.taint_retired (fun l hl k hk hne i hi => State.members_apart hstarted hapart hactive hl hk hne hi) l hl
  | false =>
    have hnone : s.mem.suspects ((s.laneEntry l).passed old new) = 0 := DelayMem.suspects_eq_zero fun i hi => by
      rw [LaneEntry.passed_of_not_ahead h] at hi
      cases hi
    rw [State.retire, if_neg (Bool.eq_false_iff.mp h), State.lane_retireLane_self, hnone]
    rfl

/-! ### The read position moves (R33, R58, R60) -/

/-- The program with its read position here. -/
def State.standing (s : State) (p : Fin 16) (Q : ReadPos) : State :=
  s.setProgram p { s.program p with conv := { (s.program p).conv with pos := some Q } }

/-- And the retired edge behind it. -/
def State.edgeMoved (s : State) (p : Fin 16) (Q : ReadPos) : State :=
  (s.standing p Q).retire p (s.edge p) (some (s.edgeAt p Q))

section Move
variable (s : State) (p : Fin 16) (Q : ReadPos)

theorem State.edge_standing : (s.standing p Q).edge p = some (s.edgeAt p Q) := by
  unfold State.edge State.standing State.edgeAt
  rw [State.program_setProgram_self]
  dsimp only
  cases (s.program p).meter.pos <;> rfl

theorem State.edgeMoved_frame : s.edgeMoved p Q = { s.standing p Q with
    lanes := (s.edgeMoved p Q).lanes, mem := (s.edgeMoved p Q).mem } := by
  unfold State.edgeMoved
  cases s.edge p with
  | none => rfl
  | some old => exact ((s.standing p Q).retire_retired p old _).frame

theorem State.program_edgeMoved : (s.edgeMoved p Q).program p = { s.program p with
    conv := { (s.program p).conv with pos := some Q } } := by
  rw [State.program, State.edgeMoved_frame]
  exact State.program_setProgram_self _ _ _

theorem State.movePos_eq : s.movePos p Q = (s.edgeMoved p Q).playedTo p Q.stamp := by
  have hpos : ((s.edgeMoved p Q).program p).conv.pos = some Q := by rw [State.program_edgeMoved]
  rw [← State.playOut_of_pos hpos, State.movePos]
  unfold State.edgeMoved
  rw [← State.edge_standing]
  rfl

end Move

end Sys2Proof.Machine
end

section
/-! SUPPORT. The read position set to a stamp (R33, R58, R60), and the fill reached and the warm-up ended (R42, R43). -/

namespace Sys2Proof.Machine

/-! ### The position moved, its schedule played out and its edge behind it -/

section Move
variable (s : State) (p : Fin 16) (Q : ReadPos)

theorem State.cuesOut_congr {s t : State} (htag : t.cueTag p = s.cueTag p)
    (hgain : (t.program p).gain.schedule = (s.program p).gain.schedule) (at_ stamp : Stamp) :
    t.cuesOut p at_ stamp = s.cuesOut p at_ stamp := by
  unfold State.cuesOut State.dueCues
  rw [htag, hgain]

theorem State.cueTag_congr {s t : State} (h : t.egress = s.egress) : t.cueTag p = s.cueTag p := by
  simp only [State.cueTag, State.mapEntry, h]

/-- The program with its position here and its schedule played out. -/
def State.posPlayed : Program :=
  { s.program p with
    conv := { (s.program p).conv with pos := some Q }
    gain := (s.program p).gain.playedOut Q.stamp ((s.dueCues p Q.stamp).length -
      ((s.cuesOut p Q.stamp s.house.stamp).take (8 - s.egress.outbox.length)).length) }

theorem State.movePos_frame : s.movePos p Q = { s.setProgram p (s.posPlayed p Q) with
    lanes := (s.edgeMoved p Q).lanes, mem := (s.edgeMoved p Q).mem
    egress := { s.egress with
      outbox := s.egress.outbox ++ (s.cuesOut p Q.stamp s.house.stamp).take (8 - s.egress.outbox.length) } } := by
  have hframe := s.edgeMoved_frame p Q
  have hprogram := s.program_edgeMoved p Q
  rw [State.movePos_eq]
  generalize s.edgeMoved p Q = e at hframe hprogram ⊢
  have hegress : e.egress = s.egress := by rw [hframe]; rfl
  have hhouse : e.house = s.house := by rw [hframe]; rfl
  have hdue : e.dueCues p Q.stamp = s.dueCues p Q.stamp := by
    unfold State.dueCues
    rw [hprogram]
  have hcues : e.cuesOut p Q.stamp e.house.stamp = s.cuesOut p Q.stamp s.house.stamp := by
    rw [hhouse]
    exact State.cuesOut_congr p (State.cueTag_congr p hegress) (by rw [hprogram]) _ _
  unfold State.playedTo
  rw [hcues, hdue, hegress, hprogram]
  have hset : e.setProgram p (s.posPlayed p Q) = { s.setProgram p (s.posPlayed p Q) with lanes := e.lanes, mem := e.mem } := by
    conv_lhs => rw [hframe]
    exact congrArg (fun u : State => { u with lanes := e.lanes, mem := e.mem }) (s.setProgram_setProgram p _ _)
  exact congrArg (fun u : State => { u with egress := { s.egress with
    outbox := s.egress.outbox ++ (s.cuesOut p Q.stamp s.house.stamp).take (8 - s.egress.outbox.length) } }) hset

theorem State.lane_movePos (l : Fin 32) : (s.movePos p Q).lane l = (s.edgeMoved p Q).lane l := by
  rw [State.movePos_frame]
  rfl

/-- What the retired edge does to lanes and words as the position moves (R30, R33). -/
structure State.EdgeMoves (s t : State) (p : Fin 16) (Q : ReadPos) : Prop where
  lanes : ∀ l, t.lane l = { s.lane l with taint := (t.lane l).taint }
  others : ∀ l, l ∉ (s.entry p).members → t.lane l = s.lane l
  still : s.edge p = none → t.lanes = s.lanes ∧ t.mem = s.mem
  words : ∀ old, s.edge p = some old → s.lanesOk → ∀ j,
    (s.leftBehind p old (s.edgeAt p Q) j → t.mem.find j = none) ∧
      (¬ s.leftBehind p old (s.edgeAt p Q) j → t.mem.find j = s.mem.find j)
  taint : ∀ old, s.edge p = some old → s.startedOk → s.ringsApart → s.active p = true → ∀ l ∈ (s.entry p).members,
    (t.lane l).taint = ((s.retireLane l old (s.edgeAt p Q)).lane l).taint

/-- The words left behind are those the retirement finds (R33). -/
theorem State.leftBehind_iff {s : State} {p : Fin 16} (hlanes : s.lanesOk) (old new : Stamp) (j : Nat) :
    s.leftBehind p old new j ↔ ∃ l ∈ (s.entry p).members, (s.laneEntry l).passed old new j = true :=
  exists_congr fun l => and_congr_right fun _ => (LaneEntry.passed_iff (hlanes.1 l).1 old new j).symm

theorem State.edgeMoved_moves : s.EdgeMoves (s.edgeMoved p Q) p Q := by
  have hstanding : ∀ l, (s.standing p Q).lane l = s.lane l := fun l => rfl
  have hentry : ∀ l, (s.standing p Q).laneEntry l = s.laneEntry l := fun l => rfl
  unfold State.edgeMoved
  cases hedge : s.edge p with
  | none =>
    exact ⟨fun l => rfl, fun l _ => rfl, fun _ => ⟨rfl, rfl⟩, fun old h => absurd (hedge.symm.trans h) nofun,
      fun old h => absurd (hedge.symm.trans h) nofun⟩
  | some old =>
    have hretired := (s.standing p Q).retire_retired p old (s.edgeAt p Q)
    have htranquil : s.Tranquil (s.standing p Q) := .setProgram (.conv _)
    refine ⟨hretired.lanes, hretired.others, fun h => absurd (hedge.symm.trans h) nofun, fun o ho hlanes j => ?_,
      fun o ho hstarted hapart hactive l hl => ?_⟩
    · rw [← Option.some.inj (hedge.symm.trans ho), State.leftBehind_iff hlanes, hretired.words j]
      exact ⟨fun h => if_pos h, fun h => if_neg h⟩
    · rw [← Option.some.inj (hedge.symm.trans ho)]
      have hstarted' : (s.standing p Q).startedOk :=
        State.startedOk_congr (s := s) rfl (fun _ => Iff.rfl) htranquil.toOrderly.parked hstarted
      have hactive' : (s.standing p Q).active p = true := by
        rw [State.active, bne_iff_ne] at hactive ⊢
        exact (htranquil.toOrderly.parked p).not.mpr hactive
      exact (State.taint_retire hstarted' hapart hactive' old _ l hl).trans rfl

theorem State.movePos_moves : s.EdgeMoves (s.movePos p Q) p Q := by
  have hmoves := s.edgeMoved_moves p Q
  have hlane := s.lane_movePos p Q
  have hframe := s.movePos_frame p Q
  generalize s.movePos p Q = t at hlane hframe ⊢
  have hlanes : t.lanes = (s.edgeMoved p Q).lanes := by rw [hframe]
  have hmem : t.mem = (s.edgeMoved p Q).mem := by rw [hframe]
  refine ⟨fun l => ?_, fun l hl => ?_, fun h => ?_, fun old ho hl j => ?_, fun old ho hs ha hp l hl => ?_⟩
  · rw [hlane l]
    exact hmoves.lanes l
  · rw [hlane l]
    exact hmoves.others l hl
  · rw [hlanes, hmem]
    exact hmoves.still h
  · rw [hmem]
    exact hmoves.words old ho hl j
  · rw [hlane l]
    exact hmoves.taint old ho hs ha hp l hl

/-- The program without its hold flag (R60). -/
def State.unheld : State := s.setProgram p { s.program p with conv := { (s.program p).conv with hold := false } }

theorem State.program_unheld : (s.unheld p).program p =
    { s.program p with conv := { (s.program p).conv with hold := false } } := State.program_setProgram_self _ _ _

theorem State.edge_unheld : (s.unheld p).edge p = s.edge p := by
  rw [State.edge, State.program_unheld, State.edge]

theorem State.edgeAt_unheld : (s.unheld p).edgeAt p Q = s.edgeAt p Q := by
  rw [State.edgeAt, State.program_unheld, State.edgeAt]

/-- A stamp set as the read position, as `State.MovesTo` says (R33, R58, R60, R117, R118). -/
theorem State.setPos_movesTo (t : Stamp) (hactive : s.active p = true) : s.MovesTo p t (s.setPos p t) := by
  have hframe := (s.unheld p).movePos_frame p ⟨t, 0⟩
  have hmoves := (s.unheld p).movePos_moves p ⟨t, 0⟩
  have hset : s.setPos p t = (s.unheld p).movePos p ⟨t, 0⟩ := rfl
  have hdue : (s.unheld p).dueCues p t = s.dueCues p t := by
    unfold State.dueCues
    rw [State.program_unheld]
  have hcues : (s.unheld p).cuesOut p t (s.unheld p).house.stamp = s.cuesOut p t s.house.stamp :=
    State.cuesOut_congr (s := s) (t := s.unheld p) p rfl (by rw [State.program_unheld]) _ _
  have hplayed : (s.unheld p).setProgram p ((s.unheld p).posPlayed p ⟨t, 0⟩) = s.setProgram p { s.program p with
      conv := { (s.program p).conv with pos := some ⟨t, 0⟩, hold := false }
      gain := (s.program p).gain.playedOut t ((s.dueCues p t).length -
        ((s.cuesOut p t s.house.stamp).take (8 - s.egress.outbox.length)).length) } := by
    unfold State.posPlayed
    rw [hdue, hcues, State.program_unheld]
    exact s.setProgram_setProgram p _ _
  rw [hplayed, hcues] at hframe
  rw [hset]
  generalize (s.unheld p).movePos p ⟨t, 0⟩ = u at hframe hmoves ⊢
  have hmem : u.mem = ((s.unheld p).edgeMoved p ⟨t, 0⟩).mem := by rw [hframe]
  have hlanes : u.lanes = ((s.unheld p).edgeMoved p ⟨t, 0⟩).lanes := by rw [hframe]
  rw [← hmem, ← hlanes] at hframe
  have htranquil : s.Tranquil (s.unheld p) := .setProgram (.conv _)
  refine ⟨hframe, hmoves.lanes, hmoves.others, fun old hold => ⟨fun hok j => ?_, fun _ hstarted hapart l hl => ?_⟩⟩
  · have hwords := hmoves.words old ((s.edge_unheld p).trans hold) hok j
    rw [s.edgeAt_unheld p] at hwords
    exact hwords
  · have htaint := hmoves.taint old ((s.edge_unheld p).trans hold)
      (State.startedOk_congr (s := s) rfl (fun _ => Iff.rfl) htranquil.toOrderly.parked hstarted) hapart (by
        rw [State.active, bne_iff_ne] at hactive ⊢
        exact (htranquil.toOrderly.parked p).not.mpr hactive) l hl
    rw [s.edgeAt_unheld p] at htaint
    exact htaint

/-- The program whose position has been set. -/
theorem State.MovesTo.program {s u : State} {p : Fin 16} {t : Stamp} (h : s.MovesTo p t u) :
    u.program p = { s.program p with
      conv := { (s.program p).conv with pos := some ⟨t, 0⟩, hold := false }, gain := (u.program p).gain } := by
  have hprogram : u.program p = { s.program p with
      conv := { (s.program p).conv with pos := some ⟨t, 0⟩, hold := false }
      gain := (s.program p).gain.playedOut t ((s.dueCues p t).length -
        ((s.cuesOut p t s.house.stamp).take (8 - s.egress.outbox.length)).length) } := by
    rw [h.1]
    exact s.program_setProgram_self p _
  rw [hprogram]

end Move

/-! ### The fill is reached (R42) -/

section Fill
variable {s : State} {p : Fin 16}

theorem State.fillAtLeast_iff (W : Stamp) (P : ReadPos) (n : Nat) : fillAtLeast W P n = true ↔
    (n : Int) * 16777216 ≤ stampDiff W P.stamp * 16777216 - P.frac.toNat := decide_eq_true_iff

theorem State.leaderLost_congr {t : State} (htables : t.tables = s.tables)
    (hlane : ∀ l, (t.lane l).status = (s.lane l).status) : t.leaderLost p = s.leaderLost p := by
  simp only [State.leaderLost, State.leader, State.entry, htables, hlane]

/-- A program with its warm-up to count (R42). -/
def Play.warming (x : Play) : Play := { x with state := .warming, warmUpLeft := 48 * x.warmUpSet }

theorem State.enterWarming_at {W : Stamp} (hW : s.leaderHorizon p = some W) : s.enterWarming p =
    let u := s.setPos p (W - BitVec.ofNat 32 (s.program p).servo.fill)
    let v := u.setProgram p { u.program p with play := (u.program p).play.warming }
    if v.leaderLost p then v.requestResync p else v.followThrough := by
  unfold State.enterWarming
  rw [hW]
  rfl

end Fill

/-- Settles O31: the fill reached, and the warm-up ended. -/
theorem fillAndWarmUpComplete : Obligations.FillAndWarmUpComplete := by
  intro s p hrunning
  refine ⟨fun P W hstate hP hW hfill => ?_, fun hstate hleft => ?_⟩
  · have hdue : s.fillReachedDue p = true := by
      rw [State.fillReachedDue, hP, hW, State.playState, hstate]
      exact (State.fillAtLeast_iff _ _ _).mpr hfill
    have hrun : exec (.fillReached p) s = .next (s.enterWarming p) :=
      congrArg Host.Outcome.next (State.ownCommand_of_due hrunning hdue _)
    have hmoves := s.setPos_movesTo p (W - BitVec.ofNat 32 (s.program p).servo.fill)
      (by rw [State.active, State.playState, hstate]; rfl)
    rw [State.enterWarming_at hW] at hrun
    generalize s.setPos p (W - BitVec.ofNat 32 (s.program p).servo.fill) = u at hrun hmoves
    have hprogram := hmoves.program
    obtain ⟨hframe, hlanes, _⟩ := id hmoves
    have htables : u.tables = s.tables := by
      rw [hframe]
      rfl
    have hlost : (u.setProgram p { u.program p with play := (u.program p).play.warming }).leaderLost p =
        s.leaderLost p :=
      State.leaderLost_congr (by rw [State.setProgram_tables, htables]) fun l => by
        rw [State.lane_setProgram, hlanes l]
    have hplay : (u.program p).play = (s.program p).play := by rw [hprogram]
    have hservo : (u.program p).servo = (s.program p).servo := by rw [hprogram]
    have hpos : (u.program p).conv.pos.isSome = true := by rw [hprogram]; rfl
    have hhold : (u.program p).conv.hold = false := by rw [hprogram]
    dsimp only at hrun
    rw [hlost] at hrun
    cases hleader : s.leaderLost p with
    | false =>
      rw [hleader] at hrun
      exact ⟨u, _, hrun, hmoves, fun _ => by rw [← hplay]; rfl, nofun⟩
    | true =>
      have hresyncs : ((u.setProgram p { u.program p with play := (u.program p).play.warming }).program p).resyncs =
          true := by
        rw [State.program_setProgram_self, Program.resyncs, hpos]
        rfl
      rw [hleader, if_pos rfl, State.requestResync_eq, if_pos hresyncs, State.program_setProgram_self,
        State.setProgram_setProgram] at hrun
      refine ⟨u, _, hrun, hmoves, nofun, fun _ => ?_⟩
      rw [← hplay, ← hservo]
      refine congrArg (u.setProgram p) ?_
      unfold Program.resyncing Program.suspend
      rw [← hhold]
      rfl
  · have hdue : s.warmUpEndDue p = true := by
      rw [State.warmUpEndDue, State.playState, hstate, hleft]
      rfl
    refine (congrArg Host.Outcome.next (State.ownCommand_of_due hrunning hdue _)).trans ?_
    unfold State.endWarmUp State.enterRunning
    dsimp only
    rw [State.program_setProgram_self, State.setProgram_setProgram]

end Sys2Proof.Machine
end

section
/-! SUPPORT. The jump (R82 to R84): P set and the jump ended, its cues in program order (R118). -/

namespace Sys2Proof.Machine

/-! ### Parcels placed one after another (R118) -/

section Place
variable {s u v : State} {cs : List CueOut} {c : CueOut}

theorem State.PlacesBehind.nil (s : State) : s.PlacesBehind [] s := by
  unfold State.PlacesBehind
  dsimp only
  rw [List.take_nil, List.append_nil]
  exact ⟨rfl, fun q => (if_pos rfl).symm⟩

/-- So many more forward drops of a program (R118). -/
def Program.dropping (x : Program) (n : Nat) : Program :=
  if n = 0 then x else { x with gain := { x.gain with forwardDrops := min (x.gain.forwardDrops + n) 65535 } }

theorem Program.dropping_succ (x : Program) (n : Nat) : x.dropping (n + 1) =
    { x.dropping n with gain := { (x.dropping n).gain with forwardDrops := satAdd (x.dropping n).gain.forwardDrops 1 } } := by
  unfold Program.dropping satAdd
  rw [if_neg (Nat.succ_ne_zero n)]
  by_cases hn : n = 0
  · subst hn
    rfl
  · rw [if_neg hn]
    dsimp only
    rw [show min (min (x.gain.forwardDrops + n) 65535 + 1) 65535 = min (x.gain.forwardDrops + (n + 1)) 65535 by omega]

theorem State.PlacesBehind.snoc (h : s.PlacesBehind cs u) : s.PlacesBehind (cs ++ [c]) (u.placeCue c) := by
  obtain ⟨hframe, hprogram⟩ := h
  have hprogram : ∀ q, u.program q = (s.program q).dropping
      ((cs.drop (cs.take (8 - s.egress.outbox.length)).length).countP fun c => c.program == q) := hprogram
  have hlength : u.egress.outbox.length = s.egress.outbox.length + (cs.take (8 - s.egress.outbox.length)).length := by
    rw [hframe]
    exact List.length_append
  rw [List.length_take] at hlength
  unfold State.placeCue
  by_cases hroom : u.egress.outbox.length < outboxSize
  · have hroom' : s.egress.outbox.length + min (8 - s.egress.outbox.length) cs.length < 8 := hlength ▸ hroom
    have hall : cs.take (8 - s.egress.outbox.length) = cs := List.take_of_length_le (by omega)
    have hmore : (cs ++ [c]).take (8 - s.egress.outbox.length) = cs ++ [c] :=
      List.take_of_length_le (by rw [List.length_append, List.length_singleton]; omega)
    rw [if_pos hroom]
    unfold State.PlacesBehind
    dsimp only
    rw [hmore]
    rw [hall] at hframe hprogram
    refine ⟨?_, fun q => ?_⟩
    · conv_lhs => rw [hframe]
      dsimp only
      rw [List.append_assoc]
    · rw [List.drop_length] at hprogram ⊢
      exact hprogram q
  · have hroom' : ¬ s.egress.outbox.length + min (8 - s.egress.outbox.length) cs.length < 8 := hlength ▸ hroom
    have hsame : (cs ++ [c]).take (8 - s.egress.outbox.length) = cs.take (8 - s.egress.outbox.length) :=
      List.take_append_of_le_length (by omega)
    have hlost : (cs ++ [c]).drop (cs.take (8 - s.egress.outbox.length)).length =
        cs.drop (cs.take (8 - s.egress.outbox.length)).length ++ [c] :=
      List.drop_append_of_le_length (by rw [List.length_take]; omega)
    rw [if_neg hroom]
    unfold State.PlacesBehind
    dsimp only
    rw [hsame, hlost]
    refine ⟨?_, fun q => ?_⟩
    · obtain ⟨programs, hdrop⟩ : ∃ x, u.dropForward c.program = { u with programs := x } := ⟨_, rfl⟩
      rw [hdrop, hframe]
    · rw [List.countP_append, List.countP_singleton]
      unfold State.dropForward
      by_cases hq : q = c.program
      · subst hq
        rw [State.program_setProgram_self, beq_self_eq_true, if_pos rfl, hprogram]
        exact (Program.dropping_succ _ _).symm
      · rw [State.program_setProgram_ne _ _ hq, hprogram q, beq_false_of_ne (Ne.symm hq), if_neg Bool.false_ne_true]
        rfl

theorem State.placeCues_behind (s : State) (cs : List CueOut) : s.PlacesBehind cs (cs.foldl State.placeCue s) := by
  induction cs using List.reverseRecOn with
  | nil => exact .nil s
  | append_singleton cs c ih =>
    rw [List.foldl_append]
    exact ih.snoc

theorem State.PlacesBehind.kept (h : s.PlacesBehind cs v) (q : Fin 16) : v.program q = { s.program q with
    gain := (v.program q).gain } := by
  rw [h.2 q]
  dsimp only
  split <;> rfl

end Place

/-! ### The end of a jump (R83, R84) -/

/-- The program out of its jump. -/
def Program.jumped (x : Program) : Program := { x with servo := { x.servo with mode := .track, phase := none } }

/-- A jump that moved ends in TRACK with a discontinuity marked (R83, R84, R160). -/
theorem State.endJump_marked (v : State) (p : Fin 16) : ∃ lanes : Vector EgressLane 32,
    v.endJump p = ({ v.setProgram p (v.program p).jumped with
      egress := { v.egress with lanes := lanes } } : State).followThrough ∧
    ∀ e : Fin 32, lanes[e] = { v.egressLane e with owed := (v.egressLane e).owed || v.feeds p e } := by
  have hmark := (v.setProgram p (v.program p).jumped).markDiscontinuity_frame p
  have hlane := (v.setProgram p (v.program p).jumped).egressLane_markDiscontinuity p
  have hfeeds : ∀ e, (v.setProgram p (v.program p).jumped).feeds p e = v.feeds p e :=
    State.feeds_congr rfl fun q => by
      by_cases hq : q = p
      · subst hq
        rw [State.program_setProgram_self]
        rfl
      · rw [State.program_setProgram_ne _ _ hq]
  refine ⟨((v.setProgram p (v.program p).jumped).markDiscontinuity p).egress.lanes, ?_, fun e => ?_⟩
  · exact congrArg State.followThrough hmark
  · rw [← hfeeds e]
    exact hlane e

section Jump
variable {s a u : State} {p : Fin 16} {cs : List CueOut} {t : Stamp}

/-- What a jump's move leaves of the egress lanes and the latches. -/
theorem State.jump_feeds (hmoves : a.MovesTo p t u) (hlanes : a.egress.lanes = s.egress.lanes)
    (hmap : a.egress.map = s.egress.map) (hprograms : a.programs = s.programs) {v : State} (hplaces : u.PlacesBehind cs v) :
    (v.program p).servo = (s.program p).servo ∧ (∀ e, v.egressLane e = s.egressLane e) ∧ ∀ e, v.feeds p e = s.feeds p e := by
  have hprogram := hmoves.program
  have huegress : u.egress.lanes = s.egress.lanes ∧ u.egress.map = s.egress.map := by
    rw [hmoves.1]
    exact ⟨hlanes, hmap⟩
  have hvegress : v.egress.lanes = s.egress.lanes ∧ v.egress.map = s.egress.map := by
    rw [hplaces.1]
    exact huegress
  have hself : ∀ q, a.program q = s.program q := fun q => by rw [State.program, hprograms, State.program]
  have hkept : ∀ q, (v.program q).servo = (s.program q).servo ∧ (v.program q).change = (s.program q).change := fun q => by
    rw [hplaces.kept q, ← hself q]
    by_cases hq : q = p
    · subst hq
      rw [hprogram]
      exact ⟨rfl, rfl⟩
    · have hother : u.program q = a.program q := by
        rw [hmoves.1]
        exact State.program_setProgram_ne _ _ hq
      rw [hother]
      exact ⟨rfl, rfl⟩
  refine ⟨(hkept p).1, fun e => ?_, fun e => ?_⟩
  · rw [State.egressLane, hvegress.1, State.egressLane]
  · simp only [State.feeds, State.mapEntry, State.egressLane, hvegress, (hkept _).2]
    rfl

theorem State.fadeOutEnd_at {P : ReadPos} {W : Stamp} (hP : (s.program p).conv.pos = some P)
    (hW : s.leaderHorizon p = some W) : s.fadeOutEnd p =
      if fillAtLeast W P (s.program p).servo.fill then
        (s.inProgramOrder p fun t => t.setPos p (W - BitVec.ofNat 32 (s.program p).servo.fill)).endJump p
      else s.setProgram p { s.program p with servo := { (s.program p).servo with phase := some .hold } } := by
  unfold State.fadeOutEnd
  rw [hP, hW]

/-- The part with the cues of higher programs at this house sample taken out (R118). -/
def State.aside (s : State) (p : Fin 16) : State :=
  { s with egress := { s.egress with
    outbox := s.egress.cuesBefore ++ s.egress.cuesSince.filter fun c => decide (c.program ≤ p) } }

theorem State.inProgramOrder_at (s : State) (p : Fin 16) (effect : State → State) : s.inProgramOrder p effect =
    (s.egress.cuesSince.filter fun c => decide (p < c.program)).foldl State.placeCue (effect (s.aside p)) := rfl

end Jump

/-- A jump that moves from here, with cues of higher programs behind (R83, R84, R118). -/
theorem State.jump_moves {s a u v : State} {p : Fin 16} {cs : List CueOut} {t : Stamp} (hmoves : a.MovesTo p t u)
    (hlanes : a.egress.lanes = s.egress.lanes) (hmap : a.egress.map = s.egress.map) (hprograms : a.programs = s.programs)
    (hplaces : u.PlacesBehind cs v) : ∃ lanes : Vector EgressLane 32,
      v.endJump p = ({ v.setProgram p { v.program p with
        servo := { (s.program p).servo with mode := .track, phase := none } } with
          egress := { v.egress with lanes := lanes } } : State).followThrough ∧
      ∀ e : Fin 32, lanes[e] = { s.egressLane e with owed := (s.egressLane e).owed || s.feeds p e } := by
  obtain ⟨hservo, hlane, hfeeds⟩ := State.jump_feeds hmoves hlanes hmap hprograms hplaces
  obtain ⟨lanes, hend, hmarked⟩ := v.endJump_marked p
  refine ⟨lanes, ?_, fun e => ?_⟩
  · rw [hend, Program.jumped, hservo]
  · rw [hmarked e, hlane e, hfeeds e]

end Sys2Proof.Machine
end

section
/-! SUPPORT. The servo updates of a frame start (R57, R78 to R82, R86): what each program's course takes from them, and
that the frame sent and the map that governs leave it as it is. -/

namespace Sys2Proof.Machine

/-! ### The course of a program -/

/-- What the servo has to do with: a program without its fade target, meter, changeover and tick events. -/
def Program.course (x : Program) : Program :=
  { x with play := { x.play with target := .silent }, meter := {}, change := {}, events := {} }

/-- A program that follows a servo update, with E judged. -/
def Program.judged (x : Program) (E : Int) : Program := { x with servo := { x.servo with error := E } }

/-- A jump starts here: beyond the jump threshold, or beyond b2 on a house-locked program (R82, R86). -/
def Program.startsJump (x : Program) (e : ProgramEntry) (b2 : Nat) (E : Int) : Bool :=
  x.servo.mode != .jump && ((e.jumpThreshold != 0 && decide (e.jumpThreshold < E.natAbs)) ||
    (e.houseLocked && decide (b2 < E.natAbs)))

/-- A program as the action of its servo mode leaves it (R79, R81). -/
def Program.steered (x : Program) (e : ProgramEntry) (b : BandSet) (nominal E : Int) : Program :=
  match x.servo.mode with
  | .track => x.trackUpdate E b nominal (glideMax nominal e.glideRate) e.houseLocked
  | .glide => x.glideUpdate E b.b1 nominal (glideMax nominal e.glideRate)
  | .jump => x

/-- A RUNNING program as a servo update leaves it (R78). -/
def Program.servoed (x : Program) (e : ProgramEntry) (b : BandSet) (nominal : Int) (ring : Nat) (W : Stamp) (P : ReadPos) :
    Program :=
  let E := servoError W P x.servo.fill
  if fillExceeds W P ring then (x.judged E).resyncing
  else if x.startsJump e b.b2 E then (x.judged E).beginJump
  else (x.judged E).steered e b nominal E

/-- A program as the servo update of a frame start leaves it (R78). -/
def State.servoed (s : State) (p : Fin 16) (x : Program) : Program :=
  match x.play.state, x.conv.pos, s.leaderHorizon p with
  | .running, some P, some W => x.servoed (s.entry p) (s.bands p) (s.nominal p) (s.smallestRing p) W P
  | _, _, _ => x

section Course
variable {x y : Program}

theorem Program.judged_course (E : Int) : (x.judged E).course = x.course.judged E := rfl

theorem Program.glideUpdate_course (E : Int) (b1 : Nat) (nominal gmax : Int) :
    (x.glideUpdate E b1 nominal gmax).course = x.course.glideUpdate E b1 nominal gmax := by
  unfold Program.glideUpdate
  split <;> rfl

theorem Program.trackUpdate_course (E : Int) (b : BandSet) (nominal gmax : Int) (locked : Bool) :
    (x.trackUpdate E b nominal gmax locked).course = x.course.trackUpdate E b nominal gmax locked := by
  unfold Program.trackUpdate
  split
  · rfl
  · split
    · rfl
    · exact Program.glideUpdate_course E b.b1 nominal gmax

theorem Program.steered_course (e : ProgramEntry) (b : BandSet) (nominal E : Int) :
    (x.steered e b nominal E).course = x.course.steered e b nominal E := by
  unfold Program.steered
  have hmode : x.course.servo.mode = x.servo.mode := rfl
  rw [hmode]
  cases x.servo.mode with
  | track => exact Program.trackUpdate_course E b nominal _ e.houseLocked
  | glide => exact Program.glideUpdate_course E b.b1 nominal _
  | jump => rfl

theorem Program.servoed_course (e : ProgramEntry) (b : BandSet) (nominal : Int) (ring : Nat) (W : Stamp) (P : ReadPos) :
    (x.servoed e b nominal ring W P).course = (x.course.servoed e b nominal ring W P).course := by
  have hjump : x.course.startsJump e b.b2 (servoError W P x.servo.fill) =
      x.startsJump e b.b2 (servoError W P x.servo.fill) := rfl
  have hfill : x.course.servo.fill = x.servo.fill := rfl
  unfold Program.servoed
  dsimp only
  rw [hfill, hjump]
  split
  · rfl
  · split
    · rfl
    · exact (Program.steered_course e b nominal _).trans (Program.steered_course (x := x.course.judged _) e b nominal _).symm

/-- A servo update takes nothing from a program but its course. -/
theorem State.servoed_course (s : State) (p : Fin 16) (h : x.course = y.course) :
    (s.servoed p x).course = (s.servoed p y).course := by
  have hback : ∀ x : Program, (s.servoed p x).course = (s.servoed p x.course).course := fun x => by
    unfold State.servoed
    have hstate : x.course.play.state = x.play.state := rfl
    have hpos : x.course.conv.pos = x.conv.pos := rfl
    rw [hstate, hpos]
    split
    · exact Program.servoed_course _ _ _ _ _ _
    · rfl
  rw [hback x, h, ← hback y]

end Course

/-! ### The update of one program and of all (R78) -/

/-- The part with each program's course moved so. -/
structure State.Courses (s t : State) (f : Fin 16 → Program → Program) : Prop where
  tables : t.tables = s.tables
  lanes : t.lanes = s.lanes
  program : ∀ q, (t.program q).course = (f q (s.program q)).course

section Courses
variable {s t u : State} {f g : Fin 16 → Program → Program}

theorem State.Courses.refl (s : State) : s.Courses s fun _ x => x := ⟨rfl, rfl, fun _ => rfl⟩

theorem State.Courses.trans (h : s.Courses t f) (k : t.Courses u g)
    (hg : ∀ q x y, Program.course x = Program.course y → (g q x).course = (g q y).course) :
    s.Courses u fun q x => g q (f q x) :=
  ⟨k.tables.trans h.tables, k.lanes.trans h.lanes, fun q => (k.program q).trans (hg q _ _ (h.program q))⟩

/-- Behind a move that leaves the courses alone. -/
theorem State.Courses.still (h : s.Courses t f) (k : t.Courses u fun _ x => x) : s.Courses u f :=
  h.trans k fun _ _ _ => id

theorem State.courses_followThrough (s : State) : s.Courses s.followThrough fun _ x => x where
  tables := s.followThrough_tables
  lanes := s.followThrough_lanes
  program q := by
    rw [(s.handsOn_followThrough).program q]
    rfl

theorem State.courses_setProgram (s : State) (p : Fin 16) (x : Program) :
    s.Courses (s.setProgram p x) fun q y => if q = p then x else y where
  tables := rfl
  lanes := rfl
  program q := by
    by_cases hq : q = p
    · subst hq
      rw [State.program_setProgram_self, if_pos rfl]
    · rw [State.program_setProgram_ne _ _ hq, if_neg hq]

theorem State.Courses.at_of_eq {p : Fin 16} {x : Program} (h : s.Courses t fun q y => if q = p then x else y) {f : Program → Program}
    (hx : x = f (s.program p)) : s.Courses t fun q y => if q = p then f y else y := by
  refine ⟨h.tables, h.lanes, fun q => (h.program q).trans ?_⟩
  split
  · next hq => rw [hx, hq]
  · rfl

/-- A RUNNING program's servo update: the first that applies of overrun, jump start and the action of the mode (R78). -/
theorem State.servoUpdate_at {s : State} {p : Fin 16} {P : ReadPos} {W : Stamp} (hstate : (s.program p).play.state = .running)
    (hpos : (s.program p).conv.pos = some P) (hW : s.leaderHorizon p = some W) :
    let E := servoError W P (s.program p).servo.fill
    let x := (s.program p).judged E
    s.servoUpdate p =
      if fillExceeds W P (s.smallestRing p) then (s.setProgram p x).requestResync p
      else if (s.program p).startsJump (s.entry p) (s.bands p).b2 E then
        ((s.setProgram p x).setProgram p x.beginJump).followThrough
      else if x.servo.mode = .jump then s.setProgram p x
      else (s.setProgram p x).setProgram p (x.steered (s.entry p) (s.bands p) (s.nominal p) E) := by
  unfold State.servoUpdate
  dsimp only
  rw [hstate, hpos, hW]
  dsimp only
  refine ite_congr rfl (fun _ => rfl) fun _ => ite_congr rfl (fun _ => rfl) fun _ => ?_
  unfold Program.steered
  cases hmode : (s.program p).servo.mode with
  | track => rw [if_neg (by rw [Program.judged, hmode]; exact nofun)]; simp only [Program.judged, hmode]; rfl
  | glide => rw [if_neg (by rw [Program.judged, hmode]; exact nofun)]; simp only [Program.judged, hmode]; rfl
  | jump => rw [if_pos (by rw [Program.judged, hmode])]; simp only [Program.judged, hmode]

theorem State.servoed_at {s : State} {p : Fin 16} {x : Program} {P : ReadPos} {W : Stamp} (hstate : x.play.state = .running)
    (hpos : x.conv.pos = some P) (hW : s.leaderHorizon p = some W) :
    s.servoed p x = x.servoed (s.entry p) (s.bands p) (s.nominal p) (s.smallestRing p) W P := by
  unfold State.servoed
  rw [hstate, hpos, hW]

theorem Program.steered_of_jump {x : Program} (h : x.servo.mode = .jump) (e : ProgramEntry) (b : BandSet) (nominal E : Int) :
    x.steered e b nominal E = x := by
  unfold Program.steered
  rw [h]

/-- A servo update sets the program so, and hands it on where its fade target may move (R78). -/
theorem State.servoUpdate_eq (s : State) (p : Fin 16) :
    s.servoUpdate p = s.setProgram p (s.servoed p (s.program p)) ∨
      s.servoUpdate p = (s.setProgram p (s.servoed p (s.program p))).followThrough := by
  by_cases hat : ∃ P W, (s.program p).play.state = .running ∧ (s.program p).conv.pos = some P ∧ s.leaderHorizon p = some W
  · obtain ⟨P, W, hstate, hpos, hW⟩ := hat
    rw [State.servoUpdate_at hstate hpos hW, State.servoed_at hstate hpos hW]
    unfold Program.servoed
    dsimp only
    generalize servoError W P (s.program p).servo.fill = E
    have hjudged : (s.setProgram p ((s.program p).judged E)).program p = (s.program p).judged E :=
      State.program_setProgram_self s p _
    by_cases hover : fillExceeds W P (s.smallestRing p) = true
    · refine .inr ?_
      have hresyncs : ((s.program p).judged E).resyncs = true := by
        unfold Program.resyncs Program.judged
        dsimp only
        rw [hpos, hstate]
        rfl
      rw [if_pos hover, if_pos hover, State.requestResync_eq, hjudged, if_pos hresyncs, State.setProgram_setProgram]
    · rw [if_neg hover, if_neg hover]
      by_cases hjump : (s.program p).startsJump (s.entry p) (s.bands p).b2 E = true
      · rw [if_pos hjump, if_pos hjump]
        exact .inr (congrArg State.followThrough (State.setProgram_setProgram s p _ _))
      · rw [if_neg hjump, if_neg hjump]
        refine .inl ?_
        split
        · next hmode => rw [Program.steered_of_jump hmode]
        · exact State.setProgram_setProgram s p _ _
  · refine .inl ?_
    have hnone : ∀ P W, (s.program p).play.state = .running → (s.program p).conv.pos = some P →
        s.leaderHorizon p = some W → False := fun P W hstate hpos hW => hat ⟨P, W, hstate, hpos, hW⟩
    have hkept : s.servoed p (s.program p) = s.program p := by
      unfold State.servoed
      split
      · next hstate hpos hW => exact (hnone _ _ hstate hpos hW).elim
      · rfl
    rw [hkept, State.setProgram_same]
    unfold State.servoUpdate
    dsimp only
    split
    · next hstate hpos hW => exact (hnone _ _ hstate hpos hW).elim
    · rfl

theorem State.servoUpdate_courses (s : State) (p : Fin 16) :
    s.Courses (s.servoUpdate p) fun q x => if q = p then s.servoed p x else x := by
  have hset := (s.courses_setProgram p (s.servoed p (s.program p))).at_of_eq (f := s.servoed p) rfl
  rcases s.servoUpdate_eq p with h | h
  · rw [h]
    exact hset
  · rw [h]
    exact hset.still (State.courses_followThrough _)

theorem State.leaderHorizon_congr (htables : t.tables = s.tables) (hlanes : t.lanes = s.lanes) (p : Fin 16) :
    t.leaderHorizon p = s.leaderHorizon p := by
  simp only [State.leaderHorizon, State.leader, State.entry, State.lane, htables, hlanes]

theorem State.servoed_congr (htables : t.tables = s.tables) (hlanes : t.lanes = s.lanes) (p : Fin 16) (x : Program) :
    t.servoed p x = s.servoed p x := by
  have hbands : t.bands p = s.bands p := by
    unfold State.bands State.bandSet State.entry
    rw [htables]
  have hentry : t.entry p = s.entry p := by rw [State.entry, htables, State.entry]
  unfold State.servoed
  rw [State.leaderHorizon_congr htables hlanes, hentry, hbands, State.nominal_congr htables, State.smallestRing_congr htables]

theorem State.foldl_courses (ps : List (Fin 16)) (hps : ps.Nodup) (s : State) :
    s.Courses (ps.foldl (fun s p => s.servoUpdate p) s) fun q x => if q ∈ ps then s.servoed q x else x := by
  induction ps generalizing s with
  | nil => exact .refl s
  | cons p ps ih =>
    obtain ⟨hp, hnodup⟩ := List.nodup_cons.mp hps
    have hstep := s.servoUpdate_courses p
    have hrest := ih hnodup (s.servoUpdate p)
    refine ⟨hrest.tables.trans hstep.tables, hrest.lanes.trans hstep.lanes, fun q => (hrest.program q).trans ?_⟩
    have hq := hstep.program q
    by_cases hin : q ∈ ps
    · have hne : q ≠ p := fun h => hp (h ▸ hin)
      rw [if_neg hne] at hq
      rw [if_pos hin, if_pos (List.mem_cons_of_mem p hin), State.servoed_congr hstep.tables hstep.lanes]
      exact s.servoed_course q hq
    · rw [if_neg hin]
      refine hq.trans ?_
      by_cases hqp : q = p
      · subst hqp
        rw [if_pos rfl, if_pos List.mem_cons_self]
      · rw [if_neg hqp, if_neg fun h => (List.mem_cons.mp h).elim hqp hin]

theorem State.servoUpdates_courses (s : State) : s.Courses s.servoUpdates s.servoed := by
  have hall := State.foldl_courses (List.finRange 16) (List.nodup_finRange 16) s
  exact ⟨hall.tables, hall.lanes, fun q => (hall.program q).trans (by rw [if_pos (List.mem_finRange q)])⟩

/-! ### A frame period begins (R57, R150, R152) -/

/-- A program with the T and the G of the house sample that begins fixed (R57). -/
def Program.fixing (x : Program) : Program :=
  if x.play.state = .running then
    { x with conv := { x.conv with fixed := some (x.conv.trim, x.conv.glide) } }
  else x

theorem Program.fixing_course {x y : Program} (h : x.course = y.course) : x.fixing.course = y.fixing.course := by
  have hback : ∀ x : Program, x.fixing.course = x.course.fixing := fun x => by
    unfold Program.fixing
    have hstate : x.course.play.state = x.play.state := rfl
    rw [hstate]
    split <;> rfl
  rw [hback, h, ← hback]

theorem State.applyMap_courses (s : State) : s.Courses s.applyMap fun _ x => x := by
  have hset : ∀ lanes map, s.Courses (s.setMap lanes map) fun _ x => x := fun _ _ => ⟨rfl, rfl, fun _ => rfl⟩
  rw [State.applyMap_eq]
  exact (hset _ _).still (State.courses_followThrough _)

theorem State.fixRatios_courses (s : State) : s.Courses s.fixRatios fun _ x => x.fixing where
  tables := State.mapPrograms_tables s _
  lanes := State.mapPrograms_lanes s _
  program q := by
    unfold State.fixRatios
    rw [State.program_mapPrograms]
    rfl

theorem State.beginPeriod_courses (s : State) : s.Courses s.beginPeriod fun q x => s.servoed q x.fixing := by
  have hmap := s.applyMap_courses
  have hfix := s.applyMap.fixRatios_courses
  have hservo := s.applyMap.fixRatios.servoUpdates_courses
  have hall := hmap.trans hfix fun _ _ _ => Program.fixing_course
  rw [State.beginPeriod_eq]
  generalize s.applyMap.fixRatios = u at hall hservo ⊢
  generalize u.servoUpdates = v at hservo ⊢
  refine ⟨hservo.tables.trans hall.tables, hservo.lanes.trans hall.lanes, fun q => (hservo.program q).trans ?_⟩
  rw [State.servoed_congr hall.tables hall.lanes]
  exact s.servoed_course q (hall.program q)

/-! ### The frame sent (R159 to R163) -/

theorem State.takeReplies_courses (n : Nat) (s : State) : s.Courses (s.takeReplies n).2 fun _ x => x := by
  induction n generalizing s with
  | zero => exact .refl s
  | succ n ih =>
    unfold State.takeReplies
    split
    · exact .refl s
    · next r rest _ =>
      have htaken : s.Courses { s with orders := { s.orders with replies := rest, overflow := false } } fun _ x => x :=
        ⟨rfl, rfl, fun _ => rfl⟩
      exact htaken.still (ih _)

theorem State.takeCues_courses (n : Nat) (s : State) : s.Courses (s.takeCues n).2 fun _ x => x := by
  induction n generalizing s with
  | zero => exact .refl s
  | succ n ih =>
    unfold State.takeCues
    split
    · exact .refl s
    · next c rest _ =>
      have htaken : s.Courses { s with egress := { s.egress with outbox := rest } } fun _ x => x :=
        ⟨rfl, rfl, fun _ => rfl⟩
      exact htaken.still (ih _)

theorem State.takeNotices_courses (n : Nat) (s : State) : s.Courses (s.takeNotices n).2 fun _ x => x := by
  induction n generalizing s with
  | zero => exact .refl s
  | succ n ih =>
    unfold State.takeNotices
    split
    · exact .refl s
    · next t htaken =>
      have hframe := (State.takeNotice_noticed htaken).frame
      have hstill : s.Courses t fun _ x => x := by
        rw [hframe]
        exact ⟨rfl, rfl, fun _ => rfl⟩
      exact hstill.still (ih _)

theorem State.takeReports_courses (n : Nat) (s : State) : s.Courses (s.takeReports n).2 fun _ x => x := by
  induction n generalizing s with
  | zero => exact .refl s
  | succ n ih =>
    unfold State.takeReports
    split
    · exact .refl s
    · next p _ =>
      have hset := (s.courses_setProgram p { s.program p with meter := { (s.program p).meter with report := none } })
      have hstill : s.Courses (s.setProgram p { s.program p with meter := { (s.program p).meter with report := none } })
          fun _ x => x := by
        refine ⟨hset.tables, hset.lanes, fun q => (hset.program q).trans ?_⟩
        split
        · next hq => rw [hq]; rfl
        · rfl
      have hrotated : ∀ t : State, t.Courses { t with egress := { t.egress with rotation := some p } } fun _ x => x :=
        fun t => ⟨rfl, rfl, fun _ => rfl⟩
      exact (hstill.still (hrotated _)).still (ih _)

theorem State.buildFrame_courses (s : State) : s.Courses s.buildFrame fun _ x => x := by
  have hround : ∀ t : State, t.Courses t.controlRound.2 fun _ x => x := fun t => by
    unfold State.controlRound
    split
    · exact .refl t
    · exact (t.takeReplies_courses _).still ((State.takeCues_courses _ _).still
        ((State.takeNotices_courses _ _).still (State.takeReports_courses _ _)))
  have haudio : s.Courses s.afterAudio fun _ x => x := by
    unfold State.afterAudio
    refine ⟨State.mapEgressLanes_tables s _, State.mapEgressLanes_lanes s _, fun q => ?_⟩
    rw [State.program_mapEgressLanes]
  have hall := haudio.still (hround s.afterAudio)
  unfold State.buildFrame
  dsimp only
  generalize s.afterAudio.controlRound.2 = t at hall ⊢
  exact ⟨hall.tables, hall.lanes, hall.program⟩

theorem State.startFrame_courses (s : State) : s.Courses s.startFrame fun q x => s.servoed q x.fixing := by
  have hbuilt := s.buildFrame_courses
  have hbegun := s.buildFrame.beginPeriod_courses
  refine ⟨hbegun.tables.trans hbuilt.tables, hbegun.lanes.trans hbuilt.lanes, fun q => (hbegun.program q).trans ?_⟩
  rw [State.servoed_congr hbuilt.tables hbuilt.lanes]
  exact s.servoed_course q (Program.fixing_course (hbuilt.program q))

end Courses
end Sys2Proof.Machine
end

section
/-! SUPPORT. What one servo update does (R57, R78 to R82, R86), and the Delay Servo as a whole. -/

namespace Sys2Proof.Machine

/-! ### One servo update, case by case -/

theorem State.nominal_nonneg (s : State) (p : Fin 16) : 0 ≤ s.nominal p := by
  unfold State.nominal
  split
  · decide
  · cases s.classOf p <;> decide

/-- G as a glide writes it stands within a 256th of the nominal ratio (R56, R81). -/
theorem State.holdGlide_at (s : State) (p : Fin 16) (g : Int) :
    holdGlide (s.nominal p) g = max (-(s.nominal p / 256)) (min g (s.nominal p / 256)) := by
  have hn := s.nominal_nonneg p
  exact clampInt_eq (by omega) g

theorem holdTrim_eq (t : Int) : holdTrim t = max (-8389) (min t 8389) := clampInt_eq (by decide) t

/-- The values of a band set by its index (R77). -/
theorem State.bands_eq (s : State) (p : Fin 16) : s.bands p =
    if (s.entry p).bandSet = 0 then ⟨2, 16⟩ else if (s.entry p).bandSet = 1 then ⟨4, 48⟩
    else if (s.entry p).bandSet = 2 then ⟨12, 192⟩ else s.tables.band3 := by
  unfold State.bands State.bandSet
  generalize (s.entry p).bandSet = i
  match i with
  | 0 | 1 | 2 | 3 => rfl

section Servo
variable {x : Program} {e : ProgramEntry} {b : BandSet} {nominal gmax E : Int} {b1 : Nat}

theorem Program.glideUpdate_within (h : |E| ≤ b1) : x.glideUpdate E b1 nominal gmax =
    { x with conv := { x.conv with glide := 0 }, servo := { x.servo with mode := .track } } := by
  rw [Int.abs_eq_natAbs] at h
  exact if_pos (by omega)

theorem Program.glideUpdate_beyond (h : (b1 : Int) < |E|) : x.glideUpdate E b1 nominal gmax =
    { x with
      conv := { x.conv with glide := holdGlide nominal (if 0 < E then gmax else -gmax) }
      servo := { x.servo with mode := .glide } } := by
  rw [Int.abs_eq_natAbs] at h
  exact if_neg (by omega)

theorem Program.trackUpdate_still {locked : Bool} (h : |E| ≤ b.b1 ∨ locked = true) :
    x.trackUpdate E b nominal gmax locked = x := by
  rw [Int.abs_eq_natAbs] at h
  refine if_pos ?_
  rw [Bool.or_eq_true, decide_eq_true_eq]
  exact h.imp_left fun h => by omega

theorem Program.trackUpdate_trim (h1 : (b.b1 : Int) < |E|) (h2 : |E| ≤ b.b2) :
    x.trackUpdate E b nominal gmax false =
      { x with conv := { x.conv with trim := holdTrim (x.conv.trim + if 0 < E then 1 else -1) } } := by
  rw [Int.abs_eq_natAbs] at h1 h2
  unfold Program.trackUpdate
  rw [if_neg (by simp only [Bool.or_false, decide_eq_true_eq]; omega), if_pos (by omega)]

theorem Program.trackUpdate_glide (h1 : (b.b1 : Int) < |E|) (h2 : (b.b2 : Int) < |E|) :
    x.trackUpdate E b nominal gmax false = x.glideUpdate E b.b1 nominal gmax := by
  rw [Int.abs_eq_natAbs] at h1 h2
  unfold Program.trackUpdate
  rw [if_neg (by simp only [Bool.or_false, decide_eq_true_eq]; omega), if_neg (by omega)]

theorem Program.startsJump_iff : x.startsJump e b.b2 E = true ↔ x.servo.mode ≠ .jump ∧
    ((e.jumpThreshold ≠ 0 ∧ (e.jumpThreshold : Int) < |E|) ∨ (e.houseLocked = true ∧ (b.b2 : Int) < |E|)) := by
  rw [Int.abs_eq_natAbs]
  simp only [Program.startsJump, Bool.and_eq_true, Bool.or_eq_true, bne_iff_ne, decide_eq_true_eq, Int.ofNat_lt]

/-- The steering of a mode leaves a program's state, fade and gain, and its holds. -/
theorem Program.steered_kept : (x.steered e b nominal E).play = x.play ∧ (x.steered e b nominal E).gain = x.gain ∧
    (x.steered e b nominal E).holds = x.holds := by
  have hglide : ∀ gmax, (x.glideUpdate E b.b1 nominal gmax).play = x.play ∧
      (x.glideUpdate E b.b1 nominal gmax).gain = x.gain ∧ (x.glideUpdate E b.b1 nominal gmax).holds = x.holds := fun gmax => by
    unfold Program.glideUpdate
    split <;> exact ⟨rfl, rfl, rfl⟩
  unfold Program.steered
  split
  · unfold Program.trackUpdate
    split
    · exact ⟨rfl, rfl, rfl⟩
    · split
      · exact ⟨rfl, rfl, rfl⟩
      · exact hglide _
  · exact hglide _
  · exact ⟨rfl, rfl, rfl⟩

/-- A servo update leaves fade, elapsed flag, gain and holds. -/
theorem State.servoed_kept (s : State) (p : Fin 16) (x : Program) : (s.servoed p x).play.fade = x.play.fade ∧
    (s.servoed p x).play.elapsed = x.play.elapsed ∧ (s.servoed p x).gain = x.gain ∧ (s.servoed p x).holds = x.holds := by
  unfold State.servoed
  split
  · unfold Program.servoed
    dsimp only
    split
    · exact ⟨rfl, rfl, rfl, rfl⟩
    · split
      · exact ⟨rfl, rfl, rfl, rfl⟩
      · next P W _ _ _ _ _ =>
        obtain ⟨hplay, hgain, hholds⟩ := (x.judged (servoError W P x.servo.fill)).steered_kept
          (e := s.entry p) (b := s.bands p) (nominal := s.nominal p) (E := servoError W P x.servo.fill)
        exact ⟨by rw [hplay]; rfl, by rw [hplay]; rfl, hgain, hholds⟩
  · exact ⟨rfl, rfl, rfl, rfl⟩

theorem State.servoed_of_still (s : State) (p : Fin 16) (h : x.play.state ≠ .running) : s.servoed p x.fixing = x := by
  unfold Program.fixing
  rw [if_neg h]
  unfold State.servoed
  split
  · next hstate _ _ => exact absurd hstate h
  · rfl

end Servo

/-- A frame period begins with the servo's updates, whether the warm-up ends or a frame is sent (R78, R150). -/
theorem State.period_courses {s : State} {c : Instr} (hrest : s.atRest)
    (hc : (c = .egressFrameStart ∧ s.house.warmedUp = true ∧ s.house.toFrame = 0) ∨
      (c = .egressWarmUpEnd ∧ s.house.warmedUp = false ∧ s.house.warmUpLeft = 0)) :
    ∃ t, exec c s = .next t ∧ s.Courses t fun q x => s.servoed q x.fixing := by
  rcases hc with ⟨rfl, hwarm, hframe⟩ | ⟨rfl, hwarm, hleft⟩
  · have hdue : s.frameDue = true := by rw [State.frameDue, hwarm, hframe]; rfl
    exact ⟨s.startFrame, congrArg Host.Outcome.next (State.clockCommand_of_rest hrest _ _ hdue), s.startFrame_courses⟩
  · have hdue : s.warmUpDue = true := by rw [State.warmUpDue, hwarm, hleft]; rfl
    have hbegun := State.beginPeriod_courses { s with house := { s.house with warmedUp := true } }
    refine ⟨s.endEgressWarmUp, congrArg Host.Outcome.next (State.clockCommand_of_rest hrest _ _ hdue),
      hbegun.tables, hbegun.lanes, fun q => (hbegun.program q).trans ?_⟩
    rw [State.servoed_congr (s := s) rfl rfl]
    rfl

/-- Programs of one course agree in all but fade target, meter, changeover and tick events. -/
theorem Program.of_course {y z : Program} (h : y.course = z.course) : (y.play.fade = z.play.fade ∧
    y.play.elapsed = z.play.elapsed ∧ y.play.state = z.play.state ∧ y.play.resyncs = z.play.resyncs) ∧
    y.conv = z.conv ∧ y.servo = z.servo ∧ y.gain = z.gain ∧ y.holds = z.holds := by
  have hplay : y.course.play = z.course.play := congrArg Program.play h
  have hconv : y.course.conv = z.course.conv := congrArg Program.conv h
  have hservo : y.course.servo = z.course.servo := congrArg Program.servo h
  have hgain : y.course.gain = z.course.gain := congrArg Program.gain h
  have hholds : y.course.holds = z.course.holds := congrArg Program.holds h
  refine ⟨⟨?_, ?_, ?_, ?_⟩, hconv, hservo, hgain, hholds⟩
  · change y.course.play.fade = z.course.play.fade
    rw [hplay]
  · change y.course.play.elapsed = z.course.play.elapsed
    rw [hplay]
  · change y.course.play.state = z.course.play.state
    rw [hplay]
  · change y.course.play.resyncs = z.course.play.resyncs
    rw [hplay]

/-- A program with the T and the G of the house sample that begins fixed (R57). -/
def Program.ratioFixed (x : Program) : Program :=
  { x with conv := { x.conv with fixed := some (x.conv.trim, x.conv.glide) } }

theorem Program.fixing_of_running {x : Program} (h : x.play.state = .running) : x.fixing = x.ratioFixed := if_pos h

theorem Program.servoed_overrun {x : Program} {e : ProgramEntry} {b : BandSet} {nominal : Int} {ring : Nat} {W : Stamp} {P : ReadPos}
    (h : ((ring : Int) - 64) * 16777216 < fillFine W P) :
    x.servoed e b nominal ring W P = (x.judged (servoError W P x.servo.fill)).resyncing :=
  if_pos (decide_eq_true h)

theorem Program.servoed_within {x : Program} {e : ProgramEntry} {b : BandSet} {nominal : Int} {ring : Nat} {W : Stamp} {P : ReadPos}
    (h : ¬ ((ring : Int) - 64) * 16777216 < fillFine W P) : x.servoed e b nominal ring W P =
      if x.startsJump e b.b2 (servoError W P x.servo.fill) then (x.judged (servoError W P x.servo.fill)).beginJump
      else (x.judged (servoError W P x.servo.fill)).steered e b nominal (servoError W P x.servo.fill) :=
  if_neg (mt of_decide_eq_true h)

theorem Program.steered_track {x : Program} (h : x.servo.mode = .track) (e : ProgramEntry) (b : BandSet) (nominal E : Int) :
    x.steered e b nominal E = x.trackUpdate E b nominal (glideMax nominal e.glideRate) e.houseLocked := by
  unfold Program.steered
  rw [h]

theorem Program.steered_glide {x : Program} (h : x.servo.mode = .glide) (e : ProgramEntry) (b : BandSet) (nominal E : Int) :
    x.steered e b nominal E = x.glideUpdate E b.b1 nominal (glideMax nominal e.glideRate) := by
  unfold Program.steered
  rw [h]

/-- Without an overrun a servo update leaves the program in its state. -/
theorem Program.servoed_within_play {x : Program} {e : ProgramEntry} {b : BandSet} {nominal : Int} {ring : Nat} {W : Stamp}
    {P : ReadPos} (h : ¬ ((ring : Int) - 64) * 16777216 < fillFine W P) :
    (x.servoed e b nominal ring W P).play = x.play := by
  rw [Program.servoed_within h]
  split
  · rfl
  · exact Program.steered_kept.1

theorem State.glided (s : State) (p : Fin 16) {x : Program} {b1 : Nat} {E gmax : Int} (h : (b1 : Int) < |E|) :
    x.glideUpdate E b1 (s.nominal p) gmax = { x with
      conv := { x.conv with glide := max (-(s.nominal p / 256)) (min (if 0 < E then gmax else -gmax) (s.nominal p / 256)) }
      servo := { x.servo with mode := .glide } } := by
  rw [Program.glideUpdate_beyond h, s.holdGlide_at p]

/-- Settles O34: a jump moves P or waits by the fill it finds, its cues in program order; at a frame start each program's
course is what one servo update, of a program with its ratios fixed, leaves of it. -/
theorem jumpsMoveOrHold : Obligations.JumpsMoveOrHold := by
  unfold Obligations.JumpsMoveOrHold
  refine ⟨fun s p P W hrunning hstate hP hW => ?_, fun s c hrest hc => ?_⟩
  · have hactive : s.active p = true := by
      rw [State.active, hstate]
      rfl
    refine ⟨fun hphase hfade => ?_, fun hphase hfull => ?_⟩
    · have hdue : s.fadeOutDue p = true := by
        rw [State.fadeOutDue, hstate, hphase, hfade]
        rfl
      have hrun : exec (.jumpFadeOutEnd p) s = .next (s.fadeOutEnd p) :=
        congrArg Host.Outcome.next (State.ownCommand_of_due hrunning hdue _)
      rw [State.fadeOutEnd_at hP hW] at hrun
      refine ⟨fun hshort => ?_, fun hfull => ?_⟩
      · rw [hrun, if_neg (mt (State.fillAtLeast_iff _ _ _).mp hshort)]
      · rw [if_pos ((State.fillAtLeast_iff _ _ _).mpr hfull), State.inProgramOrder_at] at hrun
        have hmoves := (s.aside p).setPos_movesTo p (W - BitVec.ofNat 32 (s.program p).servo.fill) hactive
        have hplaces := ((s.aside p).setPos p (W - BitVec.ofNat 32 (s.program p).servo.fill)).placeCues_behind
          (s.egress.cuesSince.filter fun c => decide (p < c.program))
        obtain ⟨lanes, hend, hmarked⟩ := State.jump_moves (s := s) hmoves rfl rfl rfl hplaces
        exact ⟨_, _, lanes, hrun.trans (congrArg Host.Outcome.next hend), hmoves, hplaces, hmarked⟩
    · have hdue : s.releaseDue p = true := by
        rw [State.releaseDue, hstate, hphase, hP, hW]
        exact (State.fillAtLeast_iff _ _ _).mpr hfull
      have hrun : exec (.jumpRelease p) s = .next (s.jumpRelease p) :=
        congrArg Host.Outcome.next (State.ownCommand_of_due hrunning hdue _)
      have hat : s.jumpRelease p = (s.setPos p (W - BitVec.ofNat 32 (s.program p).servo.fill)).endJump p := by
        unfold State.jumpRelease
        rw [hW]
      have hmoves := s.setPos_movesTo p (W - BitVec.ofNat 32 (s.program p).servo.fill) hactive
      obtain ⟨lanes, hend, hmarked⟩ := State.jump_moves (s := s) hmoves rfl rfl rfl (.nil _)
      rw [hat, hend] at hrun
      exact ⟨_, _, lanes, hrun, hmoves, .nil _, hmarked⟩
  · obtain ⟨t, hrun, hcourses⟩ := State.period_courses hrest hc
    refine ⟨t, hrun, fun p => ?_⟩
    have hcourse := hcourses.program p
    obtain ⟨⟨hfade, helapsed, hstate, hresyncs⟩, hconv, hservo, hgain, hholds⟩ := Program.of_course hcourse
    obtain ⟨hkfade, hkelapsed, hkgain, hkholds⟩ := s.servoed_kept p (s.program p).fixing
    have hfixing : (s.program p).fixing.play = (s.program p).play ∧ (s.program p).fixing.gain = (s.program p).gain ∧
        (s.program p).fixing.holds = (s.program p).holds := by
      unfold Program.fixing
      split <;> exact ⟨rfl, rfl, rfl⟩
    obtain ⟨hfplay, hfgain, hfholds⟩ := hfixing
    refine ⟨hfade.trans (hkfade.trans (by rw [hfplay])), helapsed.trans (hkelapsed.trans (by rw [hfplay])),
      hgain.trans (hkgain.trans hfgain), hholds.trans (hkholds.trans hfholds), fun hstill => ?_, fun P W hrunning hpos hW => ?_⟩
    · rw [State.servoed_of_still s p hstill] at hstate hresyncs hconv hservo
      exact ⟨hstate, hresyncs, hconv, hservo⟩
    · rw [Program.fixing_of_running hrunning, State.servoed_at (x := (s.program p).ratioFixed) hrunning hpos hW]
        at hstate hresyncs hconv hservo
      rw [← s.bands_eq p]
      intro fill E b most gmax kept judged overrun jumps glides
      refine ⟨fun hover => ?_, fun hover => ?_⟩
      · rw [Program.servoed_overrun hover] at hstate hresyncs hconv hservo
        exact ⟨hstate, hresyncs, hconv, hservo⟩
      · have hplay := Program.servoed_within_play (x := (s.program p).ratioFixed) (e := s.entry p) (b := b)
          (nominal := s.nominal p) hover
        rw [hplay] at hstate hresyncs
        have hE : servoError W P (s.program p).ratioFixed.servo.fill = E := rfl
        have hb : s.bands p = b := rfl
        have hstarts : (s.program p).ratioFixed.startsJump (s.entry p) b.b2 E = true ↔ jumps := Program.startsJump_iff
        rw [Program.servoed_within hover, hE, hb] at hconv hservo
        refine ⟨hstate.trans hrunning, hresyncs, fun hjump => ?_, fun hjump => ?_⟩
        · rw [if_pos (hstarts.mpr hjump)] at hconv hservo
          exact ⟨hconv, hservo⟩
        · rw [if_neg (mt hstarts.mp hjump)] at hconv hservo
          have hmodes : ((s.program p).ratioFixed.judged E).servo.mode = (s.program p).servo.mode := rfl
          refine ⟨fun hmode => ?_, fun hmode => ?_, fun hmode => ?_⟩
          · rw [Program.steered_of_jump (hmodes.trans hmode)] at hconv hservo
            exact ⟨hconv, hservo⟩
          · rw [Program.steered_track (hmodes.trans hmode)] at hconv hservo
            refine ⟨fun hstill => ?_, fun hlocked h1 h2 => ?_, fun hlocked h1 h2 => ?_⟩
            · rw [Program.trackUpdate_still hstill] at hconv hservo
              exact ⟨hconv, hservo⟩
            · rw [hlocked, Program.trackUpdate_trim h1 h2, holdTrim_eq] at hconv hservo
              exact ⟨hconv, hservo⟩
            · rw [hlocked, Program.trackUpdate_glide h1 h2, s.glided p h1] at hconv hservo
              exact ⟨hconv, hservo⟩
          · rw [Program.steered_glide (hmodes.trans hmode)] at hconv hservo
            refine ⟨fun hstill => ?_, fun h1 => ?_⟩
            · rw [Program.glideUpdate_within hstill] at hconv hservo
              exact ⟨hconv, hservo⟩
            · rw [s.glided p h1] at hconv hservo
              exact ⟨hconv, hservo⟩

end Sys2Proof.Machine
end

section
/-! SUPPORT. Owed rules and departures (R143, R144): which rules the free places queue, and what so many departures leave. -/

namespace Sys2Proof.Machine

/-! ### Owed rules in ascending index (R144) -/

/-- The owed rules, ascending. -/
def State.owedList (s : State) : List (Fin 64) := (List.finRange 64).filter fun r => (s.record r).owed

/-- Notices have left the head of the queue and owed rules have joined its tail (R144). -/
structure State.Departs (s t : State) (ns : List Notice) (qs : List (Fin 64)) : Prop where
  frame : t = { s with alarm := { s.alarm with records := t.alarm.records, notices := t.alarm.notices } }
  notices : t.alarm.notices = s.alarm.notices.drop ns.length ++ qs.map s.noticeOf
  record : ∀ r, t.record r = if ns.any (fun n => n.isOf r) then { s.record r with queued := false, changes := 0 }
    else if r ∈ qs then { s.record r with owed := false, queued := true } else s.record r

/-- No rule with a notice in the queue is owed (R143). -/
def State.owedApart (s : State) : Prop := ∀ n ∈ s.alarm.notices, ∀ r, n.isOf r = true → (s.record r).owed = false

theorem State.owedApart_of_noticesOk {s : State} (h : s.noticesOk) : s.owedApart := fun n hn r hr => by
  obtain ⟨hcount, howed⟩ := h.1 r
  have hmem : n ∈ s.alarm.notices.filter fun n => n.isOf r := List.mem_filter.mpr ⟨hn, hr⟩
  refine howed ?_
  cases hq : (s.record r).queued with
  | true => rfl
  | false =>
    rw [hq] at hcount
    rw [List.length_eq_zero_iff.mp hcount] at hmem
    exact absurd hmem List.not_mem_nil

section Departs
variable {s t u : State} {ns ms : List Notice} {qs rs : List (Fin 64)} {n : Notice} {r : Fin 64}

theorem State.mem_owedList : r ∈ s.owedList ↔ (s.record r).owed = true := by
  simp [State.owedList]

theorem State.promotionDue_iff : s.promotionDue = true ↔ s.alarm.notices.length < 16 ∧ s.owedList ≠ [] := by
  have hany : ((List.finRange 64).any fun r => (s.record r).owed) = true ↔ s.owedList ≠ [] := by
    simp [State.owedList, List.filter_eq_nil_iff]
  rw [State.promotionDue, Bool.and_eq_true, decide_eq_true_eq, hany]
  exact Iff.rfl

theorem State.Departs.refl (s : State) : s.Departs s [] [] where
  frame := rfl
  notices := (List.append_nil _).symm
  record r := by simp

/-- A rule that is owed after departures was owed before them, and keeps its notice. -/
theorem State.Departs.noticeOf (h : s.Departs t ns qs) (hr : ns.any (fun n => n.isOf r) = false) :
    t.noticeOf r = s.noticeOf r := by
  have hrecord := h.record r
  rw [hr, if_neg Bool.false_ne_true] at hrecord
  unfold State.noticeOf
  rw [hrecord]
  split <;> rfl

theorem State.Departs.trans (h : s.Departs t ns qs) (k : t.Departs u ms rs)
    (hroom : qs = [] ∨ ns.length + ms.length ≤ s.alarm.notices.length)
    (hlater : ∀ r ∈ rs, ns.any (fun n => n.isOf r) = false)
    (hms : ∀ r ∈ qs, ms.any (fun n => n.isOf r) = false) :
    s.Departs u (ns ++ ms) (qs ++ rs) where
  frame := by
    have hk := k.frame
    rw [h.frame] at hk
    exact hk
  notices := by
    have hmap : rs.map t.noticeOf = rs.map s.noticeOf := List.map_congr_left fun r hr => h.noticeOf (hlater r hr)
    have hdrop : (s.alarm.notices.drop ns.length ++ qs.map s.noticeOf).drop ms.length =
        s.alarm.notices.drop (ns.length + ms.length) ++ qs.map s.noticeOf := by
      rcases hroom with rfl | hroom
      · rw [List.map_nil, List.append_nil, List.append_nil, List.drop_drop]
      · rw [List.drop_append_of_le_length (by rw [List.length_drop]; omega), List.drop_drop]
    rw [k.notices, h.notices, hmap, hdrop, List.length_append, List.map_append, List.append_assoc]
  record r := by
    rw [k.record r, h.record r, List.any_append]
    by_cases hn : ns.any (fun n => n.isOf r) = true
    · have hr : r ∉ rs := fun hin => absurd (hlater r hin) (by rw [hn]; exact Bool.noConfusion)
      rw [if_pos hn, if_neg hr, hn, Bool.true_or, if_pos rfl]
      split <;> rfl
    · rw [if_neg hn, eq_false_of_ne_true hn, Bool.false_or]
      by_cases hm : ms.any (fun n => n.isOf r) = true
      · have hr : r ∉ qs := fun hin => absurd (hms r hin) (by rw [hm]; exact Bool.noConfusion)
        rw [if_pos hm, if_neg hr, if_pos hm]
      · rw [if_neg hm, if_neg hm]
        by_cases hq : r ∈ qs
        · rw [if_pos hq, if_pos (List.mem_append_left rs hq)]
          split <;> rfl
        · rw [if_neg hq]
          simp only [List.mem_append, hq, false_or]

/-- One owed rule joins the tail (R144). -/
theorem State.departs_queueNotice (s : State) (r : Fin 64) : s.Departs (s.queueNotice r) [] [r] where
  frame := rfl
  notices := by
    have hnotice : (s.setRecord r { s.record r with owed := false, queued := true }).noticeOf r = s.noticeOf r := by
      unfold State.noticeOf
      rw [State.record_setRecord_self]
    unfold State.queueNotice
    dsimp only
    rw [hnotice]
    rfl
  record k := by
    by_cases hk : k = r
    · subst hk
      rw [State.record_queueNotice_self]
      simp
    · rw [State.record_queueNotice_ne _ hk]
      simp [hk]

theorem State.promoteOwed_first {rs : List (Fin 64)} (h : s.owedList = r :: rs) : s.promoteOwed = s.queueNotice r := by
  have hfind : ((List.finRange 64).find? fun r => (s.record r).owed) = some r := by
    rw [← List.head?_filter]
    exact congrArg List.head? h
  unfold State.promoteOwed
  rw [hfind]
  rfl

theorem State.owedList_queueNotice {rs : List (Fin 64)} (h : s.owedList = r :: rs) : (s.queueNotice r).owedList = rs := by
  have hnodup : (r :: rs).Nodup := h ▸ (List.nodup_finRange 64).filter _
  have hfilter : (s.queueNotice r).owedList = s.owedList.filter fun k => k != r := by
    unfold State.owedList
    rw [List.filter_filter]
    refine List.filter_congr fun k _ => ?_
    by_cases hk : k = r
    · subst hk
      rw [State.record_queueNotice_self]
      simp
    · rw [State.record_queueNotice_ne _ hk]
      simp [hk]
  rw [hfilter, h, List.filter_cons_of_neg (by simp)]
  refine List.filter_eq_self.mpr fun k hk => ?_
  rw [bne_iff_ne]
  exact fun heq => (List.nodup_cons.mp hnodup).1 (heq ▸ hk)

/-- So many places go to the owed rules, the lowest-indexed first (R144). -/
theorem State.promoteUpTo_departs (k : Nat) (s : State) :
    s.Departs (s.promoteUpTo k) [] (s.owedList.take (min k (16 - s.alarm.notices.length))) := by
  induction k generalizing s with
  | zero =>
    rw [Nat.zero_min, List.take_zero]
    exact .refl s
  | succ k ih =>
    unfold State.promoteUpTo
    split
    · next hdue =>
      obtain ⟨hroom, howed⟩ := State.promotionDue_iff.mp hdue
      obtain ⟨r, rs, hlist⟩ := List.exists_cons_of_ne_nil howed
      have hfirst := s.departs_queueNotice r
      have hrest := ih (s.queueNotice r)
      have hlength : (s.queueNotice r).alarm.notices.length = s.alarm.notices.length + 1 := by
        rw [hfirst.notices]
        simp
      rw [State.owedList_queueNotice hlist, hlength] at hrest
      rw [State.promoteOwed_first hlist, hlist,
        show min (k + 1) (16 - s.alarm.notices.length) = min k (16 - (s.alarm.notices.length + 1)) + 1 by omega,
        List.take_succ_cons]
      exact hfirst.trans hrest (.inr (Nat.zero_le _)) (fun _ _ => rfl) fun _ _ => rfl
    · next hdue =>
      have hnone : s.owedList.take (min (k + 1) (16 - s.alarm.notices.length)) = [] := by
        by_cases hroom : s.alarm.notices.length < 16
        · have howed : s.owedList = [] := by
            by_contra howed
            exact hdue (State.promotionDue_iff.mpr ⟨hroom, howed⟩)
          rw [howed, List.take_nil]
        · rw [show min (k + 1) (16 - s.alarm.notices.length) = 0 by omega, List.take_zero]
      rw [hnone]
      exact .refl s

/-! ### Departures (R144) -/

theorem State.departs_departed (h : s.alarm.notices = n :: ns) : s.Departs (s.departed n ns) [n] [] where
  frame := by
    rw [State.departed_notices]
    exact s.departed_eq n ns
  notices := by
    rw [State.departed_notices, h]
    simp
  record r := by
    rw [State.record_departed]
    simp

theorem State.owedList_congr (h : ∀ r, (t.record r).owed = (s.record r).owed) : t.owedList = s.owedList := by
  unfold State.owedList
  simp only [h]

theorem State.owed_departed (s : State) (n : Notice) (rest : List Notice) (r : Fin 64) :
    ((s.departed n rest).record r).owed = (s.record r).owed := by
  rw [State.record_departed]
  split <;> rfl

theorem State.Departs.apart (h : s.Departs t ns qs) (happart : s.owedApart) (hqs : ∀ r ∈ qs, ns.any (fun n => n.isOf r) = false) :
    t.owedApart := fun n hn r hr => by
  rw [h.notices] at hn
  rw [h.record r]
  by_cases hq : r ∈ qs
  · rw [hqs r hq, if_neg Bool.false_ne_true, if_pos hq]
  · have hold : (s.record r).owed = false := by
      rcases List.mem_append.mp hn with hn | hn
      · exact happart n (List.mem_of_mem_drop hn) r hr
      · obtain ⟨k, hk, rfl⟩ := List.mem_map.mp hn
        rw [State.isOf_noticeOf, beq_iff_eq] at hr
        exact absurd (hr ▸ hk) hq
    rw [if_neg hq]
    split <;> exact hold

/-- The owed rules that so many departures queue: none where a tick is due (R144, log entry 10). -/
def State.turns (s : State) (k : Nat) : List (Fin 64) :=
  if s.tickDue then [] else s.owedList.take (16 - (s.alarm.notices.length - k))

/-- A tick is due, or an owed rule finds the queue full. -/
def State.owedBehind (s : State) : Prop := s.tickDue = true ∨ s.owedList = [] ∨ 16 ≤ s.alarm.notices.length

theorem State.owedApart.not_any (h : s.owedApart) (hns : ∀ n ∈ ns, n ∈ s.alarm.notices) (hr : r ∈ s.owedList) :
    ns.any (fun n => n.isOf r) = false := by
  refine List.any_eq_false.mpr fun n hn hisOf => ?_
  exact absurd (State.mem_owedList.mp hr) (by rw [h n (hns n hn) r hisOf]; exact Bool.false_ne_true)

theorem State.mem_turns {k : Nat} (h : r ∈ s.turns k) : r ∈ s.owedList := by
  unfold State.turns at h
  split at h
  · exact absurd h List.not_mem_nil
  · exact List.mem_of_mem_take h

/-- One departure, and the turn of the lowest-indexed owed rule (R144). -/
theorem State.takeNotice_departs (h : s.alarm.notices = n :: ns) (happart : s.owedApart) (hfull : s.owedBehind) :
    ∃ t, s.takeNotice = some (n, t) ∧ s.Departs t [n] (s.turns 1) := by
  have hgone := State.departs_departed h
  have howed : (s.departed n ns).owedList = s.owedList := State.owedList_congr (s.owed_departed n ns)
  unfold State.takeNotice
  rw [h]
  refine ⟨_, rfl, ?_⟩
  unfold State.turns
  by_cases hdue : s.tickDue = true
  · rw [if_pos hdue, if_pos hdue]
    exact hgone
  · rw [if_neg hdue, if_neg hdue]
    have hplaces : s.owedList.take (min 1 (16 - ns.length)) = s.owedList.take (16 - (s.alarm.notices.length - 1)) := by
      rcases hfull.resolve_left hdue with hnone | hfull
      · rw [hnone, List.take_nil, List.take_nil]
      · rw [h, List.length_cons] at hfull ⊢
        rw [show min 1 (16 - ns.length) = 16 - (ns.length + 1 - 1) by omega]
    have hturn := (s.departed n ns).promoteUpTo_departs 1
    rw [howed, State.departed_notices, hplaces] at hturn
    refine hgone.trans hturn (.inl rfl) (fun r hr => ?_) fun r hr => absurd hr List.not_mem_nil
    refine happart.not_any (fun m hm => ?_) (List.mem_of_mem_take hr)
    rw [List.mem_singleton.mp hm, h]
    exact List.mem_cons_self

/-- What is still owed after so many departures (R144). -/
theorem State.Departs.owedList {k : Nat} (h : s.Departs t ns (s.owedList.take k))
    (happart : ∀ r ∈ s.owedList, ns.any (fun n => n.isOf r) = false) : t.owedList = s.owedList.drop k := by
  have hfilter : t.owedList = s.owedList.filter fun r => decide (r ∉ s.owedList.take k) := by
    refine Eq.trans (List.filter_congr fun r _ => ?_) (List.filter_filter (l := List.finRange 64)).symm
    rw [h.record r]
    by_cases howed : (s.record r).owed = true
    · rw [happart r (State.mem_owedList.mpr howed), if_neg Bool.false_ne_true]
      by_cases hr : r ∈ s.owedList.take k
      · rw [if_pos hr]
        exact (Bool.and_eq_false_iff.mpr (.inl (decide_eq_false (not_not_intro hr)))).symm
      · rw [if_neg hr, decide_eq_true hr, Bool.true_and]
    · have hr : r ∉ s.owedList.take k := fun hin => howed (State.mem_owedList.mp (List.mem_of_mem_take hin))
      rw [if_neg hr, eq_false_of_ne_true howed, Bool.and_false]
      split <;> exact eq_false_of_ne_true howed
  have hnodup : (s.owedList.take k ++ s.owedList.drop k).Nodup := by
    rw [List.take_append_drop]
    exact (List.nodup_finRange 64).filter _
  have hdisjoint := (List.nodup_append.mp hnodup).2.2
  have hsplit : s.owedList.filter (fun r => decide (r ∉ s.owedList.take k)) =
      (s.owedList.take k ++ s.owedList.drop k).filter fun r => decide (r ∉ s.owedList.take k) := by
    rw [List.take_append_drop]
  rw [hfilter, hsplit, List.filter_append, List.filter_eq_nil_iff.mpr fun r hr => by simpa using hr, List.nil_append]
  exact List.filter_eq_self.mpr fun r hr => decide_eq_true fun hin => hdisjoint r hin r hr rfl

/-- A departure leaves an owed rule before a full queue (R144). -/
theorem State.Departs.turns_succ (h : s.Departs t [n] (s.turns 1)) (hnotices : s.alarm.notices = n :: ns)
    (happart : s.owedApart) (hfull : s.owedBehind) {k : Nat} (hk : k + 1 ≤ 16) :
    t.owedBehind ∧ (s.turns 1 = [] ∨ k ≤ ns.length) ∧
      s.turns 1 ++ t.turns k = s.turns (k + 1) := by
  have htick : t.tickDue = s.tickDue := by
    rw [h.frame]
    rfl
  have hlength : s.alarm.notices.length = ns.length + 1 := by rw [hnotices, List.length_cons]
  by_cases hdue : s.tickDue = true
  · have hnone : ∀ k, s.turns k = [] := fun k => if_pos hdue
    have hlater : t.turns k = [] := if_pos (htick.trans hdue)
    rw [hnone, hnone, hlater]
    exact ⟨.inl (htick.trans hdue), .inl rfl, rfl⟩
  · have hturns : ∀ k, s.turns k = s.owedList.take (16 - (s.alarm.notices.length - k)) := fun k => if_neg hdue
    have hlater : t.turns k = t.owedList.take (16 - (t.alarm.notices.length - k)) := if_neg (htick ▸ hdue)
    have hleft := h.notices
    rw [hturns] at h hleft
    have howed := h.owedList fun r hr => happart.not_any (fun m hm => by
      rw [List.mem_singleton.mp hm, hnotices]
      exact List.mem_cons_self) hr
    rw [hturns, hturns, hlater]
    rcases hfull.resolve_left hdue with hnone | hfull
    · rw [hnone, List.drop_nil] at howed
      rw [howed, hnone, List.take_nil, List.take_nil, List.take_nil]
      exact ⟨.inr (.inl howed), .inl rfl, rfl⟩
    · rw [howed, ← List.take_add]
      rw [hlength] at hfull hleft ⊢
      have hcount := congrArg List.length hleft
      rw [List.length_append, List.length_drop, List.length_map, List.length_take, List.length_singleton, hlength] at hcount
      refine ⟨.inr ?_, .inr (by omega), ?_⟩
      · rw [howed, List.drop_eq_nil_iff]
        omega
      · by_cases hnone : s.owedList.length = 0
        · rw [List.length_eq_zero_iff.mp hnone, List.take_nil, List.take_nil]
        · congr 1
          omega

/-- So many departures: the notices sent, as the queue held them, and the turns of the owed rules (R144). -/
theorem State.takeNotices_departs (k : Nat) (s : State) (happart : s.owedApart) (hfull : s.owedBehind) (hk : k ≤ 16) :
    (s.takeNotices k).1 = (s.alarm.notices.take k).map (fun n =>
      n.bytes s.tables.rules (s.tables.settings.node.setWidth 8) s.nodeByte s.periodStamp) ∧
    s.Departs (s.takeNotices k).2 (s.alarm.notices.take k) (s.turns k) := by
  induction k generalizing s with
  | zero =>
    have hnone : s.turns 0 = [] := by
      unfold State.turns
      split
      · rfl
      · next hdue =>
        rcases hfull.resolve_left hdue with hnone | hfull
        · rw [hnone, List.take_nil]
        · rw [show 16 - (s.alarm.notices.length - 0) = 0 by omega, List.take_zero]
    rw [List.take_zero, hnone]
    exact ⟨rfl, .refl s⟩
  | succ k ih =>
    unfold State.takeNotices
    cases hqueue : s.alarm.notices with
    | nil =>
      have htake : s.takeNotice = none := by
        unfold State.takeNotice
        rw [hqueue]
      have hnone : s.turns (k + 1) = [] := by
        unfold State.turns
        split
        · rfl
        · next hdue =>
          rcases hfull.resolve_left hdue with hnone | hfull
          · rw [hnone, List.take_nil]
          · rw [hqueue] at hfull
            exact absurd hfull (by decide)
      rw [htake, hnone]
      exact ⟨rfl, .refl s⟩
    | cons n ns =>
      obtain ⟨t, htake, hdeparts⟩ := State.takeNotice_departs hqueue happart hfull
      obtain ⟨hbehind, hroom, hturns⟩ := hdeparts.turns_succ hqueue happart hfull hk
      have hapart : ∀ r ∈ s.owedList, [n].any (fun n => n.isOf r) = false := fun r hr =>
        happart.not_any (fun m hm => by rw [List.mem_singleton.mp hm, hqueue]; exact List.mem_cons_self) hr
      have hleft : t.alarm.notices.take k = ns.take k := by
        rw [hdeparts.notices, hqueue, List.length_singleton, List.drop_one, List.tail_cons]
        rcases hroom with hnone | hroom
        · rw [hnone, List.map_nil, List.append_nil]
        · exact List.take_append_of_le_length hroom
      obtain ⟨hbytes, hlater⟩ := ih t (hdeparts.apart happart fun r hr => hapart r (State.mem_turns hr)) hbehind (by omega)
      rw [htake]
      dsimp only
      rw [hleft] at hbytes hlater
      rw [hbytes, List.take_succ_cons, ← hturns]
      have hframe := hdeparts.frame
      refine ⟨?_, hdeparts.trans hlater ?_ (fun r hr => ?_) fun r hr => ?_⟩
      · have htables : t.tables = s.tables := by rw [hframe]
        have hnode : t.nodeByte = s.nodeByte := by rw [State.nodeByte, hframe, State.nodeByte]
        have hstamp : t.periodStamp = s.periodStamp := by rw [State.periodStamp, hframe, State.periodStamp]
        rw [htables, hnode, hstamp]
        rfl
      · refine hroom.imp_right fun hroom => ?_
        rw [hqueue, List.length_singleton, List.length_cons, List.length_take]
        omega
      · have howed := State.mem_owedList.mp (State.mem_turns hr)
        rw [hdeparts.record r] at howed
        cases hany : [n].any fun n => n.isOf r with
        | false => rfl
        | true =>
          rw [hany, if_pos rfl] at howed
          exact absurd (hapart r (State.mem_owedList.mpr howed)) (by rw [hany]; exact Bool.noConfusion)
      · refine happart.not_any (fun m hm => ?_) (State.mem_turns hr)
        rw [hqueue]
        exact List.mem_cons_of_mem n (List.mem_of_mem_take hm)

end Departs

end Sys2Proof.Machine
end

section
/-! SUPPORT. What the second round takes (R118, R161, R168): replies, cues and meter reports off their queues. -/

namespace Sys2Proof.Machine

/-! ### Replies and cues -/

/-- The replies of a frame: the overflow flag stands in the first and is cleared (R168). -/
theorem State.takeReplies_eq (n : Nat) (s : State) : s.takeReplies n =
    (((s.orders.replies.take n).zipIdx).map fun r => r.1.bytes s.nodeByte (s.orders.overflow && r.2 == 0) s.periodStamp,
      { s with orders := { s.orders with
        replies := s.orders.replies.drop n
        overflow := s.orders.overflow && (s.orders.replies.take n).isEmpty } }) := by
  induction n generalizing s with
  | zero =>
    unfold State.takeReplies
    rw [List.take_zero, List.drop_zero, List.isEmpty_nil, Bool.and_true]
    rfl
  | succ n ih =>
    unfold State.takeReplies
    cases hqueue : s.orders.replies with
    | nil =>
      have hsame : ({ s with orders := { s.orders with replies := [] } } : State) = s := by rw [← hqueue]
      rw [List.take_nil, List.drop_nil, List.isEmpty_nil, Bool.and_true]
      exact congrArg (Prod.mk []) hsame.symm
    | cons r rest =>
      dsimp only
      rw [ih]
      dsimp only
      have hlater : (((rest.take n).zipIdx 1).map fun r => r.1.bytes s.nodeByte (s.orders.overflow && r.2 == 0) s.periodStamp) =
          ((rest.take n).zipIdx 0).map fun r => r.1.bytes s.nodeByte (false && r.2 == 0) s.periodStamp := by
        rw [List.zipIdx_succ, List.map_map]
        refine List.map_congr_left fun r _ => ?_
        simp
      have hfirst : (s.orders.overflow && ((0 : Nat) == 0)) = s.orders.overflow := Bool.and_true _
      rw [List.take_succ_cons, List.zipIdx_cons, List.map_cons, List.drop_succ_cons, List.isEmpty_cons, Bool.and_false]
      rw [Nat.zero_add, hlater, hfirst]
      rfl

/-- The cues of a frame (R118). -/
theorem State.takeCues_eq (n : Nat) (s : State) : s.takeCues n =
    ((s.egress.outbox.take n).map fun c => c.bytes s.nodeByte,
      { s with egress := { s.egress with outbox := s.egress.outbox.drop n } }) := by
  induction n generalizing s with
  | zero => rfl
  | succ n ih =>
    unfold State.takeCues
    cases hqueue : s.egress.outbox with
    | nil =>
      have hsame : ({ s with egress := { s.egress with outbox := [] } } : State) = s := by rw [← hqueue]
      rw [List.take_nil, List.drop_nil]
      exact congrArg (Prod.mk []) hsame.symm
    | cons c rest =>
      dsimp only
      rw [ih]
      rfl

/-! ### Meter reports in rotation (R161) -/

/-- The programs with a meter report to send, in the order of the search. -/
def State.reporters (s : State) : List (Fin 16) := s.reportOrder.filter fun p => (s.program p).meter.report.isSome

/-- The program from which the search for a report goes round. -/
def Egress.reportStart (x : Egress) : Nat := (x.rotation.map fun p => p.val + 1).getD 0

theorem State.reportOrder_eq (s : State) :
    s.reportOrder = (List.range 16).map fun i => Fin.ofNat 16 (s.egress.reportStart + i) := by
  unfold State.reportOrder Egress.reportStart
  cases s.egress.rotation <;> rfl

/-- Behind the program that stands in the middle of one search, the next goes round. -/
theorem State.reportOrder_rotate {s t : State} {p : Fin 16} {as bs : List (Fin 16)} (h : s.reportOrder = as ++ p :: bs)
    (ht : t.egress.rotation = some p) : t.reportOrder = bs ++ (as ++ [p]) := by
  have hlength : as.length + 1 + bs.length = 16 := by
    have := congrArg List.length h
    rw [State.reportOrder_eq, List.length_map, List.length_range, List.length_append, List.length_cons] at this
    omega
  have hp : p.val = (s.egress.reportStart + as.length) % 16 := by
    have hat : s.reportOrder[as.length]? = some p := by
      rw [h, List.getElem?_append_right (Nat.le_refl _), Nat.sub_self]
      rfl
    rw [State.reportOrder_eq, List.getElem?_map, List.getElem?_range (by omega)] at hat
    exact (congrArg Fin.val (Option.some.inj hat)).symm
  have hrotate : t.reportOrder = s.reportOrder.rotate (as.length + 1) := by
    rw [State.reportOrder_eq, State.reportOrder_eq]
    refine List.ext_getElem (by simp) fun i h1 h2 => ?_
    have hstart : t.egress.reportStart = p.val + 1 := by
      unfold Egress.reportStart
      rw [ht]
      rfl
    rw [List.getElem_rotate]
    simp only [List.getElem_map, List.getElem_range, List.length_map, List.length_range, hstart]
    refine Fin.ext ?_
    simp only [Fin.val_ofNat]
    omega
  have hlater : (as ++ p :: bs).rotate (as.length + 1) = bs ++ (as ++ [p]) := by
    rw [List.append_cons, show as.length + 1 = (as ++ [p]).length by simp, List.rotate_append_length_eq]
  rw [hrotate, h, hlater]

section Reports
variable {s t : State} {p : Fin 16} {ps : List (Fin 16)}

theorem State.reporters_nodup (s : State) : s.reporters.Nodup := by
  refine List.Nodup.filter _ ?_
  rw [State.reportOrder_eq]
  refine (List.nodup_map_iff_inj_on List.nodup_range).mpr fun i hi j hj heq => ?_
  rw [List.mem_range] at hi hj
  have hval := congrArg Fin.val heq
  simp only [Fin.val_ofNat] at hval
  omega

/-- The part with the report of one program taken. -/
def State.reported (s : State) (p : Fin 16) : State :=
  let s := s.setProgram p { s.program p with meter := { (s.program p).meter with report := none } }
  { s with egress := { s.egress with rotation := some p } }

theorem State.program_reported (s : State) (p q : Fin 16) : (s.reported p).program q =
    { s.program q with meter := { (s.program q).meter with report := if q = p then none else (s.program q).meter.report } } := by
  have hset : (s.reported p).program q =
      (s.setProgram p { s.program p with meter := { (s.program p).meter with report := none } }).program q := rfl
  rw [hset]
  by_cases hq : q = p
  · subst hq
    rw [State.program_setProgram_self, if_pos rfl]
  · rw [State.program_setProgram_ne _ _ hq, if_neg hq]

/-- Behind one report the others are still to be sent, in their order (R161). -/
theorem State.reporters_reported (h : s.reporters = p :: ps) : (s.reported p).reporters = ps := by
  have hfind : s.reportOrder.find? (fun q => (s.program q).meter.report.isSome) = some p := by
    rw [← List.head?_filter]
    exact congrArg List.head? h
  obtain ⟨hp, as, bs, horder, has⟩ := List.find?_eq_some_iff_append.mp hfind
  have hnone : as.filter (fun q => (s.program q).meter.report.isSome) = [] :=
    List.filter_eq_nil_iff.mpr fun q hq => by simpa using has q hq
  have hps : bs.filter (fun q => (s.program q).meter.report.isSome) = ps := by
    have hsplit : s.reporters = p :: bs.filter fun q => (s.program q).meter.report.isSome := by
      rw [State.reporters, horder, List.filter_append, hnone, List.nil_append,
        List.filter_cons_of_pos (by exact hp)]
    exact (List.cons.inj (hsplit.symm.trans h)).2
  have hsome : ∀ q, ((s.reported p).program q).meter.report.isSome = (q != p && (s.program q).meter.report.isSome) := fun q => by
    rw [State.program_reported]
    by_cases hq : q = p
    · simp [hq]
    · simp [hq]
  have hnodup : (p :: ps).Nodup := h ▸ s.reporters_nodup
  unfold State.reporters
  rw [State.reportOrder_rotate horder rfl]
  simp only [hsome, List.filter_append]
  have hbs : bs.filter (fun q => q != p && (s.program q).meter.report.isSome) = ps := by
    rw [← List.filter_filter, hps]
    exact List.filter_eq_self.mpr fun q hq => bne_iff_ne.mpr fun heq => (List.nodup_cons.mp hnodup).1 (heq ▸ hq)
  have has' : as.filter (fun q => q != p && (s.program q).meter.report.isSome) = [] := by
    rw [← List.filter_filter, hnone, List.filter_nil]
  have hself : [p].filter (fun q => q != p && (s.program q).meter.report.isSome) = [] := by simp
  rw [hbs, has', hself, List.append_nil, List.append_nil]

/-- The meter reports of a frame, in rotation (R161). -/
theorem State.takeReports_eq (n : Nat) (s : State) :
    (s.takeReports n).1 = (s.reporters.take n).filterMap (fun p =>
      (s.program p).meter.report.map fun r => r.bytes s.nodeByte s.periodStamp) ∧
    (s.takeReports n).2 = { s with
      programs := (s.takeReports n).2.programs
      egress := { s.egress with rotation := (s.reporters.take n).getLast?.or s.egress.rotation } } ∧
    ∀ q, (s.takeReports n).2.program q = { s.program q with meter := { (s.program q).meter with
      report := if q ∈ s.reporters.take n then none else (s.program q).meter.report } } := by
  induction n generalizing s with
  | zero => exact ⟨rfl, rfl, fun q => rfl⟩
  | succ n ih =>
    have hfind : s.reportOrder.find? (fun q => (s.program q).meter.report.isSome) = s.reporters.head? :=
      List.head?_filter.symm
    unfold State.takeReports
    rw [hfind]
    cases hlist : s.reporters with
    | nil => exact ⟨rfl, rfl, fun q => rfl⟩
    | cons p ps =>
      obtain ⟨hbytes, hframe, hprogram⟩ := ih (s.reported p)
      rw [State.reporters_reported hlist] at hbytes hframe hprogram
      have hnodup : (p :: ps).Nodup := hlist ▸ s.reporters_nodup
      have hp : (s.program p).meter.report.isSome = true := by
        have hmem : p ∈ s.reporters := hlist ▸ List.mem_cons_self
        exact (List.mem_filter.mp hmem).2
      obtain ⟨r, hr⟩ := Option.isSome_iff_exists.mp hp
      have hne : ∀ q ∈ ps.take n, q ≠ p := fun q hq heq => (List.nodup_cons.mp hnodup).1 (heq ▸ List.mem_of_mem_take hq)
      have hlater : (ps.take n).filterMap (fun q => ((s.reported p).program q).meter.report.map fun r =>
          r.bytes (s.reported p).nodeByte (s.reported p).periodStamp) =
          (ps.take n).filterMap fun q => (s.program q).meter.report.map fun r => r.bytes s.nodeByte s.periodStamp :=
        List.filterMap_congr fun q hq => by
          rw [State.program_reported, if_neg (hne q hq)]
          rfl
      change ((s.program p).meter.report.map fun r => r.bytes s.nodeByte s.periodStamp).getD [] ::
          ((s.reported p).takeReports n).1 = _ ∧ ((s.reported p).takeReports n).2 = _ ∧
        ∀ q, ((s.reported p).takeReports n).2.program q = _
      rw [hbytes, hlater, List.take_succ_cons, List.filterMap_cons, hr]
      refine ⟨rfl, ?_, fun q => ?_⟩
      · have hlast : ((p :: ps.take n).getLast?.or s.egress.rotation) =
            (ps.take n).getLast?.or (s.reported p).egress.rotation := by
          cases ps.take n <;> rfl
        rw [hlast]
        exact hframe
      · rw [hprogram q, State.program_reported]
        have hreport : (if q ∈ ps.take n then none else if q = p then none else (s.program q).meter.report) =
            if q ∈ p :: ps.take n then none else (s.program q).meter.report := by
          simp only [List.mem_cons]
          by_cases hq : q = p
          · simp only [hq, if_true, true_or, ite_self]
          · simp only [hq, if_false, false_or]
        rw [← hreport]

end Reports

end Sys2Proof.Machine
end

section
/-! SUPPORT. The second round of a frame as a whole (R161): at most four parcels, in class order. -/

namespace Sys2Proof.Machine

section Round
variable {s t : State}

/-- The control-class places of a frame: none in strap fault (R161). -/
def State.places (s : State) : Nat := if s.strapFault then 0 else 4

def State.sentReplies (s : State) : List Reply := s.orders.replies.take s.places

def State.sentCues (s : State) : List CueOut := s.egress.outbox.take (s.places - s.sentReplies.length)

def State.sentNotices (s : State) : List Notice :=
  s.alarm.notices.take (s.places - s.sentReplies.length - s.sentCues.length)

def State.sentReports (s : State) : List (Fin 16) :=
  s.reporters.take (s.places - s.sentReplies.length - s.sentCues.length - s.sentNotices.length)

/-- The control-class parcels of a frame, in class order (R161). -/
def State.control (s : State) : List (List Byte) :=
  (s.sentReplies.zipIdx.map fun r => r.1.bytes s.nodeByte (s.orders.overflow && r.2 == 0) s.periodStamp) ++
  (s.sentCues.map fun c => c.bytes s.nodeByte) ++
  (s.sentNotices.map fun n => n.bytes s.tables.rules (s.tables.settings.node.setWidth 8) s.nodeByte s.periodStamp) ++
  (s.sentReports.filterMap fun p => (s.program p).meter.report.map fun r => r.bytes s.nodeByte s.periodStamp)

/-- So many parcels in class order. -/
def State.round (s : State) (k : Nat) : List (List Byte) × State :=
  let (a, s) := s.takeReplies k
  let (b, s) := s.takeCues (k - a.length)
  let (c, s) := s.takeNotices (k - a.length - b.length)
  let (d, s) := s.takeReports (k - a.length - b.length - c.length)
  (a ++ b ++ c ++ d, s)

theorem State.controlRound_eq (s : State) : s.controlRound = s.round s.places := by
  unfold State.controlRound State.places
  split
  · rfl
  · rfl

theorem State.reporters_congr (hprograms : t.programs = s.programs) (hrotation : t.egress.rotation = s.egress.rotation) :
    t.reporters = s.reporters := by
  unfold State.reporters State.reportOrder State.program
  rw [hprograms, hrotation]

/-- The part with its replies and cues off their queues (R118, R168). -/
def State.unqueued (s : State) : State :=
  { s with
    orders := { s.orders with
      replies := s.orders.replies.drop s.sentReplies.length
      overflow := s.orders.overflow && s.sentReplies.isEmpty }
    egress := { s.egress with outbox := s.egress.outbox.drop s.sentCues.length } }

theorem drop_take_length {α : Type} (l : List α) (n : Nat) : l.drop (l.take n).length = l.drop n := by
  rw [List.length_take]
  rcases Nat.le_total n l.length with h | h
  · rw [Nat.min_eq_left h]
  · rw [Nat.min_eq_right h, List.drop_length, List.drop_eq_nil_of_le h]

/-- What the second round takes and leaves (R161). -/
structure State.Rounds (s t : State) : Prop where
  frame : t = { s.unqueued with
    programs := t.programs
    alarm := { s.alarm with records := t.alarm.records, notices := t.alarm.notices }
    egress := { s.unqueued.egress with rotation := s.sentReports.getLast?.or s.egress.rotation } }
  notices : t.alarm.notices = s.alarm.notices.drop s.sentNotices.length ++
    (s.turns (s.places - s.sentReplies.length - s.sentCues.length)).map s.noticeOf
  record : ∀ r, t.record r = if s.sentNotices.any (fun n => n.isOf r) then { s.record r with queued := false, changes := 0 }
    else if r ∈ s.turns (s.places - s.sentReplies.length - s.sentCues.length) then
      { s.record r with owed := false, queued := true } else s.record r
  program : ∀ q, t.program q = { s.program q with meter := { (s.program q).meter with
    report := if q ∈ s.sentReports then none else (s.program q).meter.report } }

theorem State.round_rounds (happart : s.owedApart) (hbehind : s.owedBehind) :
    s.controlRound.1 = s.control ∧ s.Rounds s.controlRound.2 := by
  have hplaces : s.places ≤ 4 := by
    unfold State.places
    split <;> decide
  rw [State.controlRound_eq]
  unfold State.round
  rw [State.takeReplies_eq]
  dsimp only
  rw [State.takeCues_eq, List.length_map, List.length_zipIdx]
  dsimp only
  rw [List.length_map]
  have hunqueued : ({ s with
      orders := { s.orders with
        replies := s.orders.replies.drop s.places
        overflow := s.orders.overflow && (s.orders.replies.take s.places).isEmpty }
      egress := { s.egress with
        outbox := s.egress.outbox.drop (s.places - (s.orders.replies.take s.places).length) } } : State) = s.unqueued := by
    unfold State.unqueued State.sentCues State.sentReplies
    rw [drop_take_length, drop_take_length]
  rw [hunqueued]
  change ((_ ++ _ ++ (s.unqueued.takeNotices (s.places - s.sentReplies.length - s.sentCues.length)).1 ++
    ((s.unqueued.takeNotices (s.places - s.sentReplies.length - s.sentCues.length)).2.takeReports
      (s.places - s.sentReplies.length - s.sentCues.length -
        (s.unqueued.takeNotices (s.places - s.sentReplies.length - s.sentCues.length)).1.length)).1) = _) ∧
    s.Rounds ((s.unqueued.takeNotices (s.places - s.sentReplies.length - s.sentCues.length)).2.takeReports
      (s.places - s.sentReplies.length - s.sentCues.length -
        (s.unqueued.takeNotices (s.places - s.sentReplies.length - s.sentCues.length)).1.length)).2
  obtain ⟨hbytes, hdeparts⟩ := s.unqueued.takeNotices_departs (s.places - s.sentReplies.length - s.sentCues.length)
    happart hbehind (by omega)
  have hlength : (s.unqueued.takeNotices (s.places - s.sentReplies.length - s.sentCues.length)).1.length =
      s.sentNotices.length := by
    rw [hbytes, List.length_map]
    rfl
  rw [hlength, hbytes]
  generalize (s.unqueued.takeNotices (s.places - s.sentReplies.length - s.sentCues.length)).2 = u at hdeparts ⊢
  have huframe := hdeparts.frame
  have hprograms : u.programs = s.programs := by
    rw [huframe]
    rfl
  have hrotation : u.egress.rotation = s.egress.rotation := by
    rw [huframe]
    rfl
  have hnode : u.nodeByte = s.nodeByte := by
    rw [State.nodeByte, huframe]
    rfl
  have hstamp : u.periodStamp = s.periodStamp := by
    rw [State.periodStamp, huframe]
    rfl
  have hself : ∀ q, u.program q = s.program q := fun q => by rw [State.program, hprograms, State.program]
  obtain ⟨hreports, hframe, hprogram⟩ := u.takeReports_eq
    (s.places - s.sentReplies.length - s.sentCues.length - s.sentNotices.length)
  rw [State.reporters_congr hprograms hrotation] at hreports hframe hprogram
  rw [hreports]
  generalize (u.takeReports (s.places - s.sentReplies.length - s.sentCues.length - s.sentNotices.length)).2 = t at hframe hprogram
  refine ⟨?_, ?_, ?_, fun r => ?_, fun q => ?_⟩
  · simp only [hself, hnode, hstamp]
    rfl
  · have halarm : t.alarm = u.alarm := by rw [hframe]
    rw [hrotation, huframe] at hframe
    rw [halarm]
    exact hframe
  · have halarm : t.alarm.notices = u.alarm.notices := by rw [hframe]
    rw [halarm]
    exact hdeparts.notices
  · have halarm : t.record r = u.record r := by rw [State.record, hframe, State.record]
    rw [halarm]
    exact hdeparts.record r
  · rw [hprogram q, hself]
    rfl

end Round
end Sys2Proof.Machine
end

section
/-! SUPPORT. The 128 slots of a frame (R159, R161, R163): AUDIO at its own slots, the queued parcels in the free ones. -/

namespace Sys2Proof.Machine

/-! ### Filling the slots (R163) -/

section Fill
variable {audio : List (Nat × List Byte)} {queued : List (List Byte)} {k : Nat} {b : List Byte}

/-- The slots that no AUDIO parcel takes, ascending. -/
def freeSlots (audio : List (Nat × List Byte)) : List Nat := (List.range 128).filter fun k => !audio.any fun a => a.1 == k

/-- What stands in a slot, where a parcel is placed there. -/
def placedIn (placed : List (Nat × List Byte)) (k : Nat) : Option (List Byte) := (placed.find? fun a => a.1 == k).map (·.2)

theorem fillSlots_length : (fillSlots audio queued).length = 128 := by
  unfold fillSlots
  rw [List.length_map, List.length_range]

theorem fillSlots_at (hk : k < 128) : (fillSlots audio queued)[k]? =
    some ((placedIn (audio ++ (freeSlots audio).zip queued) k).getD emptySlot) := by
  unfold fillSlots
  rw [List.getElem?_map, List.getElem?_range hk]
  rfl

theorem mem_freeSlots : k ∈ freeSlots audio ↔ k < 128 ∧ ∀ a ∈ audio, a.1 ≠ k := by
  unfold freeSlots
  rw [List.mem_filter, List.mem_range]
  simp

theorem freeSlots_nodup : (freeSlots audio).Nodup := List.nodup_range.filter _

/-- An AUDIO parcel stands at its own slot (R159). -/
theorem fillSlots_audio (hkeys : (audio.map (·.1)).Nodup) (hmem : (k, b) ∈ audio) (hk : k < 128) :
    (fillSlots audio queued)[k]? = some b := by
  rw [fillSlots_at hk]
  unfold placedIn
  have hfind : audio.find? (fun a => a.1 == k) = some (k, b) := by
    cases hfound : audio.find? fun a => a.1 == k with
    | none => exact absurd (beq_self_eq_true k) (List.find?_eq_none.mp hfound _ hmem)
    | some a =>
      have hkey : a.1 = k := beq_iff_eq.mp (List.find?_some (p := fun a : Nat × List Byte => a.1 == k) hfound)
      have hin : a ∈ audio := List.mem_of_find?_eq_some hfound
      rw [List.inj_on_of_nodup_map hkeys hin hmem hkey]
  rw [List.find?_append, hfind]
  rfl

/-- Paired off along distinct keys, each key finds its own. -/
theorem placedIn_zip {ks : List Nat} (hks : ks.Nodup) {i : Nat} (hi : i < ks.length) :
    placedIn (ks.zip queued) ks[i] = queued[i]? := by
  induction ks generalizing queued i with
  | nil => exact absurd hi (Nat.not_lt_zero i)
  | cons k ks ih =>
    obtain ⟨hk, hnodup⟩ := List.nodup_cons.mp hks
    cases queued with
    | nil => rfl
    | cons b queued =>
      cases i with
      | zero => simp [placedIn]
      | succ i =>
        have hne : (k == ks[i]'(Nat.lt_of_succ_lt_succ hi)) = false :=
          beq_false_of_ne fun heq => hk (heq ▸ List.getElem_mem _)
        have hrest := ih (queued := queued) hnodup (Nat.lt_of_succ_lt_succ hi)
        unfold placedIn at hrest ⊢
        rw [List.zip_cons_cons, List.getElem_cons_succ, List.find?_cons_of_neg (by rw [hne]; exact Bool.false_ne_true), hrest]
        rfl

/-- The queued parcels stand in the free slots in their order, and EMPTY slots behind them (R163). -/
theorem fillSlots_free {i : Nat} (hi : i < (freeSlots audio).length) :
    (fillSlots audio queued)[(freeSlots audio)[i]]? = some (queued.getD i emptySlot) := by
  obtain ⟨hlt, hfree⟩ := mem_freeSlots.mp (List.getElem_mem hi)
  have hnone : audio.find? (fun a => a.1 == (freeSlots audio)[i]) = none :=
    List.find?_eq_none.mpr fun a ha heq => hfree a ha (beq_iff_eq.mp heq)
  have hzip := placedIn_zip (queued := queued) freeSlots_nodup hi
  unfold placedIn at hzip
  rw [fillSlots_at hlt]
  unfold placedIn
  rw [List.find?_append, hnone, Option.none_or, hzip, List.getD_eq_getElem?_getD]

theorem fillSlots_bytes (haudio : ∀ a ∈ audio, a.2.length = 84) (hqueued : ∀ b ∈ queued, b.length = 84) :
    ∀ b ∈ fillSlots audio queued, b.length = 84 := fun b hb => by
  unfold fillSlots at hb
  obtain ⟨k, -, rfl⟩ := List.mem_map.mp hb
  cases hfind : (audio ++ ((List.range 128).filter fun k => !audio.any fun a => a.1 == k).zip queued).find? fun a => a.1 == k with
  | none => exact sealSlot_length []
  | some a =>
    rcases List.mem_append.mp (List.mem_of_find?_eq_some hfind) with ha | ha
    · exact haudio a ha
    · exact hqueued a.2 (List.of_mem_zip ha).2

/-- So many slots are free as no AUDIO parcel takes. -/
theorem freeSlots_length (hkeys : (audio.map (·.1)).Nodup) (hlt : ∀ a ∈ audio, a.1 < 128) :
    (freeSlots audio).length = 128 - audio.length := by
  have htaken : ((List.range 128).filter fun k => audio.any fun a => a.1 == k).length = audio.length := by
    rw [← List.length_map (as := audio) (·.1)]
    refine (List.perm_of_nodup_nodup_toFinset_eq (List.nodup_range.filter _) hkeys (Finset.ext fun k => ?_)).length_eq
    simp only [List.mem_toFinset, List.mem_filter, List.mem_range, List.any_eq_true, beq_iff_eq, List.mem_map]
    exact ⟨fun h => h.2, fun h => ⟨h.elim fun a ha => ha.2 ▸ hlt a ha.1, h⟩⟩
  have hall := (List.range 128).length_eq_length_filter_add fun k => audio.any fun a => a.1 == k
  rw [List.length_range, htaken] at hall
  unfold freeSlots
  omega

end Fill

end Sys2Proof.Machine
end

section
/-! SUPPORT. The frame built and sent (R159 to R163), and what the beginning of a frame period leaves (R150, R152). -/

namespace Sys2Proof.Machine

/-! ### The first round (R159) -/

section Audio
variable {s : State} {e : Fin 32}

/-- The egress lanes that send: the enabled ones, none in strap fault. -/
def State.sending (s : State) : List (Fin 32) :=
  if s.strapFault then [] else (List.finRange 32).filter fun e => (s.mapEntry e).enabled

theorem State.mem_sending : e ∈ s.sending ↔ s.strapFault = false ∧ (s.mapEntry e).enabled = true := by
  unfold State.sending
  split
  · next h => exact ⟨fun hin => absurd hin List.not_mem_nil, fun hin => absurd (hin.1.symm.trans h) Bool.false_ne_true⟩
  · next h => simp [eq_false_of_ne_true h]

theorem State.audioRound_eq (s : State) : s.audioRound = s.sending.map fun e => ((s.mapEntry e).slot.val, s.audioParcel e) := by
  unfold State.audioRound State.sending
  split <;> rfl

theorem State.audioRound_keys (hslots : s.slotsOk) : (s.audioRound.map (·.1)).Nodup := by
  rw [State.audioRound_eq, List.map_map]
  have hnodup : s.sending.Nodup := by
    unfold State.sending
    split
    · exact List.nodup_nil
    · exact (List.nodup_finRange 32).filter _
  refine (List.nodup_map_iff_inj_on hnodup).mpr fun e he k hk heq => ?_
  by_contra hne
  exact hslots.2.1 e k hne (State.mem_sending.mp he).2 (State.mem_sending.mp hk).2 (Fin.ext heq)

theorem State.audioRound_lt : ∀ a ∈ s.audioRound, a.1 < 128 := fun a ha => by
  rw [State.audioRound_eq] at ha
  obtain ⟨e, -, rfl⟩ := List.mem_map.mp ha
  exact (s.mapEntry e).slot.isLt

theorem State.audioRound_bytes : ∀ a ∈ s.audioRound, a.2.length = 84 := fun a ha => by
  rw [State.audioRound_eq] at ha
  obtain ⟨e, -, rfl⟩ := List.mem_map.mp ha
  exact sealSlot_length _

theorem State.audioRound_length : s.audioRound.length ≤ 32 := by
  rw [State.audioRound_eq, List.length_map]
  unfold State.sending
  split
  · exact Nat.zero_le _
  · exact (List.length_filter_le _ _).trans_eq List.length_finRange

/-- The slots left free, as the egress map tells them. -/
def State.freeOnes (s : State) : List (Fin 128) :=
  (List.finRange 128).filter fun k => s.strapFault ||
    (List.finRange 32).all fun e => !((s.mapEntry e).enabled && (s.mapEntry e).slot == k)

theorem State.freeSlots_audioRound (s : State) : freeSlots s.audioRound = s.freeOnes.map (·.val) := by
  unfold freeSlots State.freeOnes
  rw [← List.map_coe_finRange_eq_range, List.filter_map]
  refine congrArg _ (List.filter_congr fun k _ => ?_)
  have hany : (s.audioRound.any fun a => a.1 == k.val) = true ↔ ∃ e, s.strapFault = false ∧ (s.mapEntry e).enabled = true ∧
      (s.mapEntry e).slot = k := by
    rw [State.audioRound_eq, List.any_map, List.any_eq_true]
    constructor
    · rintro ⟨e, he, hk⟩
      exact ⟨e, (State.mem_sending.mp he).1, (State.mem_sending.mp he).2, Fin.ext (beq_iff_eq.mp hk)⟩
    · rintro ⟨e, hstrap, henabled, rfl⟩
      exact ⟨e, State.mem_sending.mpr ⟨hstrap, henabled⟩, beq_self_eq_true _⟩
  rw [Function.comp_apply, Bool.eq_iff_iff, Bool.not_eq_true', Bool.or_eq_true, ← Bool.not_eq_true, hany, List.all_eq_true]
  constructor
  · intro hnone
    by_cases hstrap : s.strapFault = true
    · exact .inl hstrap
    · refine .inr fun e _ => ?_
      rw [Bool.not_eq_true', ← Bool.not_eq_true, Bool.and_eq_true, beq_iff_eq]
      exact fun h => hnone ⟨e, eq_false_of_ne_true hstrap, h⟩
  · rintro h ⟨e, hstrap, henabled, hslot⟩
    rcases h with h | h
    · exact absurd (hstrap.symm.trans h) Bool.false_ne_true
    · have := h e (List.mem_finRange e)
      rw [henabled, hslot, beq_self_eq_true] at this
      exact absurd this Bool.false_ne_true

/-- Every lane as the first round leaves it (R159). -/
def State.gathered (s : State) (e : Fin 32) : EgressLane :=
  if (s.mapEntry e).enabled && !s.strapFault then { s.egressLane e with seq := (s.egressLane e).seq + 1, owed := false, samples := [] }
  else { s.egressLane e with samples := [] }

theorem State.afterAudio_eq (s : State) :
    s.afterAudio = { s with egress := { s.egress with lanes := Vector.ofFn s.gathered } } := rfl

end Audio

/-! ### The frame built and sent (R159 to R163) -/

section Build
variable {s t : State}

theorem State.Rounds.egress (h : s.Rounds t) :
    t.egress = { s.unqueued.egress with rotation := s.sentReports.getLast?.or s.egress.rotation } := by
  conv_lhs => rw [h.frame]

theorem State.Rounds.passthrough (h : s.Rounds t) : t.egress.passthrough = s.egress.passthrough := by
  rw [h.egress]
  rfl

theorem State.Rounds.number (h : s.Rounds t) : t.egress.number = s.egress.number := by
  rw [h.egress]
  rfl

theorem State.control_bytes : ∀ b ∈ s.control, b.length = 84 := fun b hb => by
  unfold State.control at hb
  simp only [List.mem_append, List.mem_map, List.mem_filterMap, Option.map_eq_some_iff] at hb
  rcases hb with ((⟨r, -, rfl⟩ | ⟨c, -, rfl⟩) | ⟨n, -, rfl⟩) | ⟨p, -, m, -, rfl⟩
  · exact sealSlot_length _
  · exact sealSlot_length _
  · cases n <;> exact sealSlot_length _
  · exact sealSlot_length _

theorem State.control_length : s.control.length ≤ 4 := by
  have hplaces : s.places ≤ 4 := by
    unfold State.places
    split <;> decide
  have hreports : (s.sentReports.filterMap fun p => (s.program p).meter.report.map fun r =>
      r.bytes s.nodeByte s.periodStamp).length ≤ s.sentReports.length := List.length_filterMap_le _ _
  have hr : s.sentReplies.length ≤ s.places := List.length_take_le _ _
  have hc : s.sentCues.length ≤ s.places - s.sentReplies.length := List.length_take_le _ _
  have hn : s.sentNotices.length ≤ s.places - s.sentReplies.length - s.sentCues.length := List.length_take_le _ _
  have hm : s.sentReports.length ≤ s.places - s.sentReplies.length - s.sentCues.length - s.sentNotices.length :=
    List.length_take_le _ _
  unfold State.control
  simp only [List.length_append, List.length_map, List.length_zipIdx]
  omega

/-- The slots of the frame. -/
def State.slots (s : State) : List (List Byte) :=
  fillSlots s.audioRound (s.control ++ s.egress.passthrough.take (128 - s.audioRound.length - s.control.length))

/-- The frame is built behind the second round (R163). -/
theorem State.buildFrame_rounds (happart : s.owedApart) (hbehind : s.owedBehind) : ∃ t,
    ({ s with egress := { s.egress with lanes := Vector.ofFn s.gathered } } : State).Rounds t ∧
      s.buildFrame = { t with egress := { t.egress with
        passthrough := s.egress.passthrough.drop (128 - s.audioRound.length - s.control.length)
        sent := some ⟨frameHead s.egress.number, s.slots⟩
        number := s.egress.number + 1 } } := by
  have hrecord : ∀ r, s.afterAudio.record r = s.record r := fun r => by rw [State.afterAudio_eq, State.record, State.record]
  have hnotices : s.afterAudio.alarm.notices = s.alarm.notices := by rw [State.afterAudio_eq]
  have htick : s.afterAudio.tickDue = s.tickDue := by rw [State.tickDue, State.afterAudio_eq, State.tickDue]
  have happart' : s.afterAudio.owedApart := fun n hn r hr => by
    rw [hrecord]
    exact happart n (hnotices ▸ hn) r hr
  have hbehind' : s.afterAudio.owedBehind := by
    unfold State.owedBehind
    rw [htick, hnotices, State.owedList_congr (s := s) (t := s.afterAudio) fun r => congrArg Record.owed (hrecord r)]
    exact hbehind
  obtain ⟨hcontrol, hrounds⟩ := State.round_rounds happart' hbehind'
  have hsame : s.afterAudio.control = s.control := by
    rw [State.afterAudio_eq]
    generalize Vector.ofFn s.gathered = lanes
    rfl
  rw [hsame] at hcontrol
  have hbuild : s.buildFrame = { s.afterAudio.controlRound.2 with egress := { s.afterAudio.controlRound.2.egress with
      passthrough := s.afterAudio.controlRound.2.egress.passthrough.drop
        (128 - s.audioRound.length - s.afterAudio.controlRound.1.length)
      sent := some ⟨frameHead s.afterAudio.controlRound.2.egress.number, fillSlots s.audioRound
        (s.afterAudio.controlRound.1 ++ s.afterAudio.controlRound.2.egress.passthrough.take
          (128 - s.audioRound.length - s.afterAudio.controlRound.1.length))⟩
      number := s.afterAudio.controlRound.2.egress.number + 1 } } := by
    unfold State.buildFrame
    rfl
  rw [hbuild, hcontrol]
  rw [State.afterAudio_eq] at hrounds ⊢
  generalize (State.controlRound _).2 = t at hrounds ⊢
  rw [hrounds.passthrough, hrounds.number]
  exact ⟨t, hrounds, rfl⟩

end Build

/-! ### The beginning of a frame period (R150, R152) -/

/-- The part with its programs and lines moved, every meter as it was. -/
structure State.Sets (s t : State) : Prop where
  frame : t = { s with
    programs := t.programs
    alarm := { s.alarm with majorLine := t.alarm.majorLine, minorLine := t.alarm.minorLine } }
  meter : ∀ q, (t.program q).meter = (s.program q).meter

section Sets
variable {s t u : State}

theorem State.Sets.refl (s : State) : s.Sets s := ⟨rfl, fun _ => rfl⟩

theorem State.Sets.trans (h : s.Sets t) (k : t.Sets u) : s.Sets u where
  frame := by
    have hk := k.frame
    rw [h.frame] at hk
    exact hk
  meter q := (k.meter q).trans (h.meter q)

theorem State.sets_followThrough (s : State) : s.Sets s.followThrough := by
  have hands := s.handsOn_followThrough
  refine ⟨?_, fun q => by rw [hands.program q]⟩
  have hrest := hands.rest
  generalize s.followThrough = t at hrest ⊢
  rw [hrest]

theorem State.sets_setProgram {p : Fin 16} {x : Program} (h : x.meter = (s.program p).meter) : s.Sets (s.setProgram p x) where
  frame := rfl
  meter q := by
    by_cases hq : q = p
    · subst hq
      rw [State.program_setProgram_self, h]
    · rw [State.program_setProgram_ne _ _ hq]

theorem State.servoed_meter (s : State) (p : Fin 16) (x : Program) : (s.servoed p x).meter = x.meter := by
  have hglide : ∀ (x : Program) E b1 nominal gmax, (x.glideUpdate E b1 nominal gmax).meter = x.meter := fun x E b1 nominal gmax => by
    unfold Program.glideUpdate
    split <;> rfl
  unfold State.servoed
  split
  · unfold Program.servoed
    dsimp only
    split
    · rfl
    · split
      · rfl
      · unfold Program.steered
        split
        · unfold Program.trackUpdate
          split
          · rfl
          · split
            · rfl
            · exact hglide _ _ _ _ _
        · exact hglide _ _ _ _ _
        · rfl
  · rfl

theorem State.sets_servoUpdates (s : State) : s.Sets s.servoUpdates := by
  refine foldl_rel State.Sets.refl State.Sets.trans (fun s p => ?_) _ s
  have hset : s.Sets (s.setProgram p (s.servoed p (s.program p))) := State.sets_setProgram (s.servoed_meter p _)
  rcases s.servoUpdate_eq p with h | h
  · rw [h]
    exact hset
  · rw [h]
    exact hset.trans (State.sets_followThrough _)

theorem State.sets_fixRatios (s : State) : s.Sets s.fixRatios where
  frame := rfl
  meter q := by
    unfold State.fixRatios
    rw [State.program_mapPrograms]
    split <;> rfl

/-- A frame period begins: the stored map governs, and beside it programs and lines alone move (R150, R152). -/
theorem State.beginPeriod_sets (s : State) : ∃ t, (s.setMap (Vector.ofFn s.laneApplied) (Vector.ofFn s.entryApplied)).Sets t ∧
    s.beginPeriod = { t with house := { t.house with toFrame := 12 }, egress := { t.egress with sampleFrom := none } } := by
  have hmap : (s.setMap (Vector.ofFn s.laneApplied) (Vector.ofFn s.entryApplied)).Sets s.applyMap := by
    rw [State.applyMap_eq]
    exact State.sets_followThrough _
  exact ⟨_, hmap.trans (s.applyMap.sets_fixRatios.trans (State.sets_servoUpdates _)), s.beginPeriod_eq⟩

end Sets

end Sys2Proof.Machine
end

section
/-! SUPPORT. What a frame start leaves of every block (R150, R152, R159 to R163), and the places that owed rules take before
an order and before a house sample (R144). -/

namespace Sys2Proof.Machine

/-! ### The beginning of a frame period (R150, R152) -/

/-- What the beginning of a frame period leaves of every block. -/
structure State.Begins (s t : State) : Prop where
  frame : t = { s with
    programs := t.programs
    alarm := { s.alarm with majorLine := t.alarm.majorLine, minorLine := t.alarm.minorLine }
    house := { s.house with toFrame := 12 }
    egress := { s.egress with
      lanes := t.egress.lanes, map := t.egress.map, pending := Vector.replicate 32 none, sampleFrom := none } }
  lane : ∀ e, t.egressLane e = s.laneApplied e
  entry : ∀ e, t.mapEntry e = s.entryApplied e
  meter : ∀ q, (t.program q).meter = (s.program q).meter

theorem State.beginPeriod_begins (s : State) : s.Begins s.beginPeriod := by
  obtain ⟨t, hsets, hbegun⟩ := s.beginPeriod_sets
  have hlanes : ∀ e : Fin 32, (Vector.ofFn s.laneApplied)[e] = s.laneApplied e := fun e => Vector.getElem_ofFn _
  have hentries : ∀ e : Fin 32, (Vector.ofFn s.entryApplied)[e] = s.entryApplied e := fun e => Vector.getElem_ofFn _
  generalize Vector.ofFn s.laneApplied = lanes at hsets hlanes
  generalize Vector.ofFn s.entryApplied = map at hsets hentries
  have hframe := hsets.frame
  have hegress : t.egress = (s.setMap lanes map).egress := by rw [hframe]
  rw [hbegun]
  refine ⟨?_, fun e => ?_, fun e => ?_, hsets.meter⟩
  · conv_lhs => rw [hframe]
    dsimp only
    rw [hegress]
    rfl
  · rw [← hlanes e]
    change t.egress.lanes[e] = _
    rw [hegress]
    rfl
  · rw [← hentries e]
    change t.egress.map[e] = _
    rw [hegress]
    rfl

section Begins
variable {s t : State} (h : s.Begins t)
include h

theorem State.Begins.rest : t.tables = s.tables ∧ t.rx = s.rx ∧ t.lanes = s.lanes ∧ t.mem = s.mem ∧ t.orders = s.orders ∧
    t.house = { s.house with toFrame := 12 } := by
  rw [h.frame]
  exact ⟨rfl, rfl, rfl, rfl, rfl, rfl⟩

theorem State.Begins.egress : t.egress = { s.egress with
    lanes := t.egress.lanes, map := t.egress.map, pending := Vector.replicate 32 none, sampleFrom := none } := by
  conv_lhs => rw [h.frame]

theorem State.Begins.alarm : t.alarm.notices = s.alarm.notices ∧ ∀ r, t.record r = s.record r := by
  refine ⟨?_, fun r => ?_⟩
  · rw [h.frame]
  · rw [State.record, h.frame, State.record]

end Begins

/-! ### Places for owed rules (R144) -/

section Promote
variable {s : State}

/-- The owed rules that the free places of the queue take. -/
def State.promoted (s : State) : List (Fin 64) := s.owedList.take (16 - s.alarm.notices.length)

theorem State.promoteAll_departs (s : State) : s.Departs s.promoteAll [] s.promoted := by
  have h := s.promoteUpTo_departs noticeSize
  rw [show min noticeSize (16 - s.alarm.notices.length) = 16 - s.alarm.notices.length from
    Nat.min_eq_right (Nat.sub_le 16 _)] at h
  exact h

theorem State.promoteAll_at (s : State) : s.promoteAll = { s with alarm := { s.alarm with
    notices := s.alarm.notices ++ s.promoted.map s.noticeOf
    records := Vector.ofFn fun r => if r ∈ s.promoted then { s.record r with owed := false, queued := true } else s.record r } } := by
  have hall := s.promoteAll_departs
  have hnotices : s.promoteAll.alarm.notices = s.alarm.notices ++ s.promoted.map s.noticeOf := hall.notices
  have hrecords : s.promoteAll.alarm.records =
      Vector.ofFn fun r => if r ∈ s.promoted then { s.record r with owed := false, queued := true } else s.record r := by
    refine Vector.ext fun i hi => ?_
    rw [Vector.getElem_ofFn]
    have hr := hall.record ⟨i, hi⟩
    rw [List.any_nil, if_neg Bool.false_ne_true] at hr
    exact hr
  have hframe := hall.frame
  rw [hnotices, hrecords] at hframe
  exact hframe

theorem State.promoteAll_settled (s : State) : s.promoteAll.promotionDue = false := by
  refine eq_false_of_ne_true fun hdue => ?_
  obtain ⟨hroom, howed⟩ := State.promotionDue_iff.mp hdue
  obtain ⟨r, rs, hlist⟩ := List.exists_cons_of_ne_nil howed
  have hr : (s.promoteAll.record r).owed = true := State.mem_owedList.mp (hlist ▸ List.mem_cons_self)
  exact absurd hroom (Nat.not_lt.mpr (s.promoteAll_owed r hr))

/-- No step of the part's own comes or goes with the notices queued. -/
theorem State.urgentStep_congr {records : Vector Record 64} {notices : List Notice}
    (hdue : ∀ r : Fin 64, records[r].due = (s.record r).due) :
    ({ s with alarm := { s.alarm with records := records, notices := notices } } : State).urgentStep = s.urgentStep := by
  have hmove : ∀ r m, ({ s with alarm := { s.alarm with records := records, notices := notices } } : State).moveDue r m =
      s.moveDue r m := fun r m => by
    have hat : ∀ r, (({ s with alarm := { s.alarm with records := records, notices := notices } } : State).record r).due =
        (s.record r).due := hdue
    unfold State.moveDue
    simp only [hat]
    rfl
  unfold State.urgentStep State.urgentAlarm
  simp only [hmove]
  rfl

theorem State.promoteAll_due (s : State) (r : Fin 64) : (s.promoteAll.record r).due = (s.record r).due := by
  rw [s.promoteAll_departs.record r, List.any_nil, if_neg Bool.false_ne_true]
  split <;> rfl

theorem State.urgentStep_promoteAll (s : State) : s.promoteAll.urgentStep = s.urgentStep := by
  have hdue := s.promoteAll_due
  rw [s.promoteAll_eq] at hdue ⊢
  exact State.urgentStep_congr hdue

/-- An order finds the owed rules queued that had places (R144, R166). -/
theorem exec_promoteAll {o : Order} (hurgent : s.urgentStep = none) (hnext : s.nextOrder = some o) :
    exec o.row s = exec o.row s.promoteAll := by
  obtain ⟨effect, hexec, -⟩ := exec_orderRow o.row_carriesOrder
  have hnext' : s.promoteAll.nextOrder = some o := by
    rw [s.promoteAll_eq]
    exact hnext
  have hsettle : ∀ {s : State}, s.urgentStep = none → s.settleOwn = s := fun {s} h => by
    simp only [State.settleOwn, settleFuel, State.takeOwnSteps, h]
  have hhead : s.promoteAll.takeHead = s.takeHead := by
    rw [State.takeHead, State.promoteAll_of_quiet s.promoteAll_settled, State.takeHead]
  have hsame : s.orderCommand o.row effect = s.promoteAll.orderCommand o.row effect := by
    unfold State.orderCommand
    dsimp only
    rw [hsettle hurgent, hsettle (s.urgentStep_promoteAll.trans hurgent), hnext, hnext']
    dsimp only
    rw [if_pos rfl, if_pos rfl, hhead]
  rw [hexec, hexec, hsame]

/-- A house sample leaves records and notices as the free places leave them (R144). -/
theorem exec_houseSample_notices (hrest : s.atRest) (htick : s.tickDue = false) (hwarm : s.warmUpDue = false)
    (hframe : s.frameDue = false) : ∃ t, exec .houseSample s = .next t ∧
      t.alarm.notices = s.promoteAll.alarm.notices ∧ ∀ r, t.record r = s.promoteAll.record r := by
  have hclock : s.settleClock = s.promoteAll := by
    unfold State.settleClock
    dsimp only
    rw [htick, if_neg Bool.false_ne_true, hwarm, if_neg Bool.false_ne_true, hframe, if_neg Bool.false_ne_true]
  have hrun : exec .houseSample s = .next s.promoteAll.sampleHouse :=
    congrArg Host.Outcome.next ((State.outside_of_rest hrest _).trans (by rw [hclock]))
  refine ⟨_, hrun, ?_⟩
  have hsampled : ∀ s : State, s.sampleHouse.alarm.notices = s.alarm.notices ∧ ∀ r, s.sampleHouse.record r = s.record r :=
    fun s => by
      unfold State.sampleHouse
      dsimp only
      generalize hu : ({ s with house := s.house.step, egress := { s.egress with
        sampleFrom := some s.egress.outbox.length } } : State) = u
      have hu' : u.alarm.notices = s.alarm.notices ∧ ∀ r, u.record r = s.record r := by
        subst hu
        exact ⟨rfl, fun _ => rfl⟩
      have hsampled := (u.samplePrograms_tranquil (List.finRange 16)).handed.toOrderly
      generalize u.samplePrograms (List.finRange 16) = outs at hsampled ⊢
      have hlanes : outs.2.Handed (outs.2.mapEgressLanes fun e x => outs.2.laneSample outs.1 e x) :=
        .mapEgressLanes fun e x => outs.2.laneSample_x outs.1 e x
      have hall := hsampled.trans (hlanes.trans (State.Orderly.followed (.refl _))).toOrderly
      exact ⟨hall.notices.trans hu'.1, fun r => (hall.record r).trans (hu'.2 r)⟩
  exact hsampled s.promoteAll

end Promote

end Sys2Proof.Machine
end

section
/-! SUPPORT. The frame sent, part by part (R150, R152, R159 to R163, R168). -/

namespace Sys2Proof.Machine

/-! ### The frame and its slots -/

theorem frameHead_bytes (n : BitVec 16) : frameHead n =
    ⟨.sync, .data 0xC5, .data (BitVec.ofNat 8 (n.toNat / 256)), .data (BitVec.ofNat 8 n.toNat)⟩ := by
  have hhigh : n.extractLsb' 8 8 = BitVec.ofNat 8 (n.toNat / 256) := BitVec.eq_of_toNat_eq (by
    rw [BitVec.extractLsb'_toNat, BitVec.toNat_ofNat, Nat.shiftRight_eq_div_pow])
  have hlow : n.extractLsb' 0 8 = BitVec.ofNat 8 n.toNat := BitVec.eq_of_toNat_eq (by
    rw [BitVec.extractLsb'_toNat, BitVec.toNat_ofNat, Nat.shiftRight_zero])
  rw [frameHead, hhigh, hlow]

section Slots
variable {s : State} (hslots : s.slotsOk)
include hslots

theorem State.freeOnes_length : s.freeOnes.length = 128 - s.audioRound.length := by
  rw [← freeSlots_length (State.audioRound_keys hslots) State.audioRound_lt, State.freeSlots_audioRound, List.length_map]

/-- The parcels of the free slots: the control class, the passthrough queue, EMPTY slots (R161 to R163). -/
theorem State.slots_free {i : Nat} (hi : i < s.freeOnes.length) :
    s.slots[s.freeOnes[i].val]? = some ((s.control ++ s.egress.passthrough).getD i (sealSlot [])) := by
  have hi' : i < (freeSlots s.audioRound).length := by
    rw [State.freeSlots_audioRound, List.length_map]
    exact hi
  have hat : (freeSlots s.audioRound)[i] = s.freeOnes[i].val := by
    simp only [State.freeSlots_audioRound, List.getElem_map]
  have hroom : i < s.control.length + (128 - s.audioRound.length - s.control.length) := by
    rw [State.freeOnes_length hslots] at hi
    omega
  have hqueued : (s.control ++ s.egress.passthrough.take (128 - s.audioRound.length - s.control.length)).getD i emptySlot =
      (s.control ++ s.egress.passthrough).getD i emptySlot := by
    rw [List.getD_eq_getElem?_getD, List.getD_eq_getElem?_getD, List.getElem?_append, List.getElem?_append]
    split
    · rfl
    · rw [List.getElem?_take, if_pos (by omega)]
  rw [← hat]
  unfold State.slots
  rw [fillSlots_free hi', hqueued]
  rfl

theorem State.slots_audio {e : Fin 32} (hstrap : s.strapFault = false) (he : (s.mapEntry e).enabled = true) :
    s.slots[(s.mapEntry e).slot.val]? = some (s.audioParcel e) := by
  refine fillSlots_audio (State.audioRound_keys hslots) ?_ (s.mapEntry e).slot.isLt
  rw [State.audioRound_eq]
  exact List.mem_map.mpr ⟨e, State.mem_sending.mpr ⟨hstrap, he⟩, rfl⟩

omit hslots in
theorem State.slots_bytes (hparcels : s.parcelsOk) : ∀ b ∈ s.slots, b.length = 84 := by
  refine fillSlots_bytes State.audioRound_bytes fun b hb => ?_
  rcases List.mem_append.mp hb with hb | hb
  · exact State.control_bytes b hb
  · exact hparcels b (List.mem_of_mem_take hb)

end Slots

/-! ### What a frame start leaves (R150) -/

/-- What a frame start leaves of every block but programs, lines and egress lanes. -/
structure State.Frames (s t : State) : Prop where
  house : t.house = { s.house with toFrame := 12 }
  rest : t.tables = s.tables ∧ t.rx = s.rx ∧ t.lanes = s.lanes ∧ t.mem = s.mem ∧ t.orders = s.unqueued.orders
  egress : t.egress = { s.unqueued.egress with
    lanes := t.egress.lanes, map := t.egress.map, pending := Vector.replicate 32 none, sampleFrom := none
    rotation := s.sentReports.getLast?.or s.egress.rotation
    passthrough := s.egress.passthrough.drop (128 - s.audioRound.length - s.control.length)
    sent := some ⟨frameHead s.egress.number, s.slots⟩
    number := s.egress.number + 1 }
  notices : t.alarm.notices = s.alarm.notices.drop s.sentNotices.length ++
    (s.turns (s.places - s.sentReplies.length - s.sentCues.length)).map s.noticeOf
  record : ∀ r, t.record r = if s.sentNotices.any (fun n => n.isOf r) then { s.record r with queued := false, changes := 0 }
    else if r ∈ s.turns (s.places - s.sentReplies.length - s.sentCues.length) then
      { s.record r with owed := false, queued := true } else s.record r
  meter : ∀ q, (t.program q).meter = { (s.program q).meter with
    report := if q ∈ s.sentReports then none else (s.program q).meter.report }
  entry : ∀ e, t.mapEntry e = if s.egress.pending[e].isSome then s.tables.map[e] else s.mapEntry e
  lane : ∀ e, t.egressLane e =
    { samples := []
      x := if s.egress.pending[e] = none then (s.egressLane e).x
        else if (s.program s.tables.map[e].program).change.state.crossed then 960 else 0
      seq := if s.egress.pending[e] = some true then 0
        else if s.strapFault = false ∧ (s.mapEntry e).enabled = true then (s.egressLane e).seq + 1 else (s.egressLane e).seq
      owed := (s.egressLane e).owed &&
        !((s.strapFault = false ∧ (s.mapEntry e).enabled = true) || s.egress.pending[e] == some true) }

/-- The second round behind the first (R159, R161): what it leaves, told of the part before. -/
theorem State.Rounds.of_gathered {s t : State} {lanes : Vector EgressLane 32}
    (h : ({ s with egress := { s.egress with lanes := lanes } } : State).Rounds t) :
    t = { s.unqueued with
      programs := t.programs
      alarm := { s.alarm with records := t.alarm.records, notices := t.alarm.notices }
      egress := { s.unqueued.egress with rotation := s.sentReports.getLast?.or s.egress.rotation, lanes := lanes } } := h.frame

theorem State.gathered_eq (s : State) (e : Fin 32) : s.gathered e =
    { samples := []
      x := (s.egressLane e).x
      seq := if s.strapFault = false ∧ (s.mapEntry e).enabled = true then (s.egressLane e).seq + 1 else (s.egressLane e).seq
      owed := (s.egressLane e).owed && !decide (s.strapFault = false ∧ (s.mapEntry e).enabled = true) } := by
  unfold State.gathered
  cases s.strapFault <;> cases (s.mapEntry e).enabled <;> simp

theorem State.laneApplied_eq (s : State) (e : Fin 32) : s.laneApplied e =
    { samples := (s.egressLane e).samples
      x := if s.egress.pending[e] = none then (s.egressLane e).x
        else if (s.program s.tables.map[e].program).change.state.crossed then 960 else 0
      seq := if s.egress.pending[e] = some true then 0 else (s.egressLane e).seq
      owed := (s.egressLane e).owed && !(s.egress.pending[e] == some true) } := by
  unfold State.laneApplied
  cases hpending : s.egress.pending[e] with
  | none => simp
  | some fresh => cases fresh <;> simp

theorem State.startFrame_frames {s : State} (happart : s.owedApart) (hbehind : s.owedBehind) : s.Frames s.startFrame := by
  obtain ⟨t, hrounds, hbuilt⟩ := State.buildFrame_rounds happart hbehind
  have hlanes : ∀ e : Fin 32, (Vector.ofFn s.gathered)[e] = s.gathered e := fun e => Vector.getElem_ofFn _
  generalize Vector.ofFn s.gathered = lanes at hrounds hlanes
  have hframe := hrounds.of_gathered
  unfold State.startFrame
  generalize s.buildFrame = u at hbuilt ⊢
  have hbegins := u.beginPeriod_begins
  generalize u.beginPeriod = w at hbegins ⊢
  have hu : u = { s.unqueued with
      programs := t.programs
      alarm := { s.alarm with records := t.alarm.records, notices := t.alarm.notices }
      egress := { s.unqueued.egress with
        rotation := s.sentReports.getLast?.or s.egress.rotation, lanes := lanes
        passthrough := s.egress.passthrough.drop (128 - s.audioRound.length - s.control.length)
        sent := some ⟨frameHead s.egress.number, s.slots⟩
        number := s.egress.number + 1 } } := by
    have hegress : t.egress =
        { s.unqueued.egress with rotation := s.sentReports.getLast?.or s.egress.rotation, lanes := lanes } := by
      conv_lhs => rw [hframe]
    rw [hbuilt, hegress]
    conv_lhs => rw [hframe]
  have hprogram : ∀ q, u.program q = t.program q := fun q => by rw [hu, State.program, State.program]
  have hchange : ∀ q, (u.program q).change = (s.program q).change := fun q => by
    rw [hprogram, hrounds.program q]
    rfl
  have hlane : ∀ e, u.egressLane e = s.gathered e := fun e => by
    rw [State.egressLane, hu]
    exact hlanes e
  obtain ⟨htables, hrx, hwlanes, hmem, horders, hhouse⟩ := hbegins.rest
  obtain ⟨hnotices, hrecord⟩ := hbegins.alarm
  have hegress := hbegins.egress
  refine ⟨?_, ⟨?_, ?_, ?_, ?_, ?_⟩, ?_, ?_, fun r => ?_, fun q => ?_, fun e => ?_, fun e => ?_⟩
  · rw [hhouse, hu]
    rfl
  · rw [htables, hu]
    rfl
  · rw [hrx, hu]
    rfl
  · rw [hwlanes, hu]
    rfl
  · rw [hmem, hu]
    rfl
  · rw [horders, hu]
  · rw [hu] at hegress
    exact hegress
  · rw [hnotices, hu]
    exact hrounds.notices
  · have hr : u.record r = t.record r := by rw [hu, State.record, State.record]
    rw [hrecord, hr]
    exact hrounds.record r
  · rw [hbegins.meter q, hprogram, hrounds.program q]
    rfl
  · rw [hbegins.entry e]
    unfold State.entryApplied State.mapEntry
    rw [hu]
    rfl
  · have hpending : u.egress.pending = s.egress.pending := by
      rw [hu]
      rfl
    have hmap : u.tables = s.tables := by
      rw [hu]
      rfl
    rw [hbegins.lane e, State.laneApplied_eq, hlane, State.gathered_eq, hpending, hmap, hchange]
    simp only [Bool.not_or, Bool.and_assoc]

/-! ### The frame start and the warm-up's end as commands -/

section Command
variable {s : State}

theorem State.owedBehind_of_noticesOk (hframe : s.house.toFrame = 0) (hnotices : s.noticesOk) : s.owedBehind := by
  refine .inr ?_
  by_cases hnone : s.owedList = []
  · exact .inl hnone
  · obtain ⟨r, rs, hlist⟩ := List.exists_cons_of_ne_nil hnone
    have howed : (s.record r).owed = true := State.mem_owedList.mp (hlist ▸ List.mem_cons_self)
    rcases hnotices.2 r howed with hfull | ⟨-, hfresh⟩
    · exact .inr hfull
    · exact absurd (hframe.symm.trans hfresh) (by decide)

/-- The turns that a frame start gives are as many as the places it leaves (R144). -/
theorem State.turns_sent (hbehind : s.owedBehind) (k : Nat) (hk : k ≤ 16) : s.turns k =
    if s.house.toTick = 0 then []
    else s.owedList.take (16 - (s.alarm.notices.length - (s.alarm.notices.take k).length)) := by
  have htick : s.tickDue = true ↔ s.house.toTick = 0 := beq_iff_eq
  unfold State.turns
  by_cases hdue : s.house.toTick = 0
  · rw [if_pos (htick.mpr hdue), if_pos hdue]
  · rw [if_neg (mt htick.mp hdue), if_neg hdue]
    rcases hbehind.resolve_left (mt htick.mp hdue) with hnone | hfull
    · rw [hnone, List.take_nil, List.take_nil]
    · rw [List.length_take, Nat.min_eq_left (hk.trans hfull)]

theorem ChangeoverState.crossed_iff (c : ChangeoverState) : c.crossed = true ↔ c = .alternate ∨ c = .reverting := by
  cases c <;> decide

theorem exec_egressFrameStart_of_rest (hrest : s.atRest) (hwarm : s.house.warmedUp = true) (hframe : s.house.toFrame = 0) :
    exec .egressFrameStart s = .next s.startFrame := by
  have hdue : s.frameDue = true := by rw [State.frameDue, hwarm, hframe]; rfl
  exact congrArg Host.Outcome.next (State.clockCommand_of_rest hrest _ _ hdue)

theorem exec_egressWarmUpEnd_of_rest (hrest : s.atRest) (hwarm : s.house.warmedUp = false) (hleft : s.house.warmUpLeft = 0) :
    exec .egressWarmUpEnd s = .next s.endEgressWarmUp := by
  have hdue : s.warmUpDue = true := by rw [State.warmUpDue, hwarm, hleft]; rfl
  exact congrArg Host.Outcome.next (State.clockCommand_of_rest hrest _ _ hdue)

end Command

/-- Settles O28: the beginning of a period moves the map and what the servo sets; a frame start sends before it what the
three rounds put in the slots; and the owed rules take the places left before an order or a house sample is taken. -/
theorem framesAreSent : Obligations.FramesAreSent := by
  unfold Obligations.FramesAreSent
  refine ⟨fun s hrest => ⟨fun hwarm hleft => ?_, fun hwarm hframe hslots hparcels hnotices => ?_, fun htick hframe hleft => ?_⟩,
    fun s o hurgent hnext => ?_⟩
  · have hbegins := State.beginPeriod_begins { s with house := { s.house with warmedUp := true } }
    refine ⟨s.endEgressWarmUp, exec_egressWarmUpEnd_of_rest hrest hwarm hleft, ?_⟩
    change State.Begins _ s.endEgressWarmUp at hbegins
    generalize s.endEgressWarmUp = t at hbegins ⊢
    obtain ⟨htables, hrx, hlanes, hmem, horders, hhouse⟩ := hbegins.rest
    have hegress := hbegins.egress
    refine ⟨hhouse, ?_, ?_, ?_, horders, htables, hrx, hlanes, hmem, ?_, ?_, fun e => hbegins.entry e⟩
    all_goals rw [hegress]
  · have hapart := State.owedApart_of_noticesOk hnotices
    have hbehind := State.owedBehind_of_noticesOk hframe hnotices
    have hframes := State.startFrame_frames hapart hbehind
    have hrun := exec_egressFrameStart_of_rest hrest hwarm hframe
    have hplaces : s.places ≤ 4 := by
      unfold State.places
      split <;> decide
    have hturns := State.turns_sent hbehind (s.places - s.sentReplies.length - s.sentCues.length) (by omega)
    generalize s.startFrame = t at hframes hrun
    intro free places replies cues notices reporting control left queued
    have hqueued : s.turns (s.places - s.sentReplies.length - s.sentCues.length) = queued := hturns
    have hegress := hframes.egress
    have hleft : ∀ r, s.sentNotices.any (fun n => n.isOf r) = true ↔ left r := fun r => List.any_eq_true
    have hrecord := hframes.record
    have hqapart : ∀ r ∈ queued, ¬ left r := fun r hr => by
      rw [← hleft, hapart.not_any (ns := s.sentNotices) (fun n hn => List.mem_of_mem_take hn) (State.mem_turns (hqueued ▸ hr))]
      exact Bool.false_ne_true
    have hroom : free.length - control.length = 128 - s.audioRound.length - s.control.length := by
      rw [← State.freeOnes_length hslots]
      rfl
    obtain ⟨htables, hrx, hlanes, hmem, horders⟩ := hframes.rest
    refine ⟨t, s.slots, hrun, ?_, ?_, hframes.house, htables, hrx, hlanes, hmem, horders, ?_, ?_, fun r => ⟨fun hr => ?_,
      fun hr => ?_, fun hr hq => ?_⟩, hframes.meter, ?_, ?_, ?_, ?_, ?_, hframes.entry, fillSlots_length,
      State.slots_bytes hparcels, fun i hi => State.slots_free hslots hi, fun hstrap e he => State.slots_audio hslots hstrap he,
      fun e => ?_⟩
    · rw [hegress, frameHead_bytes]
    · rw [hegress]
    · rw [hegress]
      rfl
    · rw [hframes.notices, hqueued]
      rfl
    · rw [hrecord, if_pos ((hleft r).mpr hr)]
    · rw [hrecord, if_neg (mt (hleft r).mp (hqapart r hr)), hqueued, if_pos hr]
    · rw [hrecord, if_neg (mt (hleft r).mp hr), hqueued, if_neg hq]
    · rw [hegress]
      rfl
    · rw [hegress, hroom]
    · rw [hegress]
      rfl
    · rw [hegress]
    · rw [hegress]
    · have hlane := hframes.lane e
      simp only [ChangeoverState.crossed_iff] at hlane
      exact hlane
  · have hdue : s.tickDue = false := beq_false_of_ne htick
    have hwarm : s.warmUpDue = false := by
      cases hw : s.house.warmedUp with
      | true => rw [State.warmUpDue, hw]; rfl
      | false => rw [State.warmUpDue, hw]; exact beq_false_of_ne (hleft hw)
    have hfree : s.frameDue = false := by
      cases hw : s.house.warmedUp with
      | true => rw [State.frameDue, hw]; exact beq_false_of_ne (hframe hw)
      | false => rw [State.frameDue, hw]; rfl
    have hsampled := exec_houseSample_notices hrest hdue hwarm hfree
    rw [State.promoteAll_at] at hsampled
    exact hsampled
  · have hpromoted := exec_promoteAll hurgent hnext
    rw [State.promoteAll_at] at hpromoted
    exact hpromoted

end Sys2Proof.Machine
end

section
/-! SUPPORT. What an AUDIO parcel never moves (R21, R24, R32): the frame of every arrival case. -/

namespace Sys2Proof.Machine

/-! ### The frame of an arrival -/

/-- What an arriving parcel moves besides its own lane's state: words, lanes within their states, programs, lines and the
outbox. -/
structure State.Hears (s t : State) : Prop where
  lanes : ∀ k, (t.lane k).status = (s.lane k).status ∧ (t.lane k).idle = (s.lane k).idle
  rest : t.rx = s.rx ∧ t.tables = s.tables ∧ t.orders = s.orders ∧ t.house = s.house
  alarm : t.alarm.records = s.alarm.records ∧ t.alarm.notices = s.alarm.notices
  egress : t.egress.lanes = s.egress.lanes ∧ t.egress.passthrough = s.egress.passthrough

section Hears
variable {s t u : State} {p : Fin 16} {l : Fin 32} {a : AudioIn}

theorem State.Hears.refl (s : State) : s.Hears s := ⟨fun _ => ⟨rfl, rfl⟩, ⟨rfl, rfl, rfl, rfl⟩, ⟨rfl, rfl⟩, rfl, rfl⟩

theorem State.Hears.trans (h : s.Hears t) (k : t.Hears u) : s.Hears u := by
  obtain ⟨hlanes, ⟨hrx, htables, horders, hhouse⟩, ⟨hrecords, hnotices⟩, hegress, hthrough⟩ := h
  obtain ⟨klanes, ⟨krx, ktables, korders, khouse⟩, ⟨krecords, knotices⟩, kegress, kthrough⟩ := k
  exact ⟨fun l => ⟨(klanes l).1.trans (hlanes l).1, (klanes l).2.trans (hlanes l).2⟩,
    ⟨krx.trans hrx, ktables.trans htables, korders.trans horders, khouse.trans hhouse⟩,
    ⟨krecords.trans hrecords, knotices.trans hnotices⟩, kegress.trans hegress, kthrough.trans hthrough⟩

theorem State.Tranquil.hears (h : s.Tranquil t) : s.Hears t := by
  have hlanes := fun k => And.intro (h.lanes k).status (h.lanes k).idle
  refine ⟨hlanes, ?_, ?_, ?_⟩
  all_goals
    rw [h.frame]
    simp only [and_self]

theorem State.Sets.hears (h : s.Sets t) : s.Hears t := by
  have hframe := h.frame
  refine ⟨fun k => ?_, ?_, ?_, ?_⟩
  · rw [State.lane, hframe]
    exact ⟨rfl, rfl⟩
  all_goals
    rw [hframe]
    simp only [and_self]

theorem State.sets_followed {x : Program} (h : x.meter = (s.program p).meter) : s.Sets (s.setProgram p x).followThrough := by
  have hset : s.Sets (s.setProgram p x) := State.sets_setProgram h
  generalize s.setProgram p x = t at hset ⊢
  exact hset.trans t.sets_followThrough

theorem State.requestResync_sets (s : State) (p : Fin 16) : s.Sets (s.requestResync p) := by
  rw [State.requestResync_eq]
  split
  · exact State.sets_followed rfl
  · exact .refl s

theorem State.returnTest_sets (s : State) (p : Fin 16) : s.Sets (s.returnTest p) := by
  unfold State.returnTest
  split
  · split
    · exact State.sets_followed (p := p) rfl
    · exact s.requestResync_sets p
  · exact s.requestResync_sets p

theorem State.arrival_hears (s : State) (p : Fin 16) (l : Fin 32) (a : AudioIn) : s.Hears (s.arrival p l a) := by
  rcases s.arrival_tranquil p l a with h | h
  · exact h.hears
  · rw [h]
    exact (s.requestResync_sets p).hears

/-- The lane that hears a parcel is RECEIVING, with its idle time at 0 (R21). -/
def State.receiving (s : State) (l : Fin 32) : State := s.setLane l { s.lane l with status := .receiving, idle := 0 }

theorem State.audioArrives_hears (s : State) (l : Fin 32) (a : AudioIn) : (s.receiving l).Hears (s.audioArrives l a) := by
  unfold State.audioArrives
  dsimp only
  change State.Hears (s.receiving l) (match (s.receiving l).programOf l with
    | none => _
    | some p => _)
  split
  · exact .refl _
  · next p _ =>
    split
    · exact ((s.receiving l).arrival_hears p l a).trans (State.returnTest_sets _ p).hears
    · exact (s.receiving l).arrival_hears p l a

/-- A member's parcel is handled by its case, and a leader's in HOLDOVER by the return test behind it (R23, R46). -/
theorem State.audioArrives_at (h : s.programOf l = some p) : s.audioArrives l a =
    if (s.playState p == .holdover && s.leader p == some l) &&
      ((s.receiving l).arrival p l a).playState p == .holdover then ((s.receiving l).arrival p l a).returnTest p
    else (s.receiving l).arrival p l a := by
  have hof : (s.receiving l).programOf l = some p := h
  unfold State.audioArrives
  dsimp only
  rw [show s.setLane l { s.lane l with status := .receiving, idle := 0 } = s.receiving l from rfl, hof]
  rfl

theorem State.arrival_of_resyncing (h : s.playState p = .resyncing) : s.arrival p l a = s := by
  unfold State.arrival
  dsimp only
  rw [if_pos h]

theorem State.arrival_of_unopened (hfollower : s.leader p ≠ some l) (hpos : (s.program p).conv.pos = none)
    (hhorizon : (s.lane l).horizon = none) : s.arrival p l a = s := by
  unfold State.arrival
  dsimp only
  rw [hhorizon]
  dsimp only
  unfold State.firstParcel
  rw [hpos, beq_false_of_ne hfollower]
  exact ite_self s

end Hears

/-- Settles O19: what the slot leaves is the lane RECEIVING; the arrival moves nothing of the frame, and a discarded
parcel's arrival is nothing at all. -/
theorem audioRestartsIdle : Obligations.AudioRestartsIdle := by
  intro s slot l a h
  have hrun := exec_audioParcel_of_next h
  refine ⟨⟨_, hrun, ?_⟩, fun p hmember hdiscard => ?_⟩
  · obtain ⟨hlanes, ⟨hrx, htables, horders, hhouse⟩, ⟨hrecords, hnotices⟩, hegress, hthrough⟩ :=
      (s.slotTaken 0).audioArrives_hears l a
    have hself : ((s.slotTaken 0).receiving l).lane l = { s.lane l with status := .receiving, idle := 0 } :=
      State.lane_setLane_self _ l _
    have hother : ∀ k, k ≠ l → ((s.slotTaken 0).receiving l).lane k = s.lane k := fun k hk =>
      State.lane_setLane_ne _ _ hk
    refine ⟨?_, ?_, fun k hk => ?_, hrx, htables, horders, hhouse, hrecords, hnotices, hegress, hthrough⟩
    · rw [(hlanes l).1, hself]
    · rw [(hlanes l).2, hself]
    · rw [(hlanes k).1, (hlanes k).2, hother k hk]
      exact ⟨rfl, rfl⟩
  · have hof : (s.slotTaken 0).programOf l = some p := State.programOf_of_memberOf (s := s) hmember
    rw [hrun, State.audioArrives_at hof]
    rcases hdiscard with hresyncing | ⟨hfollower, hpos, hhorizon⟩
    · have hstate : (s.slotTaken 0).playState p = .resyncing := hresyncing
      rw [hstate]
      refine congrArg Host.Outcome.next ((if_neg Bool.false_ne_true).trans ?_)
      exact State.arrival_of_resyncing (s := (s.slotTaken 0).receiving l) hresyncing
    · have hleader : ((s.slotTaken 0).leader p == some l) = false := beq_false_of_ne hfollower
      rw [hleader, Bool.and_false, Bool.false_and, if_neg Bool.false_ne_true]
      refine congrArg Host.Outcome.next (State.arrival_of_unopened (s := (s.slotTaken 0).receiving l) hfollower hpos ?_)
      rw [State.receiving, State.lane_setLane_self]
      exact hhorizon

end Sys2Proof.Machine
end

section
/-! SUPPORT. Words written to a ring (R17, R18, R25): what the memory holds behind a run of them, and the taint count. -/

namespace Sys2Proof.Machine

/-! ### A run of words (R18, R25) -/

/-- The taint count once a word of this mark has taken the place of one of that. -/
def markTaint (was now : Bool) (n : Nat) : Nat := if now && !was then n + 1 else if was && !now then n - 1 else n

/-- The word at this index is SUSPECT. -/
def DelayMem.suspectAt (m : DelayMem) (i : Nat) : Bool := (m.find i).any (·.suspect)

/-- Memory and taint count behind one word written. -/
def LaneEntry.write (e : LaneEntry) (c : DelayMem × Nat) (w : Stamp × RingWord) : DelayMem × Nat :=
  (c.1.put (e.wordIndex w.1) w.2, markTaint (c.1.suspectAt (e.wordIndex w.1)) w.2.suspect c.2)

/-- Memory and taint count behind a run of words. -/
def LaneEntry.writes (e : LaneEntry) (c : DelayMem × Nat) (words : List (Stamp × RingWord)) : DelayMem × Nat :=
  words.foldl e.write c

section Writes
variable {e : LaneEntry} {m : DelayMem} {n : Nat} {words : List (Stamp × RingWord)} {j : Nat}

theorem LaneEntry.writes_append (c : DelayMem × Nat) (ws vs : List (Stamp × RingWord)) :
    e.writes c (ws ++ vs) = e.writes (e.writes c ws) vs := List.foldl_append

/-- A run of words leaves every other word (R25). -/
theorem LaneEntry.find_writes_ne (h : ∀ w ∈ words, j ≠ e.wordIndex w.1) : (e.writes (m, n) words).1.find j = m.find j := by
  induction words generalizing m n with
  | nil => rfl
  | cons w words ih =>
    refine (ih (fun v hv => h v (List.mem_cons_of_mem w hv))).trans ?_
    exact DelayMem.find_put_ne m w.2 (h w List.mem_cons_self)

/-- Words at distinct places in the memory all stand there (R25). -/
theorem LaneEntry.find_writes (hapart : (words.map fun w => e.wordIndex w.1).Nodup) (hlt : ∀ w ∈ words, e.wordIndex w.1 < memWords)
    {w : Stamp × RingWord} (hw : w ∈ words) : (e.writes (m, n) words).1.find (e.wordIndex w.1) = some w.2 := by
  induction words generalizing m n with
  | nil => cases hw
  | cons v words ih =>
    rw [List.map_cons, List.nodup_cons] at hapart
    obtain ⟨hv, hrest⟩ := hapart
    rcases List.mem_cons.mp hw with rfl | hw
    · refine (LaneEntry.find_writes_ne fun v hin heq => hv (List.mem_map.mpr ⟨v, hin, heq.symm⟩)).trans ?_
      exact DelayMem.find_put_self m (hlt w List.mem_cons_self) w.2
    · exact ih hrest (fun v hin => hlt v (List.mem_cons_of_mem _ hin)) hw

/-- Over words at distinct places the taint count follows the memory as it stood (R18). -/
theorem LaneEntry.taint_writes (hapart : (words.map fun w => e.wordIndex w.1).Nodup) : (e.writes (m, n) words).2 =
    words.foldl (fun n w => markTaint (m.suspectAt (e.wordIndex w.1)) w.2.suspect n) n := by
  induction words generalizing m n with
  | nil => rfl
  | cons v words ih =>
    rw [List.map_cons, List.nodup_cons] at hapart
    obtain ⟨hv, hrest⟩ := hapart
    refine (ih hrest).trans ?_
    refine List.foldl_ext _ _ _ fun n w hw => ?_
    have hne : e.wordIndex w.1 ≠ e.wordIndex v.1 := fun heq => hv (List.mem_map.mpr ⟨w, hw, heq⟩)
    rw [DelayMem.suspectAt, DelayMem.find_put_ne m v.2 hne, DelayMem.suspectAt]

theorem State.wrote_writes {s : State} {l : Fin 32} (hapart : (words.map fun w => (s.laneEntry l).wordIndex w.1).Nodup)
    (hlt : ∀ w ∈ words, (s.laneEntry l).wordIndex w.1 < memWords) :
    s.Wrote ((s.laneEntry l).writes (s.mem, n) words).1 l words :=
  ⟨fun _ hw => LaneEntry.find_writes hapart hlt hw, fun _ hj => LaneEntry.find_writes_ne hj⟩

theorem State.taintAfter_writes {s : State} {l : Fin 32} (hapart : (words.map fun w => (s.laneEntry l).wordIndex w.1).Nodup) :
    ((s.laneEntry l).writes (s.mem, (s.lane l).taint) words).2 = s.taintAfter l words := LaneEntry.taint_writes hapart

end Writes

/-! ### Stamps and their places in a ring (R17) -/

section Places
variable {s : State} {l : Fin 32} (hlanes : s.lanesOk)
include hlanes

theorem State.wordIndex_lt (t : Stamp) : (s.laneEntry l).wordIndex t < memWords := by
  obtain ⟨hsize, hfit⟩ := hlanes.1 l
  have hmod := Nat.mod_lt t.toNat (LaneEntry.ringSize_pos hsize)
  unfold LaneEntry.wordIndex memWords
  have hring : (s.laneEntry l).ringSize = (s.laneEntry l).sizePages * 1024 := rfl
  omega

theorem State.ringSize_ge : 8192 ≤ (s.laneEntry l).ringSize := by
  have hsize := (hlanes.1 l).1
  unfold LaneEntry.ringSize
  simp only [regionSizes, List.mem_cons, List.not_mem_nil, or_false] at hsize
  omega

theorem State.ringSize_le : (s.laneEntry l).ringSize ≤ 1048576 := by
  have hsize := (hlanes.1 l).1
  unfold LaneEntry.ringSize
  simp only [regionSizes, List.mem_cons, List.not_mem_nil, or_false] at hsize
  omega

theorem State.inRegion_wordIndex (t : Stamp) : (s.laneEntry l).inRegion ((s.laneEntry l).wordIndex t) = true := by
  have hmod := Nat.mod_lt t.toNat (LaneEntry.ringSize_pos (hlanes.1 l).1)
  unfold LaneEntry.wordIndex LaneEntry.inRegion
  rw [Bool.and_eq_true, decide_eq_true_iff, decide_eq_true_iff]
  omega

/-- Stamps less than a ring apart have places of their own. -/
theorem State.wordIndex_apart {t : Stamp} {i j : Nat} (hij : i < j) (hj : j < i + (s.laneEntry l).ringSize) :
    (s.laneEntry l).wordIndex (t + BitVec.ofNat 32 i) ≠ (s.laneEntry l).wordIndex (t + BitVec.ofNat 32 j) := by
  have hsize := (hlanes.1 l).1
  rw [LaneEntry.wordIndex_add hsize, LaneEntry.wordIndex_add hsize]
  intro heq
  have hmod : (t.toNat + i) % (s.laneEntry l).ringSize = (t.toNat + j) % (s.laneEntry l).ringSize := by omega
  have hdvd : (s.laneEntry l).ringSize ∣ t.toNat + j - (t.toNat + i) := (Nat.modEq_iff_dvd' (by omega)).mp hmod
  have hle := Nat.le_of_dvd (by omega) hdvd
  omega

/-- The stamps of a window, by their distance from its edge (R30). -/
theorem State.inWindow_iff {edge t : Stamp} : inWindow edge (s.laneEntry l).ringSize t = true ↔
    ∃ d < (s.laneEntry l).ringSize, t = edge + BitVec.ofNat 32 d := by
  have hle := State.ringSize_le (l := l) hlanes
  unfold inWindow stampDiff
  rw [Bool.and_eq_true, decide_eq_true_iff, decide_eq_true_iff, BitVec.toInt_eq_toNat_cond]
  have hlt := (t - edge).isLt
  constructor
  · rintro ⟨hlow, hhigh⟩
    refine ⟨(t - edge).toNat, by split at hhigh <;> omega, ?_⟩
    rw [BitVec.ofNat_toNat, BitVec.setWidth_eq]
    bv_omega
  · rintro ⟨d, hd, rfl⟩
    have hdist : (edge + BitVec.ofNat 32 d - edge).toNat = d := by bv_omega
    rw [hdist]
    split <;> omega

/-- Two stamps of a window stand in one place only when they are the same. -/
theorem State.wordIndex_inj {edge t v : Stamp} (ht : inWindow edge (s.laneEntry l).ringSize t = true)
    (hv : inWindow edge (s.laneEntry l).ringSize v = true)
    (h : (s.laneEntry l).wordIndex t = (s.laneEntry l).wordIndex v) : t = v := by
  obtain ⟨d, hd, rfl⟩ := (State.inWindow_iff hlanes).mp ht
  obtain ⟨k, hk, rfl⟩ := (State.inWindow_iff hlanes).mp hv
  rcases Nat.lt_trichotomy d k with hdk | rfl | hdk
  · exact absurd h (State.wordIndex_apart hlanes hdk (by omega))
  · rfl
  · exact absurd h.symm (State.wordIndex_apart hlanes hdk (by omega))

end Places

end Sys2Proof.Machine
end

section
/-! SUPPORT. The part while it takes an AUDIO parcel (R2, R21, R25, R26, R29): memory, one lane and one program's impairment
event move, and each operation of an arrival is told by what it leaves of these three. -/

namespace Sys2Proof.Machine

section Took
variable {s : State} {l : Fin 32} {p : Fin 16} {m : DelayMem} {x : Lane} {r : Bool} {a : AudioIn}

theorem State.took_lane : (s.tookAudio l p m x r).lane l = x := by
  simp [State.lane, State.tookAudio]

theorem State.took_program : (s.tookAudio l p m x r).program p =
    { s.program p with events := { (s.program p).events with arrival := r } } := by
  simp [State.program, State.tookAudio]

theorem State.took_program_ne {q : Fin 16} (h : q ≠ p) : (s.tookAudio l p m x r).program q = s.program q :=
  State.program_setProgram_ne s _ h

theorem State.took_edge : (s.tookAudio l p m x r).edge p = s.edge p := by
  unfold State.edge
  rw [State.took_program]

theorem State.took_playState : (s.tookAudio l p m x r).playState p = s.playState p := by
  rw [State.playState, State.took_program, State.playState]

theorem State.took_setLane (y : Lane) : (s.tookAudio l p m x r).setLane l y = s.tookAudio l p m y r := by
  unfold State.setLane State.tookAudio
  dsimp only
  rw [Vector.set_set]

theorem State.took_impair : (s.tookAudio l p m x r).impair p = s.tookAudio l p m x true := by
  unfold State.impair
  rw [State.took_program]
  unfold State.setProgram State.tookAudio
  dsimp only
  rw [Vector.set_set]

/-- The slot is taken and the lane RECEIVING (R2, R21). -/
theorem State.receiving_took : (s.slotTaken 0).receiving l =
    s.tookAudio l p s.mem { s.lane l with status := .receiving, idle := 0 } (s.program p).events.arrival := by
  have hprograms : s.programs.set p.val (s.program p) p.isLt = s.programs := by
    simp [State.program]
  unfold State.receiving State.tookAudio
  dsimp only
  rw [hprograms]
  rfl

/-! ### Words -/

theorem State.took_writeWord (t : Stamp) (y : Sample) (b : Bool) : (s.tookAudio l p m x r).writeWord l t y b =
    s.tookAudio l p ((s.laneEntry l).write (m, x.taint) (t, ⟨y, b⟩)).1
      { x with taint := ((s.laneEntry l).write (m, x.taint) (t, ⟨y, b⟩)).2 } r := by
  have htaint : (match (match m.find ((s.laneEntry l).wordIndex t) with
        | some w => w.suspect
        | none => false), b with
      | true, false => x.taint - 1
      | false, true => x.taint + 1
      | _, _ => x.taint) = markTaint (m.suspectAt ((s.laneEntry l).wordIndex t)) b x.taint := by
    unfold DelayMem.suspectAt markTaint
    cases m.find ((s.laneEntry l).wordIndex t) with
    | none => cases b <;> rfl
    | some w => cases hw : w.suspect <;> cases b <;> simp [hw]
  unfold State.writeWord
  dsimp only
  rw [State.took_lane, State.took_setLane]
  unfold LaneEntry.write
  rw [← htaint]
  rfl

/-- Samples at consecutive stamps, with one mark (R25). -/
def runWords (t : Stamp) (b : Bool) (xs : List Sample) : List (Stamp × RingWord) :=
  xs.mapIdx fun i y => (t + BitVec.ofNat 32 i, ⟨y, b⟩)

theorem stamp_succ (t : Stamp) (i : Nat) : t + BitVec.ofNat 32 (i + 1) = t + 1 + BitVec.ofNat 32 i := by
  rw [BitVec.ofNat_add, BitVec.add_comm (BitVec.ofNat 32 i), ← BitVec.add_assoc]
  rfl

theorem runWords_cons (t : Stamp) (b : Bool) (y : Sample) (ys : List Sample) :
    runWords t b (y :: ys) = (t, ⟨y, b⟩) :: runWords (t + 1) b ys := by
  unfold runWords
  rw [List.mapIdx_cons, BitVec.add_zero]
  simp only [stamp_succ]

theorem State.took_writeRun (t : Stamp) (b : Bool) (ys : List Sample) : (s.tookAudio l p m x r).writeRun l t b ys =
    s.tookAudio l p ((s.laneEntry l).writes (m, x.taint) (runWords t b ys)).1
      { x with taint := ((s.laneEntry l).writes (m, x.taint) (runWords t b ys)).2 } r := by
  induction ys generalizing t m x with
  | nil => rfl
  | cons y ys ih =>
    rw [State.writeRun, State.took_writeWord, ih, runWords_cons]
    rfl

/-- What a read of the lane finds is what the memory holds. -/
theorem State.took_readWord_congr {edge t : Stamp}
    (h : inWindow edge (s.laneEntry l).ringSize t = true →
      m.find ((s.laneEntry l).wordIndex t) = s.mem.find ((s.laneEntry l).wordIndex t)) :
    (s.tookAudio l p m x r).readWord (some edge) l t = s.readWord (some edge) l t := by
  have hentry : (s.tookAudio l p m x r).laneEntry l = s.laneEntry l := rfl
  have hmem : (s.tookAudio l p m x r).mem = m := rfl
  unfold State.readWord
  dsimp only
  rw [hentry, hmem]
  by_cases hin : inWindow edge (s.laneEntry l).ringSize t = true
  · rw [if_pos hin, if_pos hin, h hin]
  · rw [if_neg hin, if_neg hin]

/-! ### The lane's own moves -/

theorem State.took_setHorizon : (s.tookAudio l p m x r).setHorizon l a =
    s.tookAudio l p m { x with horizon := some a.last, lastSeq := some a.seq } r := by
  rw [State.setHorizon, State.took_lane, State.took_setLane]

theorem State.took_dropParcel : (s.tookAudio l p m x r).dropParcel l =
    s.tookAudio l p m { x with dropped := min (x.dropped + 1) 65535 } r := by
  rw [State.dropParcel, State.took_lane, State.took_setLane]
  rfl

theorem State.took_flushLane : (s.tookAudio l p m x r).flushLane l =
    s.tookAudio l p (m.clear (s.laneEntry l).inRegion) { x with taint := 0, horizon := none, lastSeq := none } r := by
  unfold State.flushLane
  rw [State.took_lane, State.took_setLane]
  rfl

/-- The lane as it has taken a parcel's last sample (R24, R25, R29). -/
def Lane.took (x : Lane) (a : AudioIn) (taint : Nat) : Lane :=
  { x with taint := taint, horizon := some a.last, lastSeq := some a.seq }

theorem State.took_writeParcel : (s.tookAudio l p m x r).writeParcel p l false a =
    s.tookAudio l p ((s.laneEntry l).writes (m, x.taint) a.words).1
      (x.took a ((s.laneEntry l).writes (m, x.taint) a.words).2) (r || a.suspect) := by
  unfold State.writeParcel
  dsimp only
  rw [State.took_writeRun, State.took_setHorizon]
  cases ha : a.suspect with
  | true =>
    rw [if_pos rfl, if_neg Bool.false_ne_true, State.took_impair, Bool.or_true]
    unfold AudioIn.words Lane.took runWords
    rw [ha]
  | false =>
    rw [if_neg Bool.false_ne_true, if_neg Bool.false_ne_true, Bool.or_false]
    unfold AudioIn.words Lane.took runWords
    rw [ha]

/-- A leader's parcel is a follower's, and the meter follows behind it (R91). -/
theorem State.writeParcel_leader (t : State) : t.writeParcel p l true a = (t.writeParcel p l false a).meterFollows p a.last := by
  unfold State.writeParcel
  rfl

end Took

end Sys2Proof.Machine
end

section
/-! SUPPORT. A concealed gap and late repair (R26, R29): each reads the ring as it stood before the parcel. -/

namespace Sys2Proof.Machine

/-! ### Stamps of one run -/

theorem stamp_ne {t : Stamp} {i j : Nat} (hij : i < j) (hj : j - i < 4294967296) :
    t + BitVec.ofNat 32 i ≠ t + BitVec.ofNat 32 j := by
  intro heq
  have hnat := congrArg BitVec.toNat heq
  simp only [BitVec.toNat_add, BitVec.toNat_ofNat] at hnat
  omega

section Took
variable {s : State} {l : Fin 32} {p : Fin 16} {m : DelayMem} {x : Lane} {r : Bool} {edge : Stamp}

/-- A word that conceals: the sample a gap before it under REPEAT, and otherwise 0 (R26). -/
def State.fillWord (s : State) (edge : Stamp) (l : Fin 32) (gap : Nat) (t : Stamp) : RingWord :=
  ⟨if (s.laneEntry l).conceal = .repeatLast ∧ gap ≤ 48 then
      BitVec.ofInt 24 (s.readWord (some edge) l (t - BitVec.ofNat 32 gap)).1
    else 0, true⟩

/-- A run of a gap's words: those in the window, SUSPECT (R26). -/
def State.fillWords (s : State) (edge : Stamp) (l : Fin 32) (W : Stamp) (gap i n : Nat) : List (Stamp × RingWord) :=
  ((List.range' i n).filter fun k => inWindow edge (s.laneEntry l).ringSize (W + BitVec.ofNat 32 k)).map fun k =>
    (W + BitVec.ofNat 32 k, s.fillWord edge l gap (W + BitVec.ofNat 32 k))

theorem State.gapWords_eq (s : State) (edge : Stamp) (l : Fin 32) (W : Stamp) (a : AudioIn) : s.gapWords edge l W a =
    s.fillWords edge l W (stampDiff a.stamp W).toNat 0 (stampDiff a.stamp W).toNat := by
  unfold State.gapWords State.fillWords
  dsimp only
  rw [List.range_eq_range']
  rfl

/-- The memory still holds, at these stamps of a window, what it held before the parcel. -/
def State.stillAt (s : State) (m : DelayMem) (edge : Stamp) (l : Fin 32) (t : Stamp) : Prop :=
  inWindow edge (s.laneEntry l).ringSize t = true →
    m.find ((s.laneEntry l).wordIndex t) = s.mem.find ((s.laneEntry l).wordIndex t)

theorem State.stillAt.write (hlanes : s.lanesOk) {t v : Stamp} (h : s.stillAt m edge l t) {w : RingWord} {n : Nat} (hne : t ≠ v)
    (hv : inWindow edge (s.laneEntry l).ringSize v = true) : s.stillAt ((s.laneEntry l).write (m, n) (v, w)).1 edge l t := fun ht =>
  (DelayMem.find_put_ne m w fun heq => hne (State.wordIndex_inj hlanes ht hv heq)).trans (h ht)

theorem State.took_concealedSample (hedge : s.edge p = some edge) {gap : Nat} {t : Stamp}
    (h : s.stillAt m edge l (t - BitVec.ofNat 32 gap)) :
    (s.tookAudio l p m x r).concealedSample p l gap t = (s.fillWord edge l gap t).sample := by
  have hentry : (s.tookAudio l p m x r).laneEntry l = s.laneEntry l := rfl
  unfold State.concealedSample State.fillWord
  rw [State.took_edge, hedge, State.took_readWord_congr h, hentry]
  simp only [Bool.and_eq_true, beq_iff_eq, decide_eq_true_iff]

/-- A gap concealed: its words in the window, each as the ring stood before (R26). -/
theorem State.took_concealRun (hlanes : s.lanesOk) (hedge : s.edge p = some edge) {W : Stamp} {gap : Nat} (hgap : gap < 2147483648)
    (n i : Nat) (hi : i + n = gap) (hstill : ∀ k, i ≤ k → k < gap → s.stillAt m edge l (W + BitVec.ofNat 32 k - BitVec.ofNat 32 gap)) :
    (s.tookAudio l p m x r).concealRun p l gap n (W + BitVec.ofNat 32 i) =
      ((s.fillWords edge l W gap i n).length,
        s.tookAudio l p ((s.laneEntry l).writes (m, x.taint) (s.fillWords edge l W gap i n)).1
          { x with taint := ((s.laneEntry l).writes (m, x.taint) (s.fillWords edge l W gap i n)).2 } r) := by
  induction n generalizing i m x with
  | zero => rfl
  | succ n ih =>
    have hnext : W + BitVec.ofNat 32 i + 1 = W + BitVec.ofNat 32 (i + 1) := by
      rw [BitVec.ofNat_add, ← BitVec.add_assoc]
      rfl
    have hentry : (s.tookAudio l p m x r).laneEntry l = s.laneEntry l := rfl
    unfold State.concealRun
    dsimp only
    rw [State.took_edge, hedge]
    dsimp only
    rw [hentry, hnext]
    unfold State.fillWords
    rw [List.range'_succ]
    by_cases hin : inWindow edge (s.laneEntry l).ringSize (W + BitVec.ofNat 32 i) = true
    · have hlater : ∀ k, i + 1 ≤ k → k < gap → s.stillAt ((s.laneEntry l).write (m, x.taint) (W + BitVec.ofNat 32 i,
          s.fillWord edge l gap (W + BitVec.ofNat 32 i))).1 edge l (W + BitVec.ofNat 32 k - BitVec.ofNat 32 gap) :=
        fun k hk hlt => (hstill k (by omega) hlt).write hlanes (fun heq => by
          have hnat := congrArg BitVec.toNat heq
          simp only [BitVec.toNat_sub, BitVec.toNat_add, BitVec.toNat_ofNat] at hnat
          omega) hin
      rw [if_pos hin, List.filter_cons_of_pos (by exact hin), State.took_concealedSample hedge (hstill i (Nat.le_refl i) (by omega)),
        State.took_writeWord]
      have hrest := ih (x := { x with taint := ((s.laneEntry l).write (m, x.taint) (W + BitVec.ofNat 32 i,
        s.fillWord edge l gap (W + BitVec.ofNat 32 i))).2 }) (i + 1) (by omega) hlater
      have hword : (⟨(s.fillWord edge l gap (W + BitVec.ofNat 32 i)).sample, true⟩ : RingWord) =
          s.fillWord edge l gap (W + BitVec.ofNat 32 i) := rfl
      rw [hword, hrest]
      rfl
    · rw [if_neg hin, List.filter_cons_of_neg (by exact hin)]
      exact ih (i + 1) (by omega) fun k hk hlt => hstill k (by omega) hlt

/-- A late sample mends its word: the word SUSPECT, ahead of floor(P) + 16, the parcel not flagged (R29). -/
def State.mends (s : State) (edge : Stamp) (l : Fin 32) (P : ReadPos) (b : Bool) (t : Stamp) : Bool :=
  !b && ahead t (P.stamp + 16) && (s.readWord (some edge) l t).2 == .suspect

/-- The words that late samples mend (R29). -/
def State.mendWords (s : State) (edge : Stamp) (l : Fin 32) (P : ReadPos) (W : Stamp) (b : Bool) (t : Stamp) (i : Nat)
    (ys : List Sample) : List (Stamp × RingWord) :=
  ((ys.zipIdx i).filter fun y => behind (t + BitVec.ofNat 32 y.2) W && s.mends edge l P b (t + BitVec.ofNat 32 y.2)).map fun y =>
    (t + BitVec.ofNat 32 y.2, ⟨y.1, false⟩)

theorem State.took_repairs (hedge : s.edge p = some edge) {P : ReadPos} (hpos : (s.program p).conv.pos = some P) {b : Bool}
    {t : Stamp} (h : s.stillAt m edge l t) : (s.tookAudio l p m x r).repairs p l b t = s.mends edge l P b t := by
  have hpos' : ((s.tookAudio l p m x r).program p).conv.pos = some P := by
    rw [State.took_program]
    exact hpos
  unfold State.repairs State.mends
  rw [hpos', State.took_edge, hedge, State.took_readWord_congr h]
  dsimp only
  cases b <;> simp

theorem State.inWindow_of_mends {P : ReadPos} {b : Bool} {t : Stamp} (h : s.mends edge l P b t = true) :
    inWindow edge (s.laneEntry l).ringSize t = true := by
  unfold State.mends at h
  rw [Bool.and_eq_true, beq_iff_eq] at h
  by_contra hout
  have hempty : s.readWord (some edge) l t = (0, .empty) := by
    unfold State.readWord
    exact if_neg hout
  rw [hempty] at h
  exact absurd h.2 nofun

/-- Late repair: each word mended where the ring stood SUSPECT before (R29). -/
theorem State.took_repairRun (hlanes : s.lanesOk) (hedge : s.edge p = some edge) {P : ReadPos}
    (hpos : (s.program p).conv.pos = some P) {W t : Stamp} {b : Bool} (ys : List Sample) (i : Nat)
    (hlt : i + ys.length < 4294967296)
    (hstill : ∀ k, i ≤ k → k < i + ys.length → s.stillAt m edge l (t + BitVec.ofNat 32 k)) :
    (s.tookAudio l p m x r).repairRun p l b W ys (t + BitVec.ofNat 32 i) =
      ((s.mendWords edge l P W b t i ys).length,
        s.tookAudio l p ((s.laneEntry l).writes (m, x.taint) (s.mendWords edge l P W b t i ys)).1
          { x with taint := ((s.laneEntry l).writes (m, x.taint) (s.mendWords edge l P W b t i ys)).2 } r) := by
  induction ys generalizing i m x with
  | nil => rfl
  | cons y ys ih =>
    rw [List.length_cons] at hlt hstill
    have hnext : t + BitVec.ofNat 32 i + 1 = t + BitVec.ofNat 32 (i + 1) := by
      rw [BitVec.ofNat_add, ← BitVec.add_assoc]
      rfl
    have hlater : ∀ k, i + 1 ≤ k → k < i + 1 + ys.length → s.stillAt m edge l (t + BitVec.ofNat 32 k) :=
      fun k hk hkl => hstill k (by omega) (by omega)
    unfold State.repairRun
    dsimp only
    rw [State.took_repairs hedge hpos (hstill i (Nat.le_refl i) (by omega)), hnext]
    unfold State.mendWords
    rw [List.zipIdx_cons]
    by_cases hmends : (behind (t + BitVec.ofNat 32 i) W && s.mends edge l P b (t + BitVec.ofNat 32 i)) = true
    · have hin := State.inWindow_of_mends (Bool.and_eq_true_iff.mp hmends).2
      rw [if_pos hmends, List.filter_cons_of_pos (by exact hmends), State.took_writeWord]
      have hrest := ih (x := { x with taint := ((s.laneEntry l).write (m, x.taint) (t + BitVec.ofNat 32 i, ⟨y, false⟩)).2 })
        (m := ((s.laneEntry l).write (m, x.taint) (t + BitVec.ofNat 32 i, ⟨y, false⟩)).1) (i + 1) (by omega)
        fun k hk hkl => (hlater k hk hkl).write hlanes (stamp_ne (by omega) (by omega)).symm hin
      rw [hrest]
      rfl
    · rw [if_neg hmends, List.filter_cons_of_neg (by exact hmends)]
      exact ih (i + 1) (by omega) hlater

end Took

end Sys2Proof.Machine
end

section
/-! SUPPORT. The words of a parcel have places of their own, and late words are those mended and those from W on (R26, R29). -/

namespace Sys2Proof.Machine

/-! ### Words of one run -/

section Words
variable {s : State} {l : Fin 32} {a : AudioIn} {edge W : Stamp}

theorem runWords_length (t : Stamp) (b : Bool) (xs : List Sample) : (runWords t b xs).length = xs.length := by
  unfold runWords
  exact List.length_mapIdx

theorem runWords_eq (t : Stamp) (b : Bool) (xs : List Sample) :
    runWords t b xs = xs.zipIdx.map fun y => (t + BitVec.ofNat 32 y.2, ⟨y.1, b⟩) := by
  unfold runWords
  exact List.mapIdx_eq_zipIdx_map

/-- From a later sample on, the run goes on at its stamp. -/
theorem runWords_from (t : Stamp) (b : Bool) (n : Nat) (xs : List Sample) :
    runWords (t + BitVec.ofNat 32 n) b xs = (xs.zipIdx n).map fun y => (t + BitVec.ofNat 32 y.2, ⟨y.1, b⟩) := by
  refine List.ext_getElem (by simp [runWords]) fun i h1 h2 => ?_
  simp [runWords, BitVec.ofNat_add, BitVec.add_assoc]

theorem runWords_stamps (t : Stamp) (b : Bool) (xs : List Sample) :
    (runWords t b xs).map (·.1) = (List.range xs.length).map fun i => t + BitVec.ofNat 32 i := by
  refine List.ext_getElem (by simp [runWords]) fun i h1 h2 => ?_
  simp [runWords]

theorem runWords_apart (hlanes : s.lanesOk) (t : Stamp) (b : Bool) {xs : List Sample} (h : xs.length ≤ 24) :
    ((runWords t b xs).map fun w => (s.laneEntry l).wordIndex w.1).Nodup := by
  have hstamps : (runWords t b xs).map (fun w => (s.laneEntry l).wordIndex w.1) =
      (List.range xs.length).map fun i => (s.laneEntry l).wordIndex (t + BitVec.ofNat 32 i) := by
    have hmap := congrArg (List.map (s.laneEntry l).wordIndex) (runWords_stamps t b xs)
    rw [List.map_map, List.map_map] at hmap
    exact hmap
  have hge := State.ringSize_ge (l := l) hlanes
  rw [hstamps]
  refine (List.nodup_map_iff_inj_on List.nodup_range).mpr fun i hi j hj heq => ?_
  rw [List.mem_range] at hi hj
  rcases Nat.lt_trichotomy i j with hij | hij | hij
  · exact absurd heq (State.wordIndex_apart hlanes hij (by omega))
  · exact hij
  · exact absurd heq.symm (State.wordIndex_apart hlanes hij (by omega))

/-- Words of one window at distinct stamps have places of their own. -/
theorem window_apart (hlanes : s.lanesOk) {words : List (Stamp × RingWord)} (hstamps : (words.map (·.1)).Nodup)
    (hin : ∀ w ∈ words, inWindow edge (s.laneEntry l).ringSize w.1 = true) :
    (words.map fun w => (s.laneEntry l).wordIndex w.1).Nodup := by
  have hmap : words.map (fun w => (s.laneEntry l).wordIndex w.1) = (words.map (·.1)).map (s.laneEntry l).wordIndex := by
    rw [List.map_map]
    rfl
  rw [hmap]
  refine (List.nodup_map_iff_inj_on hstamps).mpr fun t ht v hv heq => ?_
  obtain ⟨w, hw, rfl⟩ := List.mem_map.mp ht
  obtain ⟨u, hu, rfl⟩ := List.mem_map.mp hv
  exact State.wordIndex_inj hlanes (hin w hw) (hin u hu) heq

theorem AudioIn.mem_words {w : Stamp × RingWord} (h : w ∈ a.words) :
    ∃ i < a.samples.length, w.1 = a.stamp + BitVec.ofNat 32 i := by
  have hmem : w.1 ∈ (runWords a.stamp a.suspect a.samples).map (·.1) := List.mem_map.mpr ⟨w, h, rfl⟩
  rw [runWords_stamps] at hmem
  obtain ⟨i, hi, heq⟩ := List.mem_map.mp hmem
  exact ⟨i, List.mem_range.mp hi, heq.symm⟩

/-- A gap's words and the parcel's behind them have places of their own (R26). -/
theorem gap_apart (hlanes : s.lanesOk) (hcount : a.samples.length ≤ 24) (hinside : s.inside edge l a)
    (hahead : ahead a.stamp W = true) :
    ((s.gapWords edge l W a ++ a.words).map fun w => (s.laneEntry l).wordIndex w.1).Nodup := by
  have hdiff := of_decide_eq_true hahead
  have hgap : stampDiff a.stamp W = ((a.stamp - W).toNat : Int) ∧ (a.stamp - W).toNat < 2147483648 := by
    unfold stampDiff at hdiff ⊢
    rw [BitVec.toInt_eq_toNat_cond] at hdiff ⊢
    have hlt := (a.stamp - W).isLt
    split at hdiff <;> omega
  obtain ⟨hgap, hlt⟩ := hgap
  have hstamp : a.stamp = W + BitVec.ofNat 32 (a.stamp - W).toNat := by
    rw [BitVec.ofNat_toNat, BitVec.setWidth_eq]
    bv_omega
  rw [State.gapWords_eq, hgap, Int.toNat_natCast]
  generalize (a.stamp - W).toNat = gap at *
  have hruns : (s.fillWords edge l W gap 0 gap ++ a.words).map (·.1) =
      (((List.range' 0 gap).filter fun k => inWindow edge (s.laneEntry l).ringSize (W + BitVec.ofNat 32 k)) ++
        (List.range a.samples.length).map (gap + ·)).map fun k => W + BitVec.ofNat 32 k := by
    have hwords : a.words.map (·.1) = ((List.range a.samples.length).map (gap + ·)).map fun k => W + BitVec.ofNat 32 k := by
      refine (runWords_stamps a.stamp a.suspect a.samples).trans ?_
      rw [List.map_map, hstamp]
      refine List.map_congr_left fun i _ => ?_
      rw [Function.comp_apply, BitVec.ofNat_add, ← BitVec.add_assoc]
    rw [List.map_append, List.map_append, hwords]
    unfold State.fillWords
    rw [List.map_map]
    rfl
  refine window_apart (edge := edge) hlanes ?_ fun w hw => ?_
  · rw [hruns]
    have hbound : ∀ k ∈ (((List.range' 0 gap).filter fun k => inWindow edge (s.laneEntry l).ringSize (W + BitVec.ofNat 32 k)) ++
        (List.range a.samples.length).map (gap + ·)), k < gap + 24 := fun k hk => by
      rcases List.mem_append.mp hk with hk | hk
      · have := List.mem_range'_1.mp (List.mem_filter.mp hk).1
        omega
      · obtain ⟨i, hi, rfl⟩ := List.mem_map.mp hk
        have := List.mem_range.mp hi
        omega
    have hnodup : (((List.range' 0 gap).filter fun k => inWindow edge (s.laneEntry l).ringSize (W + BitVec.ofNat 32 k)) ++
        (List.range a.samples.length).map (gap + ·)).Nodup := by
      refine List.nodup_append.mpr ⟨(List.nodup_range' 1).filter _, List.nodup_range.map fun i j h => by simpa using h, ?_⟩
      intro i hi j hj heq
      have hlow := List.mem_range'_1.mp (List.mem_filter.mp hi).1
      obtain ⟨k, -, rfl⟩ := List.mem_map.mp hj
      omega
    refine (List.nodup_map_iff_inj_on hnodup).mpr fun i hi j hj heq => ?_
    have hbi := hbound i hi
    have hbj := hbound j hj
    rcases Nat.lt_trichotomy i j with hij | hij | hij
    · exact absurd heq (stamp_ne hij (by omega))
    · exact hij
    · exact absurd heq.symm (stamp_ne hij (by omega))
  · rcases List.mem_append.mp hw with hw | hw
    · unfold State.fillWords at hw
      obtain ⟨k, hk, rfl⟩ := List.mem_map.mp hw
      exact (List.mem_filter.mp hk).2
    · obtain ⟨i, hi, heq⟩ := AudioIn.mem_words hw
      rw [heq]
      exact hinside i hi

end Words

/-! ### Late words (R29) -/

section Late
variable {s : State} {l : Fin 32} {a : AudioIn} {edge W : Stamp} {P : ReadPos}

/-- A parcel behind W starts at most half the stamps behind it. -/
theorem late_short (hne : a.stamp ≠ W) (hbehind : ahead a.stamp W = false) :
    (W - a.stamp).toNat ≤ 2147483648 ∧ W = a.stamp + BitVec.ofNat 32 (W - a.stamp).toNat := by
  have hdiff := of_decide_eq_false hbehind
  unfold stampDiff at hdiff
  rw [BitVec.toInt_eq_toNat_cond] at hdiff
  refine ⟨?_, ?_⟩
  · have hlt := (a.stamp - W).isLt
    have hpos : (a.stamp - W).toNat ≠ 0 := fun h => hne (by bv_omega)
    have hsum : (W - a.stamp).toNat + (a.stamp - W).toNat = 4294967296 := by bv_omega
    split at hdiff <;> omega
  · rw [BitVec.ofNat_toNat, BitVec.setWidth_eq]
    bv_omega

theorem late_behind {short k : Nat} (hshort : short ≤ 2147483648) (hk : k ≤ 24) :
    behind (a.stamp + BitVec.ofNat 32 k) (a.stamp + BitVec.ofNat 32 short) = decide (k < short) := by
  unfold behind stampDiff
  rw [BitVec.toInt_eq_toNat_cond]
  refine decide_eq_decide.mpr ?_
  have hnat : (a.stamp + BitVec.ofNat 32 k - (a.stamp + BitVec.ofNat 32 short)).toNat =
      (k + (4294967296 - short)) % 4294967296 := by
    rw [BitVec.toNat_sub, BitVec.toNat_add, BitVec.toNat_add, BitVec.toNat_ofNat, BitVec.toNat_ofNat]
    omega
  rw [hnat]
  split <;> omega

/-- Whether a sample's word is mended is told by its place in the parcel (R29). -/
theorem mem_lateRepairs {k : Nat} : k ∈ s.lateRepairs edge l P W a ↔ (k < a.samples.length ∧ k < (W - a.stamp).toNat) ∧
    s.mends edge l P a.suspect (a.stamp + BitVec.ofNat 32 k) = true := by
  unfold State.lateRepairs State.mends
  rw [List.mem_filter, List.mem_range, Nat.lt_min]

theorem mend_iff (hcount : a.samples.length ≤ 24) (hne : a.stamp ≠ W) (hbehind : ahead a.stamp W = false) {k : Nat}
    (hk : k < a.samples.length) : (behind (a.stamp + BitVec.ofNat 32 k) W &&
      s.mends edge l P a.suspect (a.stamp + BitVec.ofNat 32 k)) = true ↔ k ∈ s.lateRepairs edge l P W a := by
  obtain ⟨hshort, hW⟩ := late_short hne hbehind
  have hat : behind (a.stamp + BitVec.ofNat 32 k) W = decide (k < (W - a.stamp).toNat) := by
    conv_lhs => rw [hW]
    exact late_behind hshort (by omega)
  rw [mem_lateRepairs, Bool.and_eq_true, hat, decide_eq_true_iff]
  exact ⟨fun h => ⟨⟨hk, h.1⟩, h.2⟩, fun h => ⟨h.1.2, h.2⟩⟩

theorem mem_zipIdx_lt {α : Type} {xs : List α} {n : Nat} {y : α × Nat} (h : y ∈ xs.zipIdx n) : n ≤ y.2 ∧ y.2 < n + xs.length := by
  obtain ⟨hlow, hhigh, -⟩ := List.mem_zipIdx (x := y.1) (i := y.2) h
  exact ⟨hlow, hhigh⟩

/-- The words a late parcel writes: those it mends, and behind them those from W on (R29). -/
theorem lateWords_eq (hcount : a.samples.length ≤ 24) (hne : a.stamp ≠ W) (hbehind : ahead a.stamp W = false) :
    a.lateWords (s.lateRepairs edge l P W a) W =
      s.mendWords edge l P W a.suspect a.stamp 0 a.samples ++ runWords W a.suspect (a.samples.drop (W - a.stamp).toNat) := by
  obtain ⟨hshort, hW⟩ := late_short hne hbehind
  have hrun : runWords W a.suspect (a.samples.drop (W - a.stamp).toNat) =
      ((a.samples.drop (W - a.stamp).toNat).zipIdx (W - a.stamp).toNat).map fun y =>
        (a.stamp + BitVec.ofNat 32 y.2, ⟨y.1, a.suspect⟩) := by
    have hfrom := runWords_from a.stamp a.suspect (W - a.stamp).toNat (a.samples.drop (W - a.stamp).toNat)
    rw [← hW] at hfrom
    exact hfrom
  have hsplit : a.samples.zipIdx = (a.samples.take (W - a.stamp).toNat).zipIdx ++
      (a.samples.drop (W - a.stamp).toNat).zipIdx (W - a.stamp).toNat := by
    have happend := List.zipIdx_append (xs := a.samples.take (W - a.stamp).toNat) (ys := a.samples.drop (W - a.stamp).toNat) (k := 0)
    rw [List.take_append_drop] at happend
    rw [happend, Nat.zero_add, List.length_take]
    rcases Nat.le_total (W - a.stamp).toNat a.samples.length with h | h
    · rw [Nat.min_eq_left h]
    · rw [List.drop_eq_nil_of_le h]
      rfl
  have hwords : a.words.zipIdx = a.samples.zipIdx.map fun y => ((a.stamp + BitVec.ofNat 32 y.2, ⟨y.1, a.suspect⟩), y.2) :=
    List.ext_getElem (by simp [AudioIn.words]) fun i h1 h2 => by simp [AudioIn.words]
  have hlow : ∀ y ∈ (a.samples.take (W - a.stamp).toNat).zipIdx, y.2 < (W - a.stamp).toNat ∧ y.2 < a.samples.length := fun y hy => by
    have hlt := (mem_zipIdx_lt hy).2
    rw [List.length_take] at hlt
    omega
  have hhigh : ∀ y ∈ (a.samples.drop (W - a.stamp).toNat).zipIdx (W - a.stamp).toNat,
      (W - a.stamp).toNat ≤ y.2 ∧ y.2 < a.samples.length := fun y hy => by
    have hlt := mem_zipIdx_lt hy
    rw [List.length_drop] at hlt
    omega
  unfold AudioIn.lateWords State.mendWords
  rw [hwords, hrun, List.filter_map, List.map_map, hsplit, List.filter_append, List.filter_append, List.map_append, List.map_append]
  have hmended : ∀ y : Sample × Nat, y.2 < a.samples.length → ((behind (a.stamp + BitVec.ofNat 32 y.2) W &&
      s.mends edge l P a.suspect (a.stamp + BitVec.ofNat 32 y.2)) = true ↔ y.2 ∈ s.lateRepairs edge l P W a) := fun y hy =>
    mend_iff hcount hne hbehind hy
  have hnone : ((a.samples.drop (W - a.stamp).toNat).zipIdx (W - a.stamp).toNat).filter (fun y =>
      behind (a.stamp + BitVec.ofNat 32 y.2) W && s.mends edge l P a.suspect (a.stamp + BitVec.ofNat 32 y.2)) = [] := by
    refine List.filter_eq_nil_iff.mpr fun y hy hmend => ?_
    have hat := mem_lateRepairs.mp ((hmended y (hhigh y hy).2).mp hmend)
    exact absurd hat.1.2 (Nat.not_lt.mpr (hhigh y hy).1)
  rw [hnone, List.map_nil, List.append_nil]
  congr 1
  · have hfilter : (a.samples.take (W - a.stamp).toNat).zipIdx.filter (fun y => behind (a.stamp + BitVec.ofNat 32 y.2) W &&
        s.mends edge l P a.suspect (a.stamp + BitVec.ofNat 32 y.2)) =
        (a.samples.take (W - a.stamp).toNat).zipIdx.filter fun y =>
          decide (y.2 ∈ s.lateRepairs edge l P W a ∨ (W - a.stamp).toNat ≤ y.2) := by
      refine List.filter_congr fun y hy => ?_
      obtain ⟨hlt, hlen⟩ := hlow y hy
      rw [Bool.eq_iff_iff, hmended y hlen, decide_eq_true_iff]
      exact ⟨.inl, fun h => h.resolve_right (Nat.not_le.mpr hlt)⟩
    have hmap : ∀ y ∈ (a.samples.take (W - a.stamp).toNat).zipIdx.filter (fun y => behind (a.stamp + BitVec.ofNat 32 y.2) W &&
        s.mends edge l P a.suspect (a.stamp + BitVec.ofNat 32 y.2)), a.suspect = false := fun y hy => by
      have hmend := (Bool.and_eq_true_iff.mp (List.mem_filter.mp hy).2).2
      unfold State.mends at hmend
      rw [Bool.and_eq_true, Bool.and_eq_true, Bool.not_eq_true'] at hmend
      exact hmend.1.1
    refine Eq.trans (congrArg _ hfilter.symm) (List.map_congr_left fun y hy => ?_)
    simp only [Function.comp_apply, hmap y hy]
  · have hall : ((a.samples.drop (W - a.stamp).toNat).zipIdx (W - a.stamp).toNat).filter (fun y =>
        decide (y.2 ∈ s.lateRepairs edge l P W a ∨ (W - a.stamp).toNat ≤ y.2)) =
        (a.samples.drop (W - a.stamp).toNat).zipIdx (W - a.stamp).toNat :=
      List.filter_eq_self.mpr fun y hy => decide_eq_true (.inr (hhigh y hy).1)
    exact congrArg _ hall

theorem mendWords_nil (hcount : a.samples.length ≤ 24) (hne : a.stamp ≠ W) (hbehind : ahead a.stamp W = false) :
    s.mendWords edge l P W a.suspect a.stamp 0 a.samples = [] ↔ s.lateRepairs edge l P W a = [] := by
  unfold State.mendWords
  rw [List.map_eq_nil_iff, List.filter_eq_nil_iff, List.eq_nil_iff_forall_not_mem]
  constructor
  · intro h k hk
    have hlt := (mem_lateRepairs.mp hk).1.1
    refine h (a.samples[k], k) ?_ ((mend_iff hcount hne hbehind hlt).mpr hk)
    exact List.mk_mem_zipIdx_iff_getElem?.mpr (List.getElem?_eq_getElem hlt)
  · intro h y hy hmend
    have hlt := (mem_zipIdx_lt hy).2
    exact h y.2 ((mend_iff hcount hne hbehind (by omega)).mp hmend)

theorem late_apart (hlanes : s.lanesOk) (hcount : a.samples.length ≤ 24) (repairs : List Nat) :
    ((a.lateWords repairs W).map fun w => (s.laneEntry l).wordIndex w.1).Nodup := by
  have hwords : (a.words.map fun w => (s.laneEntry l).wordIndex w.1).Nodup := runWords_apart hlanes _ _ hcount
  refine hwords.sublist (List.Sublist.map _ ?_)
  have hsub : ((a.words.zipIdx.filter fun w => decide (w.2 ∈ repairs ∨ (W - a.stamp).toNat ≤ w.2)).map (·.1)).Sublist
      (a.words.zipIdx.map (·.1)) := List.filter_sublist.map _
  rw [List.zipIdx_map_fst] at hsub
  exact hsub

end Late

end Sys2Proof.Machine
end

section
/-! SUPPORT. An AUDIO parcel taken by its case (R24 to R26, R28 to R31, R33): the follower's parcel, which a leader's is but
for the meter behind it. -/

namespace Sys2Proof.Machine

/-- The case a parcel falls under, as a follower takes it (R23). -/
def State.taking (s : State) (p : Fin 16) (l : Fin 32) (a : AudioIn) : State :=
  match (s.lane l).horizon with
  | none => s.firstParcel p l false a
  | some W =>
    if a.discontinuity || (ahead a.stamp W && (s.lane l).consecutive a.seq) then (s.flushLane l).firstParcel p l false a
    else if !s.accepts p l a then s.dropParcel l
    else if a.stamp = W then s.writeParcel p l false a
    else if ahead a.stamp W then s.concealAndWrite p l false W a
    else s.lateParcel p l false W a

section Taking
variable {s : State} {l : Fin 32} {p : Fin 16} {m : DelayMem} {x : Lane} {r : Bool} {a : AudioIn} {edge W : Stamp} {P : ReadPos}

theorem Lane.breaks_iff : (a.discontinuity || (ahead a.stamp W && x.consecutive a.seq)) = true ↔ x.breaks W a := by
  have hseq : x.consecutive a.seq = true ↔ x.lastSeq = some (a.seq - 1) := by
    unfold Lane.consecutive
    cases x.lastSeq with
    | none => exact ⟨nofun, nofun⟩
    | some q =>
      dsimp only
      rw [beq_iff_eq, Option.some.injEq]
      exact ⟨fun h => by bv_omega, fun h => by bv_omega⟩
  unfold Lane.breaks
  rw [Bool.or_eq_true, Bool.and_eq_true, hseq]

/-- The parcel lies in the lane's window (R30). -/
theorem State.accepts_iff (hedge : s.edge p = some edge) : (s.tookAudio l p m x r).accepts p l a = true ↔ s.inside edge l a := by
  unfold State.accepts
  rw [State.took_edge, hedge]
  unfold allInWindow State.inside
  rw [List.all_eq_true]
  simp only [List.mem_range]
  rfl

theorem State.took_pos (hpos : (s.program p).conv.pos = some P) : ((s.tookAudio l p m x r).program p).conv.pos = some P := by
  rw [State.took_program]
  exact hpos

theorem State.took_first_inside (hedge : s.edge p = some edge) (hpos : (s.program p).conv.pos = some P) (hin : s.inside edge l a) :
    (s.tookAudio l p m x r).firstParcel p l false a = (s.tookAudio l p m x r).writeParcel p l false a := by
  unfold State.firstParcel
  rw [State.took_pos hpos]
  exact if_pos ((State.accepts_iff hedge).mpr hin)

theorem State.took_first_outside (hedge : s.edge p = some edge) (hpos : (s.program p).conv.pos = some P)
    (hout : ¬ s.inside edge l a) : (s.tookAudio l p m x r).firstParcel p l false a =
      s.tookAudio l p m { x with dropped := min (x.dropped + 1) 65535 } r := by
  unfold State.firstParcel
  rw [State.took_pos hpos]
  exact (if_neg (mt (State.accepts_iff hedge).mp hout)).trans State.took_dropParcel

/-! ### The gap and the late parcel -/

theorem State.took_concealAndWrite (hlanes : s.lanesOk) (hedge : s.edge p = some edge) (hahead : ahead a.stamp W = true) :
    (s.tookAudio l p s.mem x r).concealAndWrite p l false W a =
      s.tookAudio l p ((s.laneEntry l).writes (s.mem, x.taint) (s.gapWords edge l W a ++ a.words)).1
        { x.took a ((s.laneEntry l).writes (s.mem, x.taint) (s.gapWords edge l W a ++ a.words)).2 with
          concealed := min (x.concealed + (s.gapWords edge l W a).length) 65535 } true := by
  have hgap : (stampDiff a.stamp W).toNat < 2147483648 := by
    have hdiff := of_decide_eq_true hahead
    unfold stampDiff at hdiff ⊢
    have hlt := BitVec.toInt_lt (x := a.stamp - W)
    omega
  have hrun := State.took_concealRun (l := l) (m := s.mem) (x := x) (r := r) (W := W) hlanes hedge hgap _ 0 (Nat.zero_add _)
    fun _ _ _ _ => rfl
  rw [BitVec.add_zero, ← State.gapWords_eq] at hrun
  unfold State.concealAndWrite
  dsimp only
  rw [hrun]
  dsimp only
  rw [State.took_lane, State.took_setLane, State.took_impair, State.took_writeParcel, Bool.true_or, LaneEntry.writes_append]
  rfl

theorem State.took_lateParcel (hlanes : s.lanesOk) (hedge : s.edge p = some edge) (hpos : (s.program p).conv.pos = some P)
    (hcount : a.samples.length ≤ 24) (hne : a.stamp ≠ W) (hbehind : ahead a.stamp W = false) :
    (s.tookAudio l p s.mem x r).lateParcel p l false W a =
      let words := a.lateWords (s.lateRepairs edge l P W a) W
      let c := (s.laneEntry l).writes (s.mem, x.taint) words
      if (W - a.stamp).toNat < a.samples.length then s.tookAudio l p c.1 (x.took a c.2) (r || a.suspect)
      else if s.lateRepairs edge l P W a = [] then s.tookAudio l p s.mem { x with late := min (x.late + 1) 65535 } true
      else s.tookAudio l p c.1 { x with taint := c.2 } r := by
  have hrun := State.took_repairRun (l := l) (m := s.mem) (x := x) (r := r) (W := W) (b := a.suspect) (t := a.stamp) hlanes hedge hpos
    a.samples 0 (by omega) fun _ _ _ _ => rfl
  rw [BitVec.add_zero] at hrun
  dsimp only
  rw [lateWords_eq hcount hne hbehind, LaneEntry.writes_append]
  unfold State.lateParcel
  dsimp only
  rw [hrun]
  dsimp only
  by_cases hshort : (W - a.stamp).toNat < a.samples.length
  · have hext : (a.samples.drop (W - a.stamp).toNat).isEmpty = false := by
      rw [List.isEmpty_eq_false_iff, ne_eq, List.drop_eq_nil_iff]
      omega
    rw [if_pos hshort, hext, if_neg Bool.false_ne_true, State.took_writeRun, State.took_setHorizon, if_neg Bool.false_ne_true]
    cases ha : a.suspect with
    | true =>
      rw [if_pos rfl, State.took_impair, Bool.or_true]
      rfl
    | false =>
      rw [if_neg Bool.false_ne_true, Bool.or_false]
      rfl
  · have hext : a.samples.drop (W - a.stamp).toNat = [] := List.drop_eq_nil_of_le (by omega)
    rw [if_neg hshort, hext, List.isEmpty_nil, if_pos rfl]
    by_cases hnone : s.mendWords edge l P W a.suspect a.stamp 0 a.samples = []
    · rw [if_pos ((mendWords_nil hcount hne hbehind).mp hnone), hnone, List.length_nil, if_pos rfl, State.took_lane, State.took_setLane, State.took_impair]
      rfl
    · rw [if_neg (mt (mendWords_nil hcount hne hbehind).mpr hnone), if_neg (mt List.length_eq_zero_iff.mp hnone)]
      rfl

/-! ### The whole -/

/-- The counted words of a flushed ring (R18, R34). -/
theorem LaneEntry.writes_cleared {e : LaneEntry} {words : List (Stamp × RingWord)} {b : Bool}
    (hapart : (words.map fun w => e.wordIndex w.1).Nodup) (hregion : ∀ t, e.inRegion (e.wordIndex t) = true)
    (hb : ∀ w ∈ words, w.2.suspect = b) :
    (e.writes (m.clear e.inRegion, 0) words).2 = if b then words.length else 0 := by
  have hcount : ∀ n, words.foldl (fun n w => markTaint ((m.clear e.inRegion).suspectAt (e.wordIndex w.1)) w.2.suspect n) n =
      if b then n + words.length else n := by
    have hclear : ∀ t, (m.clear e.inRegion).suspectAt (e.wordIndex t) = false := fun t => by
      rw [DelayMem.suspectAt, DelayMem.find_clear, if_pos (hregion t)]
      rfl
    clear hapart
    induction words with
    | nil =>
      intro n
      cases b <;> rfl
    | cons w words ih =>
      intro n
      rw [List.foldl_cons, ih fun v hv => hb v (List.mem_cons_of_mem w hv), hclear, hb w List.mem_cons_self, List.length_cons]
      cases b
      · rfl
      · change n + 1 + words.length = n + (words.length + 1)
        omega
  rw [LaneEntry.taint_writes hapart, hcount]
  cases b
  · rfl
  · exact Nat.zero_add _

end Taking

end Sys2Proof.Machine
end

section
/-! SUPPORT. Every arrival case of a parcel, as the statements tell it (R23 to R31), and the follower's parcel. -/

namespace Sys2Proof.Machine

section Takes
variable {s : State} {l : Fin 32} {p : Fin 16} {a : AudioIn} {edge W : Stamp} {P : ReadPos}

/-- The lane as it hears a parcel, before its case is handled (R21). -/
def State.hearing (s : State) (l : Fin 32) : Lane := { s.lane l with status := .receiving, idle := 0 }

/-- The part as it hears a parcel, before its case is handled (R2, R21). -/
def State.heard (s : State) (l : Fin 32) (p : Fin 16) : State :=
  s.tookAudio l p s.mem (s.hearing l) (s.program p).events.arrival

theorem State.heard_horizon : ((s.heard l p).lane l).horizon = (s.lane l).horizon := by
  unfold State.heard
  rw [State.took_lane]
  rfl

theorem State.taking_of_none (h : (s.lane l).horizon = none) :
    (s.heard l p).taking p l a = (s.heard l p).firstParcel p l false a := by
  unfold State.taking
  rw [State.heard_horizon, h]

/-- The case a parcel falls under, on a lane with a horizon (R23). -/
theorem State.taking_of_some (h : (s.lane l).horizon = some W) : (s.heard l p).taking p l a =
    if (a.discontinuity || (ahead a.stamp W && (s.hearing l).consecutive a.seq)) = true then
      ((s.heard l p).flushLane l).firstParcel p l false a
    else if !(s.heard l p).accepts p l a then (s.heard l p).dropParcel l
    else if a.stamp = W then (s.heard l p).writeParcel p l false a
    else if ahead a.stamp W then (s.heard l p).concealAndWrite p l false W a
    else (s.heard l p).lateParcel p l false W a := by
  unfold State.taking
  rw [State.heard_horizon, h]
  dsimp only
  have hlane : (s.heard l p).lane l = s.hearing l := State.took_lane
  rw [hlane]

/-- Words written at places of their own, memory and taint count as the statements tell them (R18, R25). -/
theorem State.took_wrote (hlanes : s.lanesOk) {words : List (Stamp × RingWord)} (f : Nat → Lane) (r : Bool)
    (hapart : (words.map fun w => (s.laneEntry l).wordIndex w.1).Nodup) : ∃ mem, s.Wrote mem l words ∧
      s.tookAudio l p ((s.laneEntry l).writes (s.mem, (s.hearing l).taint) words).1
        (f ((s.laneEntry l).writes (s.mem, (s.hearing l).taint) words).2) r =
          s.tookAudio l p mem (f (s.taintAfter l words)) r := by
  have htaint : ((s.laneEntry l).writes (s.mem, (s.hearing l).taint) words).2 = s.taintAfter l words :=
    State.taintAfter_writes hapart
  exact ⟨_, State.wrote_writes hapart fun w _ => State.wordIndex_lt hlanes w.1, by rw [htaint]⟩

/-- A parcel written in order, the lane's words and horizon with it (R24, R25). -/
theorem State.heard_writeParcel (hlanes : s.lanesOk) (hcount : a.samples.length ≤ 24) : ∃ mem, s.Wrote mem l a.words ∧ (s.heard l p).writeParcel p l false a =
    s.tookAudio l p mem ((s.hearing l).took a (s.taintAfter l a.words)) ((s.program p).events.arrival || a.suspect) := by
  obtain ⟨mem, hwrote, htook⟩ := State.took_wrote (p := p) hlanes (fun n => (s.hearing l).took a n)
    ((s.program p).events.arrival || a.suspect) (runWords_apart hlanes a.stamp a.suspect hcount)
  exact ⟨mem, hwrote, State.took_writeParcel.trans htook⟩

variable (hlanes : s.lanesOk) (hedge : s.edge p = some edge) (hpos : (s.program p).conv.pos = some P)
  (hcount : a.samples.length ≤ 24)
include hlanes hedge hpos hcount

/-- Behind a flush the parcel is the first of its ring (R28, R34). -/
theorem State.heard_flushed : ∃ mem,
    (∀ j, (s.laneEntry l).inRegion j = false → mem.find j = s.mem.find j) ∧
    (s.inside edge l a →
      ((s.heard l p).flushLane l).firstParcel p l false a = s.tookAudio l p mem
        ((s.hearing l).took a (if a.suspect then a.samples.length else 0)) ((s.program p).events.arrival || a.suspect) ∧
      (∀ w ∈ a.words, mem.find ((s.laneEntry l).wordIndex w.1) = some w.2) ∧
      ∀ j, (s.laneEntry l).inRegion j = true → (∀ w ∈ a.words, j ≠ (s.laneEntry l).wordIndex w.1) → mem.find j = none) ∧
    (¬ s.inside edge l a →
      ((s.heard l p).flushLane l).firstParcel p l false a = s.tookAudio l p mem
        { s.hearing l with taint := 0, horizon := none, lastSeq := none
                           dropped := min ((s.hearing l).dropped + 1) 65535 } (s.program p).events.arrival ∧
      ∀ j, (s.laneEntry l).inRegion j = true → mem.find j = none) := by
  have hflush : (s.heard l p).flushLane l = s.tookAudio l p (s.mem.clear (s.laneEntry l).inRegion)
      { s.hearing l with taint := 0, horizon := none, lastSeq := none } (s.program p).events.arrival := State.took_flushLane
  have hregion : ∀ t, (s.laneEntry l).inRegion ((s.laneEntry l).wordIndex t) = true := State.inRegion_wordIndex hlanes
  rw [hflush]
  by_cases hin : s.inside edge l a
  · have hapart := runWords_apart (l := l) hlanes a.stamp a.suspect hcount
    have htaint := LaneEntry.writes_cleared (m := s.mem) (b := a.suspect) hapart hregion fun w hw => by
      unfold runWords at hw
      obtain ⟨i, hi, rfl⟩ := List.mem_mapIdx.mp hw
      rfl
    rw [runWords_length] at htaint
    refine ⟨((s.laneEntry l).writes (s.mem.clear (s.laneEntry l).inRegion, 0) a.words).1, fun j hj => ?_, fun _ => ⟨?_,
      fun w hw => LaneEntry.find_writes hapart (fun w _ => State.wordIndex_lt hlanes w.1) hw, fun j hj hne => ?_⟩,
      fun hout => absurd hin hout⟩
    · refine (LaneEntry.find_writes_ne fun w _ heq => ?_).trans ?_
      · rw [heq, hregion] at hj
        cases hj
      · rw [DelayMem.find_clear, hj, if_neg Bool.false_ne_true]
    · rw [State.took_first_inside hedge hpos hin, State.took_writeParcel]
      change s.tookAudio l p _ (Lane.took _ a ((s.laneEntry l).writes (s.mem.clear (s.laneEntry l).inRegion, 0)
        (runWords a.stamp a.suspect a.samples)).2) _ = _
      rw [htaint]
      rfl
    · refine (LaneEntry.find_writes_ne hne).trans ?_
      rw [DelayMem.find_clear, if_pos hj]
  · refine ⟨s.mem.clear (s.laneEntry l).inRegion, fun j hj => ?_, fun hin' => absurd hin' hin, fun _ => ⟨?_, fun j hj => ?_⟩⟩
    · rw [DelayMem.find_clear, hj, if_neg Bool.false_ne_true]
    · exact State.took_first_outside hedge hpos hin
    · rw [DelayMem.find_clear, if_pos hj]

/-- A follower's parcel by the case it falls under. -/
theorem State.taking_takes : s.TakesParcel l p edge P a ((s.heard l p).taking p l a) := by
  have hacc : (s.heard l p).accepts p l a = true ↔ s.inside edge l a := State.accepts_iff hedge
  have hself : ahead a.stamp a.stamp = false := by
    unfold ahead stampDiff
    rw [BitVec.sub_self]
    rfl
  unfold State.TakesParcel
  refine ⟨fun hfirst hin => ?_, fun hcalm hout => ?_, fun W hW => ⟨fun hbreaks => ?_, fun hahead hcalm hin => ?_,
    fun hne hbehind hdisc hin => ?_⟩⟩
  · have hwrites : (s.heard l p).taking p l a = (s.heard l p).writeParcel p l false a := by
      rcases hfirst with hnone | ⟨hW, hdisc⟩
      · rw [State.taking_of_none hnone]
        exact State.took_first_inside hedge hpos hin
      · rw [State.taking_of_some hW, hdisc, hself, hacc.mpr hin]
        exact if_pos rfl
    rw [hwrites]
    exact State.heard_writeParcel hlanes hcount
  · rcases Option.eq_none_or_eq_some (s.lane l).horizon with hW | ⟨W, hW⟩
    · rw [State.taking_of_none hW]
      exact State.took_first_outside (m := s.mem) (x := s.hearing l) hedge hpos hout
    · have hb := mt (Lane.breaks_iff (x := s.hearing l)).mp (hcalm W hW)
      rw [State.taking_of_some hW, if_neg hb, eq_false_of_ne_true (mt hacc.mp hout), Bool.not_false, if_pos rfl]
      exact State.took_dropParcel
  · rw [State.taking_of_some hW, if_pos ((Lane.breaks_iff (x := s.hearing l)).mpr hbreaks)]
    exact State.heard_flushed hlanes hedge hpos hcount
  · have hne : a.stamp ≠ W := fun heq => by
      rw [heq, ← heq, hself] at hahead
      cases hahead
    have hb := mt (Lane.breaks_iff (x := s.hearing l)).mp hcalm
    rw [State.taking_of_some hW, if_neg hb, hacc.mpr hin, Bool.not_true, if_neg Bool.false_ne_true, if_neg hne, if_pos hahead]
    obtain ⟨mem, hwrote, htook⟩ := State.took_wrote (p := p) hlanes
      (fun n => { (s.hearing l).took a n with
        concealed := min ((s.hearing l).concealed + (s.gapWords edge l W a).length) 65535 }) true
      (gap_apart hlanes hcount hin hahead)
    exact ⟨mem, hwrote, (State.took_concealAndWrite hlanes hedge hahead).trans htook⟩
  · have hb : ¬ (a.discontinuity || (ahead a.stamp W && (s.hearing l).consecutive a.seq)) = true := by
      rw [hdisc, hbehind]
      exact Bool.false_ne_true
    have hlate := State.took_lateParcel (l := l) (x := s.hearing l) (r := (s.program p).events.arrival) hlanes hedge hpos hcount hne hbehind
    rw [State.taking_of_some hW, if_neg hb, hacc.mpr hin, Bool.not_true, if_neg Bool.false_ne_true, if_neg hne, hbehind,
      if_neg Bool.false_ne_true]
    have hapart := late_apart (l := l) (W := W) hlanes hcount (s.lateRepairs edge l P W a)
    refine ⟨fun hlong hmends => ?_, fun hlong hnone => ?_, fun hextends => ?_⟩
    · rw [if_neg (Nat.not_lt.mpr hlong), if_neg hmends] at hlate
      obtain ⟨mem, hwrote, htook⟩ := State.took_wrote (p := p) hlanes (fun n => { s.hearing l with taint := n })
        (s.program p).events.arrival hapart
      exact ⟨mem, hwrote, hlate.trans htook⟩
    · rw [if_neg (Nat.not_lt.mpr hlong), if_pos hnone] at hlate
      exact hlate
    · rw [if_pos hextends] at hlate
      obtain ⟨mem, hwrote, htook⟩ := State.took_wrote (p := p) hlanes (fun n => (s.hearing l).took a n)
        ((s.program p).events.arrival || a.suspect) hapart
      exact ⟨mem, hwrote, hlate.trans htook⟩

end Takes

end Sys2Proof.Machine
end

section
/-! SUPPORT. The parcels of a follower (R23 to R31) and the words that a forward move of the edge leaves behind (R33). -/

namespace Sys2Proof.Machine

/-- An AUDIO parcel has 1 to 24 samples (R10). -/
theorem samples_count {slot : Slot} {node tag seq : Byte} {suspect discontinuity : Bool} {stamp : Stamp} {samples : List Sample}
    (h : slotContent slot = .audio node tag seq suspect discontinuity stamp samples) : 1 ≤ samples.length ∧ samples.length ≤ 24 := by
  unfold slotContent at h
  split at h
  · next b _ =>
    have haudio : parcelContent b = audioContent b := by
      unfold parcelContent at h ⊢
      split at h
      · cases h
      · rfl
      · unfold cueContent at h
        split at h <;> cases h
      · unfold pictureContent at h
        cases h
      · unfold controlContent at h
        split at h <;> cases h
      · cases h
    rw [haudio] at h
    unfold audioContent at h
    dsimp only at h
    split at h
    · cases h
    · next hcount =>
      cases h
      rw [List.length_map, List.length_range]
      simp only [Bool.or_eq_true, decide_eq_true_iff, not_or] at hcount
      omega
  · cases h

section Follower
variable {s : State} {l : Fin 32} {p : Fin 16} {a : AudioIn}

theorem State.audioNext.count {slot : Slot} (h : s.audioNext slot l a) : s.lanesOk ∧ 1 ≤ a.samples.length ∧ a.samples.length ≤ 24 := by
  obtain ⟨-, hlanes, -, -, node, tag, -, hcontent⟩ := h
  exact ⟨hlanes, samples_count hcontent⟩

theorem State.arrival_follower {t : State} (hfollower : t.leader p ≠ some l) (hstate : t.playState p ≠ .resyncing) :
    t.arrival p l a = t.taking p l a := by
  unfold State.arrival State.taking
  dsimp only
  rw [beq_false_of_ne hfollower, if_neg hstate]
  rfl

/-- What a slot brings a lane is its arrival, and in HOLDOVER the return test behind a leader's (R21, R46). -/
theorem exec_audioParcel_at {slot : Slot} (h : s.audioNext slot l a) (hmember : s.memberOf l p) :
    exec (.audioParcel slot) s = .next
      (if (s.playState p == .holdover && s.leader p == some l) && ((s.heard l p).arrival p l a).playState p == .holdover then
        ((s.heard l p).arrival p l a).returnTest p
      else (s.heard l p).arrival p l a) := by
  have hof : (s.slotTaken 0).programOf l = some p := State.programOf_of_memberOf (s := s) hmember
  rw [exec_audioParcel_of_next h, State.audioArrives_at hof, State.receiving_took (p := p)]
  rfl

end Follower

/-- Settles O20: a follower's parcel is its case, each told by the words it writes; and a ring retires by the distances of
its words from the old edge. -/
theorem followerAudioWritesInOrder : Obligations.FollowerAudioWritesInOrder := by
  refine ⟨fun s slot l a p P from_ h hmember hfollower hstate hpos hedge => ?_, fun s l old new hlanes => ?_⟩
  · obtain ⟨hlanes, -, hcount⟩ := h.count
    have hrun := exec_audioParcel_at h hmember
    have hfollower' : (s.heard l p).leader p ≠ some l := hfollower
    have hstate' : (s.heard l p).playState p ≠ .resyncing := fun heq => hstate ((State.took_playState).symm.trans heq)
    rw [beq_false_of_ne hfollower, Bool.and_false, Bool.false_and, if_neg Bool.false_ne_true,
      State.arrival_follower hfollower' hstate'] at hrun
    exact ⟨_, hrun, State.taking_takes hlanes hedge hpos hcount⟩
  · have hgone := fun i => LaneEntry.passed_iff (hlanes.1 l).1 old new i
    have hlane := State.lane_retireLane_self (s := s) (l := l) (old := old) (new := new)
    intro e u gone
    refine ⟨fun i => ⟨fun hi => ?_, fun hi => ?_⟩, ?_, fun lost hsub hlost hmem => ?_⟩
    · rw [State.find_retireLane, if_pos ((hgone i).mpr hi)]
    · rw [State.find_retireLane, if_neg (mt (hgone i).mp hi)]
    · rw [hlane]
      exact State.retireLane_eq s l old new
    · rw [hlane]
      refine congrArg ((s.lane l).taint - ·) (DelayMem.suspects_eq_length hmem hsub fun c hc => ?_)
      rw [hlost c hc, hgone]

end Sys2Proof.Machine
end

section
/-! SUPPORT. The parcels of a leader (R24, R28, R31, R42, R46, R47, R91): the first of a program, a RESYNC request, and every
other, which is a follower's with the meter behind it. -/

namespace Sys2Proof.Machine

/-! ### A leader's parcel is a follower's with the meter behind it -/

section Leader
variable {t : State} {l : Fin 32} {p : Fin 16} {a : AudioIn} {W : Stamp}

theorem State.firstParcel_leader (h : (t.program p).conv.pos ≠ none) : t.firstParcel p l true a =
    if t.accepts p l a then (t.firstParcel p l false a).meterFollows p a.last else t.firstParcel p l false a := by
  unfold State.firstParcel
  cases hpos : (t.program p).conv.pos with
  | none => exact absurd hpos h
  | some P =>
    dsimp only
    split
    · exact State.writeParcel_leader t
    · rfl

theorem State.concealAndWrite_leader : t.concealAndWrite p l true W a = (t.concealAndWrite p l false W a).meterFollows p a.last := by
  unfold State.concealAndWrite
  exact State.writeParcel_leader _

theorem State.lateParcel_leader : t.lateParcel p l true W a =
    if (W - a.stamp).toNat < a.samples.length then (t.lateParcel p l false W a).meterFollows p a.last
    else t.lateParcel p l false W a := by
  have hempty : (a.samples.drop (W - a.stamp).toNat).isEmpty = true ↔ ¬ (W - a.stamp).toNat < a.samples.length := by
    rw [List.isEmpty_iff, List.drop_eq_nil_iff, Nat.not_lt]
  unfold State.lateParcel
  dsimp only
  by_cases h : (W - a.stamp).toNat < a.samples.length
  · rw [if_pos h, if_neg (fun he => hempty.mp he h), if_neg (fun he => hempty.mp he h)]
    rfl
  · rw [if_neg h, if_pos (hempty.mpr h), if_pos (hempty.mpr h)]

/-- The parcel moves W (R25, R26, R29). -/
def State.extends_ (t : State) (p : Fin 16) (l : Fin 32) (a : AudioIn) : Prop :=
  t.accepts p l a = true ∧ ∀ W, (t.lane l).horizon = some W →
    (t.lane l).breaks W a ∨ ahead a.stamp W = true ∨ (W - a.stamp).toNat < a.samples.length

/-- A leader's parcel that asks for no RESYNC (R28, R31, R91). -/
theorem State.arrival_leader (hleader : t.leader p = some l) (hstate : t.playState p ≠ .resyncing)
    (hpos : (t.program p).conv.pos ≠ none) (hsome : 1 ≤ a.samples.length)
    (hcalm : (t.lane l).horizon = none ∨ t.playState p = .parking ∨
      ((∀ W, (t.lane l).horizon = some W → ¬ (t.lane l).breaks W a) ∧ t.accepts p l a = true)) :
    (t.extends_ p l a → t.arrival p l a = (t.taking p l a).meterFollows p a.last) ∧
      (¬ t.extends_ p l a → t.arrival p l a = t.taking p l a) := by
  have hfirst := t.firstParcel_leader (l := l) (a := a) hpos
  have hself : ahead a.stamp a.stamp = false := by
    unfold ahead stampDiff
    rw [BitVec.sub_self]
    rfl
  unfold State.arrival State.taking State.extends_
  dsimp only
  rw [hleader, beq_self_eq_true, Bool.true_and, if_neg hstate]
  rcases Option.eq_none_or_eq_some (t.lane l).horizon with hW | ⟨W, hW⟩
  · rw [hW]
    dsimp only
    rw [hfirst]
    exact ⟨fun h => if_pos h.1, fun h => if_neg fun hacc => h ⟨hacc, nofun⟩⟩
  · rw [hW] at hcalm ⊢
    dsimp only
    by_cases hbreaks : (t.lane l).breaks W a
    · have hparking : t.playState p = .parking := by
        rcases hcalm with h | h | ⟨h, -⟩
        · cases h
        · exact h
        · exact absurd hbreaks (h W rfl)
      have hflushed := (t.flushLane l).firstParcel_leader (p := p) (l := l) (a := a) hpos
      have hacc : (t.flushLane l).accepts p l a = t.accepts p l a := rfl
      rw [if_pos (Lane.breaks_iff.mpr hbreaks), if_pos (Lane.breaks_iff.mpr hbreaks), hparking, if_neg (by decide), hflushed, hacc]
      refine ⟨fun h => if_pos h.1, fun h => if_neg fun hacc => h ⟨hacc, fun V hV => .inl ?_⟩⟩
      rw [← Option.some.inj hV]
      exact hbreaks
    · rw [if_neg (mt Lane.breaks_iff.mp hbreaks), if_neg (mt Lane.breaks_iff.mp hbreaks)]
      by_cases hacc : t.accepts p l a = true
      · rw [hacc, Bool.not_true, if_neg Bool.false_ne_true, if_neg Bool.false_ne_true]
        have hextends : (true = true ∧ ∀ V, some W = some V → (t.lane l).breaks V a ∨ ahead a.stamp V = true ∨
            (V - a.stamp).toNat < a.samples.length) ↔ ahead a.stamp W = true ∨ (W - a.stamp).toNat < a.samples.length :=
          ⟨fun h => (h.2 W rfl).resolve_left hbreaks, fun h => ⟨rfl, fun V hV => .inr (Option.some.inj hV ▸ h)⟩⟩
        rw [hextends]
        by_cases heq : a.stamp = W
        · rw [if_pos heq, if_pos heq, ← heq]
          refine ⟨fun _ => State.writeParcel_leader t, fun h => absurd (.inr ?_) h⟩
          rw [BitVec.sub_self]
          exact hsome
        · rw [if_neg heq, if_neg heq]
          by_cases hahead : ahead a.stamp W = true
          · rw [if_pos hahead, if_pos hahead]
            exact ⟨fun _ => State.concealAndWrite_leader, fun h => absurd (.inl hahead) h⟩
          · rw [if_neg hahead, if_neg hahead, State.lateParcel_leader]
            exact ⟨fun h => if_pos (h.resolve_left hahead), fun h => if_neg fun hlt => h (.inr hlt)⟩
      · have hparking : t.playState p = .parking := by
          rcases hcalm with h | h | ⟨-, h⟩
          · cases h
          · exact h
          · exact absurd h hacc
        rw [eq_false_of_ne_true hacc, Bool.not_false, if_pos rfl, if_pos rfl, hparking, if_neg (by decide)]
        exact ⟨fun h => absurd h.1 Bool.false_ne_true, fun _ => rfl⟩

theorem State.taking_tranquil (t : State) (p : Fin 16) (l : Fin 32) (a : AudioIn) : t.Tranquil (t.taking p l a) := by
  unfold State.taking
  split
  · exact t.firstParcel_tranquil p l _ a
  · split
    · exact (State.firstParcel_tranquil _ p l _ a).after (t.flushLane_tranquil l)
    · split
      · exact t.dropParcel_tranquil l
      · split
        · exact t.writeParcel_tranquil p l _ a
        · split
          · exact t.concealAndWrite_tranquil p l _ _ a
          · exact t.lateParcel_tranquil p l _ _ a

end Leader

end Sys2Proof.Machine
end

section
/-! SUPPORT. The meter's moves (R91 to R95) and the return test (R46): the biquads, stamps measured one by one, and the read
position that no measurement moves. -/

namespace Sys2Proof.Machine

/-! ### A measurement moves no read position -/

/-- The converter of every program stands. -/
def State.ConvStands (s t : State) : Prop := ∀ q, (t.program q).conv = (s.program q).conv

section Conv
variable {s t u : State} {p : Fin 16}

theorem State.ConvStands.refl (s : State) : s.ConvStands s := fun _ => rfl

theorem State.ConvStands.trans (h : s.ConvStands t) (k : t.ConvStands u) : s.ConvStands u := fun q => (k q).trans (h q)

theorem State.ConvStands.setProgram {x : Program} (h : x.conv = (s.program p).conv) : s.ConvStands (s.setProgram p x) := by
  intro q
  by_cases hq : q = p
  · rw [hq, State.program_setProgram_self, h]
  · rw [State.program_setProgram_ne s x hq]

theorem State.dropForward_convStands (s : State) (p : Fin 16) : s.ConvStands (s.dropForward p) := .setProgram rfl

theorem State.placeCue_convStands (s : State) (c : CueOut) : s.ConvStands (s.placeCue c) := by
  unfold State.placeCue
  split
  · exact .refl s
  · exact s.dropForward_convStands c.program

theorem State.takeEffect_convStands (s : State) (p : Fin 16) (e : Entry) : s.ConvStands (s.takeEffect p e) := by
  cases e with
  | gain t value => exact .setProgram rfl
  | cue t kind mark =>
    change s.ConvStands (s.forwardCue p kind mark)
    unfold State.forwardCue
    split
    · exact s.placeCue_convStands _
    · exact s.dropForward_convStands p

theorem State.offer_convStands (s : State) (p : Fin 16) (e : Entry) : s.ConvStands (s.offer p e).2 := by
  cases hreached : s.reached p e.stamp with
  | true =>
    rw [State.offer_of_reached hreached]
    exact s.takeEffect_convStands p e
  | false =>
    rcases Nat.lt_or_ge (s.program p).gain.schedule.length 128 with hroom | hfull
    · rw [State.offer_of_room hreached hroom]
      exact .setProgram rfl
    · rw [State.offer_of_full hreached hfull]
      cases e with
      | gain t value =>
        dsimp only
        split <;> exact .setProgram rfl
      | cue t kind mark => exact .setProgram rfl

theorem State.decideGain_convStands (s : State) (p : Fin 16) (boundary : Stamp) : s.ConvStands (s.decideGain p boundary) := by
  unfold State.decideGain
  dsimp only
  split
  · split
    · split
      · exact (s.offer_convStands p _).trans (.setProgram rfl)
      · exact s.offer_convStands p _
    · exact .refl s
  · exact .refl s

theorem State.stepReport_convStands (s : State) (p : Fin 16) : s.ConvStands (s.stepReport p) := by
  unfold State.stepReport
  dsimp only
  split
  · exact .setProgram rfl
  · split <;> exact .setProgram rfl

theorem State.endSegment_convStands (s : State) (p : Fin 16) : s.ConvStands (s.endSegment p) := by
  have hcloses : ∀ {u : State} {m : Meter} {e : Events},
      u.ConvStands (u.setProgram p { u.program p with meter := m, events := e }) := .setProgram rfl
  unfold State.endSegment
  dsimp only
  exact (((hcloses.trans (State.decideGain_convStands _ p _)).trans hcloses).trans
    (State.stepReport_convStands _ p)).trans (.setProgram rfl)

theorem State.measureStamp_convStands (s : State) (p : Fin 16) (edge : Option Stamp) (t : Stamp) :
    s.ConvStands (s.measureStamp p edge t) := .setProgram rfl

theorem State.measureRun_convStands (s : State) (p : Fin 16) (edge : Option Stamp) (n : Nat) (t : Stamp) :
    s.ConvStands (s.measureRun p edge n t) := by
  induction n generalizing s t with
  | zero => exact .refl s
  | succ n ih =>
    unfold State.measureRun
    dsimp only
    split
    · exact (s.measureStamp_convStands p edge t).trans ((State.endSegment_convStands _ p).trans (ih _ _))
    · exact (s.measureStamp_convStands p edge t).trans (ih _ _)

end Conv

/-! ### The meter position (R33, R91) -/

section Meter
variable {s : State} {p : Fin 16} {W M from_ : Stamp} {P : ReadPos}

/-- The meter follows W less the cushion, the retired edge behind it (R33, R91). -/
theorem State.meterFollows_eq (hmeter : (s.program p).meter.pos = some M) (hpos : (s.program p).conv.pos = some P)
    (hedge : s.edge p = some from_) {target : Stamp} (htarget : target = W - BitVec.ofNat 32 (s.entry p).cushion)
    {measured : State} (hmeasured : measured = s.measureRun p (some from_) (stampDiff target M).toNat M) :
    s.meterFollows p W = if ahead target M then
        (measured.setProgram p { measured.program p with meter :=
          { (measured.program p).meter with pos := some target } }).retire p (some from_)
            (some (earlier (P.stamp - 15) target))
      else s := by
  have hconv : (measured.program p).conv.pos = some P := by
    rw [hmeasured, s.measureRun_convStands p _ _ _ p, hpos]
  have hbehind : (measured.setProgram p { measured.program p with meter :=
      { (measured.program p).meter with pos := some target } }).edge p = some (earlier (P.stamp - 15) target) := by
    unfold State.edge
    rw [State.program_setProgram_self]
    dsimp only
    rw [hconv]
  unfold State.meterFollows State.moveMeter
  rw [hmeter]
  dsimp only
  rw [hedge, ← htarget, ← hmeasured, hbehind]

/-! ### Stamps measured one by one (R92, R93, R95) -/

theorem Biquad.run_eq (c : Biquad) (b : BiquadState) (x : Int) : c.run b x =
    (max (-134217728) (min 134217728 ((c.sum b x + 134217728) / 268435456)),
      { x1 := x, x2 := b.x1
        v1 := max (-134217728) (min 134217728 ((c.sum b x + 134217728) / 268435456)), v2 := b.v1 }) := by
  have hround : roundShift (c.sum b x) 28 = (c.sum b x + 134217728) / 268435456 := rfl
  have hclamp : ∀ y : Int, clampInt (-134217728) 134217728 y = max (-134217728) (min 134217728 y) := fun y => by
    unfold clampInt
    split
    · omega
    · split <;> omega
  unfold Biquad.run
  dsimp only
  rw [hround, hclamp]

theorem State.measureRun_succ (s : State) (p : Fin 16) (edge : Option Stamp) (n : Nat) (t : Stamp) :
    s.measureRun p edge (n + 1) t = (s.measureRun p edge 1 t).measureRun p edge n (t + 1) := rfl

theorem State.measureRun_add (s : State) (p : Fin 16) (edge : Option Stamp) (m n : Nat) (t : Stamp) :
    s.measureRun p edge (m + n) t = (s.measureRun p edge m t).measureRun p edge n (t + BitVec.ofNat 32 m) := by
  induction m generalizing s t with
  | zero =>
    rw [Nat.zero_add, BitVec.add_zero]
    rfl
  | succ m ih => rw [Nat.add_right_comm, State.measureRun_succ, ih, State.measureRun_succ s p edge m t, stamp_succ]

/-- The members' meters once each has heard its word of this stamp (R92). -/
def State.hearStamp (s : State) (p : Fin 16) (edge : Option Stamp) (t : Stamp) (ms : List MemberMeter) : List MemberMeter :=
  ((s.entry p).members.zip ms).map fun lm =>
    lm.2.measure s.tables.weightings[(s.classOf p).index] (s.readWord edge lm.1 t).1

/-- The program with these members' meters. -/
def State.metered (s : State) (p : Fin 16) (ms : List MemberMeter) : State :=
  s.setProgram p { s.program p with meter := { (s.program p).meter with members := ms } }

theorem State.program_metered (ms : List MemberMeter) : (s.metered p ms).program p =
    { s.program p with meter := { (s.program p).meter with members := ms } } := State.program_setProgram_self _ _ _

theorem State.measureStamp_metered (edge : Option Stamp) (t : Stamp) (ms : List MemberMeter) :
    (s.metered p ms).measureStamp p edge t = s.metered p (s.hearStamp p edge t ms) := by
  unfold State.measureStamp
  dsimp only
  rw [State.program_metered]
  exact s.setProgram_setProgram p _ _

/-- One stamp that ends no segment is heard and no more; one that ends a segment ends it (R92, R95). -/
theorem State.measureRun_one (edge : Option Stamp) (t : Stamp) (ms : List MemberMeter) :
    (s.metered p ms).measureRun p edge 1 t =
      if t + 1 = (s.program p).meter.boundary then (s.metered p (s.hearStamp p edge t ms)).endSegment p
      else s.metered p (s.hearStamp p edge t ms) := by
  unfold State.measureRun
  dsimp only
  rw [State.measureStamp_metered, State.program_metered]
  rfl

theorem State.metered_same : s.metered p (s.program p).meter.members = s := s.setProgram_same p

/-- Stamps within a segment are heard one after another (R92). -/
theorem State.measureRun_within (edge : Option Stamp) (t : Stamp) (n : Nat)
    (h : ∀ k, 1 ≤ k → k ≤ n → t + BitVec.ofNat 32 k ≠ (s.program p).meter.boundary) :
    s.measureRun p edge n t = s.metered p
      ((List.range n).foldl (fun ms k => s.hearStamp p edge (t + BitVec.ofNat 32 k) ms) (s.program p).meter.members) := by
  induction n with
  | zero => exact State.metered_same.symm
  | succ n ih =>
    have hnext : t + BitVec.ofNat 32 n + 1 ≠ (s.program p).meter.boundary := by
      have := h (n + 1) (Nat.le_add_left 1 n) le_rfl
      rwa [BitVec.ofNat_add, ← BitVec.add_assoc] at this
    rw [State.measureRun_add, ih fun k h1 hk => h k h1 (Nat.le_succ_of_le hk), State.measureRun_one, if_neg hnext,
      List.range_succ, List.foldl_append]
    rfl

end Meter

/-! ### The return test (R46) -/

section Return
variable {s : State} {p : Fin 16} {P : ReadPos}

theorem fillExceeds_iff (W : Stamp) (P : ReadPos) (n : Nat) : (!fillExceeds W P n) = true ↔
    stampDiff W P.stamp * 16777216 - P.frac.toNat ≤ ((n : Int) - 64) * 16777216 := by
  unfold fillExceeds fillFine
  rw [Bool.not_eq_true', decide_eq_false_iff_not, Int.not_lt]

/-- In HOLDOVER a RESYNC request is taken (R47). -/
theorem State.requestResync_of_holdover (hstate : s.playState p = .holdover) (hpos : (s.program p).conv.pos = some P) :
    s.requestResync p = (s.setProgram p (s.program p).resyncing).followThrough := by
  have hstate' : (s.program p).play.state = .holdover := hstate
  rw [State.requestResync_eq, if_pos]
  unfold Program.resyncs
  rw [hpos, hstate']
  rfl

theorem State.returnTest_back (hpos : (s.program p).conv.pos = some P) {W : Stamp} (hW : s.leaderHorizon p = some W)
    (hbehind : behind (P.stamp + 16) W = true) (hfill : stampDiff W P.stamp * 16777216 - P.frac.toNat ≤
      ((s.smallestRing p : Int) - 64) * 16777216) : s.returnTest p = s.enterRunning p := by
  unfold State.returnTest
  rw [hpos, hW]
  dsimp only
  rw [hbehind, (fillExceeds_iff W P _).mpr hfill]
  exact if_pos rfl

theorem State.returnTest_gone (hstate : s.playState p = .holdover) (hpos : (s.program p).conv.pos = some P)
    (h : ∀ W, s.leaderHorizon p = some W → ¬ (behind (P.stamp + 16) W = true ∧
      stampDiff W P.stamp * 16777216 - P.frac.toNat ≤ ((s.smallestRing p : Int) - 64) * 16777216)) :
    s.returnTest p = (s.setProgram p (s.program p).resyncing).followThrough := by
  rw [← State.requestResync_of_holdover hstate hpos]
  unfold State.returnTest
  rw [hpos]
  rcases Option.eq_none_or_eq_some (s.leaderHorizon p) with hW | ⟨W, hW⟩
  · rw [hW]
  · rw [hW]
    dsimp only
    rw [if_neg]
    intro hback
    rw [Bool.and_eq_true, fillExceeds_iff] at hback
    exact h W hW hback

end Return

end Sys2Proof.Machine
end

section
/-! SUPPORT. The leader's parcels (R24, R28, R31, R42, R46 to R48, R91). -/

namespace Sys2Proof.Machine

/-! ### The first parcel of a program sets its positions (R24, R42, R91) -/

section First
variable {s : State} {l : Fin 32} {p : Fin 16} {a : AudioIn} {mem : DelayMem} {lane : Lane} {marked : Bool}

/-- A first read position moves no edge: nothing is retired (R30, R33). -/
theorem State.setPos_unplaced (hactive : s.active p = true) (hedge : s.edge p = none) (t : Stamp) :
    s.setPos p t = { s.setProgram p { s.program p with
        conv := { (s.program p).conv with pos := some ⟨t, 0⟩, hold := false }
        gain := (s.program p).gain.playedOut t ((s.dueCues p t).length -
          ((s.cuesOut p t s.house.stamp).take (8 - s.egress.outbox.length)).length) } with
      egress := { s.egress with
        outbox := s.egress.outbox ++ (s.cuesOut p t s.house.stamp).take (8 - s.egress.outbox.length) } } := by
  have hframe := (s.setPos_movesTo p t hactive).1
  have hstill : (s.setPos p t).lanes = s.lanes ∧ (s.setPos p t).mem = s.mem :=
    ((s.unheld p).movePos_moves p ⟨t, 0⟩).still ((s.edge_unheld p).trans hedge)
  rw [hstill.1, hstill.2] at hframe
  exact hframe

/-- The meter begins afresh with the parcel's first stamp (R91). -/
def State.meterBegun (s : State) (p : Fin 16) (t : Stamp) : State :=
  s.setProgram p { s.program p with
    meter := (s.program p).meter.begin t (s.classOf p) (s.entry p).members.length }

theorem State.firstOfProgram_eq : s.firstOfProgram p l a = ((s.writeParcel p l false a).meterBegun p a.stamp).setPos p a.stamp :=
  rfl

/-- The program with its positions at the parcel's first stamp (R24, R42, R91). -/
theorem State.took_opens (hleader : s.leader p = some l) (hactive : s.active p = true)
    (hpos : (s.program p).conv.pos = none) {placed : List CueOut}
    (hplaced : placed = (s.cuesOut p a.stamp s.house.stamp).take (8 - s.egress.outbox.length)) :
    ((s.tookAudio l p mem lane marked).meterBegun p a.stamp).setPos p a.stamp =
      { (s.tookAudio l p mem lane marked).setProgram p { s.program p with
          conv := { (s.program p).conv with pos := some ⟨a.stamp, 0⟩, hold := false }
          meter := { (s.program p).meter with
            pos := some a.stamp, origin := some a.stamp
            boundary := a.stamp + BitVec.ofNat 32 (s.laneEntry l).rateClass.segment
            segments := 0, members := List.replicate (s.entry p).members.length {}, reportCount := 0 }
          gain := (s.program p).gain.playedOut a.stamp ((s.dueCues p a.stamp).length - placed.length)
          events := { (s.program p).events with arrival := marked } } with
        egress := { s.egress with outbox := s.egress.outbox ++ placed } } := by
  have hclass : (s.tookAudio l p mem lane marked).classOf p = (s.laneEntry l).rateClass := by
    change s.classOf p = _
    unfold State.classOf
    rw [hleader]
  have hprogram : ((s.tookAudio l p mem lane marked).meterBegun p a.stamp).program p = { s.program p with
      meter := (s.program p).meter.begin a.stamp (s.laneEntry l).rateClass (s.entry p).members.length
      events := { (s.program p).events with arrival := marked } } := by
    unfold State.meterBegun
    rw [State.program_setProgram_self, State.took_program, hclass]
    rfl
  have hset : ∀ x, ((s.tookAudio l p mem lane marked).meterBegun p a.stamp).setProgram p x =
      (s.tookAudio l p mem lane marked).setProgram p x := fun x => State.setProgram_setProgram _ p _ x
  have hegress : ((s.tookAudio l p mem lane marked).meterBegun p a.stamp).egress = s.egress := rfl
  have hhouse : ((s.tookAudio l p mem lane marked).meterBegun p a.stamp).house = s.house := rfl
  generalize (s.tookAudio l p mem lane marked).meterBegun p a.stamp = v at hprogram hset hegress hhouse ⊢
  have hv : v.active p = true := by
    rw [State.active, State.playState, hprogram]
    exact hactive
  have hedge : v.edge p = none := by
    unfold State.edge
    rw [hprogram]
    dsimp only
    rw [hpos]
  have hdue : v.dueCues p a.stamp = s.dueCues p a.stamp := by
    unfold State.dueCues
    rw [hprogram]
  have hcues : v.cuesOut p a.stamp v.house.stamp = s.cuesOut p a.stamp s.house.stamp := by
    rw [hhouse]
    exact State.cuesOut_congr (s := s) (t := v) p (State.cueTag_congr p hegress) (by rw [hprogram]) _ _
  rw [State.setPos_unplaced hv hedge, hset, hdue, hcues, hegress, ← hplaced, hprogram]
  rfl

end First

/-! ### Which of its cases a leader's parcel falls under (R23, R28, R31, R47) -/

section Leads
variable {s : State} {slot : Slot} {l : Fin 32} {p : Fin 16} {a : AudioIn} {W : Stamp}

theorem State.heard_lane : (s.heard l p).lane l = s.hearing l := State.took_lane

theorem State.heard_program : (s.heard l p).program p = s.program p := State.took_program

theorem State.heard_playState : (s.heard l p).playState p = s.playState p := State.took_playState

theorem State.heard_edge : (s.heard l p).edge p = s.edge p := State.took_edge

/-- A program that leads a lane that hears is not PARKED (R21, R41). -/
theorem State.memberOf.active (hmember : s.memberOf l p) {node tag : Byte} (hears : s.hears node tag l) : s.active p = true := by
  obtain ⟨hstarted, hdefined, hl⟩ := hmember
  obtain ⟨-, -, -, hstatus⟩ := hears
  obtain ⟨hone, -, hlanes⟩ := hstarted
  obtain ⟨q, hdefined', hl', hactive⟩ := (hlanes l).mp hstatus
  have hsame : p = q := by_contra fun hne => hone p q l hne hdefined hdefined' hl hl'
  rw [hsame]
  exact hactive

theorem exec_audioParcel_away (h : s.audioNext slot l a) (hmember : s.memberOf l p) (hstate : s.playState p ≠ .holdover) :
    exec (.audioParcel slot) s = .next ((s.heard l p).arrival p l a) := by
  rw [exec_audioParcel_at h hmember, beq_false_of_ne hstate, Bool.false_and, Bool.false_and, if_neg Bool.false_ne_true]

theorem exec_audioParcel_returning (h : s.audioNext slot l a) (hmember : s.memberOf l p) (hleader : s.leader p = some l)
    (hstate : s.playState p = .holdover) : exec (.audioParcel slot) s = .next
      (if ((s.heard l p).arrival p l a).playState p = .holdover then ((s.heard l p).arrival p l a).returnTest p
      else (s.heard l p).arrival p l a) := by
  rw [exec_audioParcel_at h hmember, hstate, hleader, beq_self_eq_true, beq_self_eq_true, Bool.true_and, Bool.true_and]
  simp only [beq_iff_eq]

/-- The first of a program is written, and opens it (R24, R42). -/
theorem State.arrival_first (hleader : s.leader p = some l) (hstate : s.playState p ≠ .resyncing)
    (hhorizon : (s.lane l).horizon = none) (hpos : (s.program p).conv.pos = none) :
    (s.heard l p).arrival p l a = (s.heard l p).firstOfProgram p l a := by
  have hleads : (s.heard l p).leader p = some l := hleader
  unfold State.arrival
  dsimp only
  rw [State.heard_playState, if_neg hstate, State.heard_horizon, hhorizon]
  dsimp only
  unfold State.firstParcel
  rw [State.heard_program, hpos, hleads, beq_self_eq_true]
  rfl

/-- Out of the window or a discontinuity, but in PARKING, asks for a RESYNC (R28, R31). -/
theorem State.arrival_requests (hleader : s.leader p = some l) (hstate : s.playState p ≠ .resyncing)
    (hparking : s.playState p ≠ .parking) (hhorizon : (s.lane l).horizon = some W)
    (h : (s.hearing l).breaks W a ∨ ∀ from_, s.edge p = some from_ → ¬ s.inside from_ l a) :
    (s.heard l p).arrival p l a = (s.heard l p).requestResync p := by
  have hleads : (s.heard l p).leader p = some l := hleader
  unfold State.arrival
  dsimp only
  rw [State.heard_playState, if_neg hstate, State.heard_horizon, hhorizon, hleads, beq_self_eq_true, bne_iff_ne.mpr hparking, State.heard_lane]
  dsimp only
  by_cases hbreaks : (s.hearing l).breaks W a
  · rw [if_pos (Lane.breaks_iff.mpr hbreaks)]
    rfl
  · have hout : (s.heard l p).accepts p l a = false := by
      rcases Option.eq_none_or_eq_some (s.edge p) with hedge | ⟨e, hedge⟩
      · unfold State.accepts
        rw [State.heard_edge, hedge]
      · exact eq_false_of_ne_true (mt (State.accepts_iff hedge).mp (h.resolve_left hbreaks e hedge))
    rw [if_neg (mt Lane.breaks_iff.mp hbreaks), hout]
    rfl

/-- The request is taken once the program has a position, and nothing comes of it before (R47, R48). -/
theorem State.requestResync_unplaced (hpos : (s.program p).conv.pos = none) : s.requestResync p = s := by
  rw [State.requestResync_eq, if_neg]
  unfold Program.resyncs
  rw [hpos]
  exact Bool.false_ne_true

theorem State.requestResync_placed (hpos : (s.program p).conv.pos ≠ none) (hactive : s.active p = true)
    (hstate : s.playState p ≠ .resyncing) (hparking : s.playState p ≠ .parking) :
    s.requestResync p = (s.setProgram p (s.program p).resyncing).followThrough := by
  rw [State.requestResync_eq, if_pos]
  unfold Program.resyncs
  rw [Option.isSome_iff_ne_none.mpr hpos, Bool.true_and]
  have hparked : s.playState p ≠ .parked := bne_iff_ne.mp hactive
  unfold State.playState at hstate hparking hparked
  cases hplay : (s.program p).play.state <;> simp_all

theorem State.playState_resyncing (s : State) (p : Fin 16) :
    (s.setProgram p (s.program p).resyncing).followThrough.playState p = .resyncing := by
  rw [State.playState, (State.handsOn_followThrough _).program p, State.program_setProgram_self]
  rfl

/-- A parcel that asks for a RESYNC leaves what the request makes of the part (R28, R31, R47). -/
theorem exec_audioParcel_requests (h : s.audioNext slot l a) (hmember : s.memberOf l p) (hleader : s.leader p = some l)
    (hactive : s.active p = true) (hstate : s.playState p ≠ .resyncing) (hparking : s.playState p ≠ .parking)
    (hpos : (s.program p).conv.pos ≠ none)
    (hrequests : (s.heard l p).arrival p l a = (s.heard l p).requestResync p) :
    exec (.audioParcel slot) s = .next ((s.heard l p).setProgram p (s.program p).resyncing).followThrough := by
  have hresync : (s.heard l p).requestResync p = ((s.heard l p).setProgram p (s.program p).resyncing).followThrough := by
    rw [State.requestResync_placed, State.heard_program]
    · rw [State.heard_program]
      exact hpos
    · rw [State.active, State.heard_playState]
      exact hactive
    · rw [State.heard_playState]
      exact hstate
    · rw [State.heard_playState]
      exact hparking
  have hresyncing := (s.heard l p).playState_resyncing p
  rw [State.heard_program, ← hresync, ← hrequests] at hresyncing
  rw [← hresync, ← hrequests]
  by_cases hhold : s.playState p = .holdover
  · rw [exec_audioParcel_returning h hmember hleader hhold, hresyncing, if_neg (by decide)]
  · exact exec_audioParcel_away h hmember hhold

/-- Taking a parcel, and the meter behind it, move no play state. -/
theorem State.taken_playState {t v : State} {W : Stamp}
    (h : v = (t.taking p l a).meterFollows p W ∨ v = t.taking p l a) : v.playState p = t.playState p := by
  have htaking := t.taking_tranquil p l a
  rcases h with rfl | rfl
  · exact ((htaking.trans (State.meterFollows_tranquil _ p W)).programs p).state
  · exact (htaking.programs p).state

end Leads

/-- Settles O21: the leader's first parcel is written and opens its program; a RESYNC request is what the arrival makes of
a parcel that breaks or misses the window; every other parcel is a follower's with the meter behind it; and the meter
measures stamp by stamp. -/
theorem leaderAudioOpensProgram : Obligations.LeaderAudioOpensProgram := by
  refine ⟨fun s slot l a p h hmember hleader => ?_, fun s p W M P from_ hmeter hpos hedge => ?_,
    fun s p P hstate hpos => ⟨fun W hW hback => ?_, fun hgone => ?_⟩, fun s p edge t => ?_, fun w m x => ?_⟩
  · obtain ⟨hlanes, hsome, hcount⟩ := h.count
    obtain ⟨node, tag, hears, -⟩ := h.2.2.2.2
    have hactive := hmember.active hears
    refine ⟨fun hplay hhorizon hpos => ?_, fun W hW hstate hparking hbroken => ⟨fun hpos haway => ?_, fun hpos => ?_⟩,
      fun from_ P hpos hedge hstate hcalm => ?_⟩
    · have hstate : s.playState p ≠ .resyncing ∧ s.playState p ≠ .holdover := by
        unfold State.playState
        rcases hplay with hplay | hplay <;> rw [hplay] <;> decide
      obtain ⟨mem, hwrote, htook⟩ := State.heard_writeParcel (s := s) (l := l) (p := p) hlanes hcount
      refine ⟨mem, ?_, hwrote⟩
      rw [exec_audioParcel_away h hmember hstate.2, State.arrival_first hleader hstate.1 hhorizon hpos,
        State.firstOfProgram_eq, htook, State.took_opens hleader hactive hpos rfl]
      rfl
    · have hunplaced : ((s.heard l p).program p).conv.pos = none := by
        rw [State.heard_program]
        exact hpos
      rw [exec_audioParcel_away h hmember haway, State.arrival_requests hleader hstate hparking hW hbroken,
        State.requestResync_unplaced hunplaced]
      rfl
    · rw [exec_audioParcel_requests h hmember hleader hactive hstate hparking hpos
        (State.arrival_requests hleader hstate hparking hW hbroken)]
      rfl
    · have hplay : (s.heard l p).playState p = s.playState p := State.heard_playState
      have hlane : (s.heard l p).lane l = s.hearing l := State.heard_lane
      have hacc : (s.heard l p).accepts p l a = true ↔ s.inside from_ l a := State.accepts_iff hedge
      have hplaced : ((s.heard l p).program p).conv.pos ≠ none := by
        rw [State.heard_program, hpos]
        exact nofun
      have hcalm' : ((s.heard l p).lane l).horizon = none ∨ (s.heard l p).playState p = .parking ∨
          ((∀ W, ((s.heard l p).lane l).horizon = some W → ¬ ((s.heard l p).lane l).breaks W a) ∧
            (s.heard l p).accepts p l a = true) := by
        rw [hlane, hplay, hacc]
        exact hcalm
      have hextends : (s.heard l p).extends_ p l a ↔ s.inside from_ l a ∧ ∀ W, (s.hearing l).horizon = some W →
          (s.hearing l).breaks W a ∨ ahead a.stamp W = true ∨ (W - a.stamp).toNat < a.samples.length := by
        unfold State.extends_
        rw [hlane, hacc]
      obtain ⟨hmoves, hstays⟩ := State.arrival_leader (t := s.heard l p) hleader (hplay ▸ hstate) hplaced hsome hcalm'
      have hsame : ((s.heard l p).arrival p l a).playState p = s.playState p :=
        (State.taken_playState ((em _).imp hmoves hstays)).trans hplay
      refine ⟨_, (s.heard l p).arrival p l a, State.taking_takes hlanes hedge hpos hcount,
        fun he => hmoves (hextends.mpr he), fun he => hstays (mt hextends.mp he),
        fun haway => exec_audioParcel_away h hmember haway, fun hhold => ?_⟩
      exact (exec_audioParcel_returning h hmember hleader hhold).trans (congrArg Host.Outcome.next (if_pos (hsame.trans hhold)))
  · exact State.meterFollows_eq hmeter hpos hedge rfl rfl
  · exact State.returnTest_back hpos hW hback.1 hback.2
  · exact State.returnTest_gone hstate hpos hgone
  · refine ⟨fun n hn => State.measureRun_within edge t n hn, fun hend => ?_, fun m n => s.measureRun_add p edge m n t⟩
    have hone := State.measureRun_one (s := s) (p := p) edge t (s.program p).meter.members
    rw [State.metered_same, if_pos hend] at hone
    have hheard : s.hearStamp p edge (t + BitVec.ofNat 32 0) (s.program p).meter.members =
        s.hearStamp p edge t (s.program p).meter.members := by rw [BitVec.add_zero]
    rw [← hheard] at hone
    exact hone
  · unfold MemberMeter.measure
    rw [Biquad.run_eq]
    dsimp only
    rw [Biquad.run_eq]
    rfl

end Sys2Proof.Machine
end

section
/-! SUPPORT. Exact arithmetic at its ends (R51, R62, R63, R66, R119, R120, R153): the converter at unity, gains and fades,
the crossfade, and the ramp. -/

namespace Sys2Proof.Machine

/-! ### The converter at unity (R62, R63, R66, R67) -/

theorem clampInt_of_mem {lo hi x : Int} (hlo : lo ≤ x) (hhi : x ≤ hi) : clampInt lo hi x = x := by
  unfold clampInt
  rw [if_neg (Int.not_lt.mpr hlo), if_neg (Int.not_lt.mpr hhi)]

/-- A word's sample stands in the range of a sample (R62). -/
theorem State.satSample_readWord (s : State) (edge : Option Stamp) (l : Fin 32) (t : Stamp) :
    satSample (s.readWord edge l t).1 = (s.readWord edge l t).1 := by
  unfold State.readWord
  dsimp only
  split
  · rfl
  · split
    · split
      · next w _ =>
        have hlo : -8388608 ≤ w.sample.toInt := BitVec.le_toInt w.sample
        have hhi : w.sample.toInt < 8388608 := BitVec.toInt_lt
        exact clampInt_of_mem hlo (by omega)
      · rfl
    · rfl

theorem identityPhase_get (k : Fin 32) : identityPhase[k].toInt = if k = 15 then 4194304 else 0 := by
  revert k
  decide

/-- Between two phases of the identity bank lies the identity phase (R63, R67). -/
theorem coefficient_identity (i : Fin 64) (u : Nat) (k : Fin 32) :
    Bank.coefficient (Vector.replicate 65 identityPhase) i u k = if k = 15 then 4194304 else 0 := by
  unfold Bank.coefficient
  dsimp only
  rw [Vector.getElem_replicate, Vector.getElem_replicate, identityPhase_get, Int.sub_self, Int.zero_mul, Int.zero_ediv,
    Int.add_zero]

/-- The identity bank's sum is the word at floor(P), scaled (R63, R67). -/
theorem State.tapSum_identity {s : State} {p : Fin 16} (edge : Option Stamp) (l : Fin 32) (P : ReadPos)
    (h : s.tables.banks[(s.entry p).bank] = Vector.replicate 65 identityPhase) :
    s.tapSum p edge l P = 4194304 * (s.readWord edge l P.stamp).1 := by
  have hstamp : P.stamp - 15 + BitVec.ofNat 32 (15 : Fin 32).val = P.stamp := BitVec.sub_add_cancel _ _
  unfold State.tapSum
  dsimp only
  rw [h, ← Fin.sum_univ_def]
  simp only [coefficient_identity, ite_mul, zero_mul, Finset.sum_ite_eq', Finset.mem_univ, if_true, hstamp]

theorem State.convert_unity {s : State} {p : Fin 16} (edge : Option Stamp) (P : ReadPos) (l : Fin 32)
    (h : (s.entry p).houseLocked = true ∨ s.tables.banks[(s.entry p).bank] = Vector.replicate 65 identityPhase) :
    (s.convert p edge P l).value = (s.readWord edge l P.stamp).1 ∧ (s.convert p edge P l).clipped = false := by
  have hy : (if (s.entry p).houseLocked = true then (s.readWord edge l P.stamp).1
      else roundShift (s.tapSum p edge l P) 22) = (s.readWord edge l P.stamp).1 := by
    by_cases hlocked : (s.entry p).houseLocked = true
    · exact if_pos hlocked
    · rw [if_neg hlocked, State.tapSum_identity edge l P (h.resolve_left hlocked)]
      unfold roundShift
      omega
  unfold State.convert
  dsimp only
  rw [hy, s.satSample_readWord edge l P.stamp]
  exact ⟨rfl, bne_self_eq_false _⟩

/-! ### Gain, fade and crossfade at their ends (R51, R120, R153) -/

theorem gainedSample_unity (y : Int) : gainedSample y 1048576 = y := by
  unfold gainedSample roundShift
  omega

theorem fadedSample_open (y : Int) : fadedSample y 480 = y := Int.mul_tdiv_cancel y (by decide)

theorem fadedSample_silent (y : Int) : fadedSample y 0 = 0 := by
  unfold fadedSample
  rw [Int.natCast_zero, Int.mul_zero, Int.zero_tdiv]

theorem mixSample_primary (a b : Int × Bool) : mixSample a b 0 = a := by
  have hvalue : (a.1 * (960 - (0 : Nat)) + b.1 * (0 : Nat)).tdiv 960 = a.1 := by
    rw [Int.natCast_zero, Int.sub_zero, Int.mul_zero, Int.add_zero]
    exact Int.mul_tdiv_cancel a.1 (by decide)
  unfold mixSample
  rw [hvalue]
  simp

theorem mixSample_alternate (a b : Int × Bool) : mixSample a b 960 = b := by
  have hvalue : (a.1 * (960 - (960 : Nat)) + b.1 * (960 : Nat)).tdiv 960 = b.1 := by
    rw [show (960 : Int) - (960 : Nat) = 0 from rfl, Int.mul_zero, Int.zero_add]
    exact Int.mul_tdiv_cancel b.1 (by decide)
  unfold mixSample
  rw [hvalue]
  simp

/-! ### The ramp (R119) -/

/-- A ramp so many steps in. -/
def Gain.ramped (g : Gain) (value : Int) (j : Nat) : Gain :=
  { g.startRamp value with
    rampStep := j
    linear := if j = 0 then g.linear else g.linear + ((linearGain value - g.linear) * j).tdiv 480 }

theorem Gain.repeat_stepRamp (g : Gain) (value : Int) {n : Nat} (h : n ≤ 480) :
    Nat.repeat Gain.stepRamp n (g.startRamp value) = g.ramped value n := by
  induction n with
  | zero => rfl
  | succ n ih =>
    rw [Nat.repeat, ih (Nat.le_of_succ_le h), Gain.stepRamp, if_pos (show (g.ramped value n).rampStep < 480 from h)]
    unfold Gain.ramped
    rw [if_neg (Nat.succ_ne_zero n)]
    rfl

/-- A ramp of 480 steps ends at its gain (R119). -/
theorem Gain.ramped_end (g : Gain) (value : Int) : (g.ramped value 480).linear = linearGain value := by
  have hend : ((linearGain value - g.linear) * (480 : Nat)).tdiv 480 = linearGain value - g.linear :=
    Int.mul_tdiv_cancel _ (by decide)
  unfold Gain.ramped
  dsimp only
  rw [if_neg (by decide), hend]
  exact add_sub_cancel _ _

end Sys2Proof.Machine
end

section
/-! SUPPORT. The exact logarithms (R98, R100, R119): a search by halving finds the last value its test accepts, and each test is
a comparison of powers. -/

namespace Sys2Proof.Machine

/-! ### The search by halving -/

/-- The test holds up to some point above the base, and fails beyond it. -/
def FailsBeyond (test : Int → Bool) (base : Int) : Prop :=
  ∀ m n, base < m → m ≤ n → test n = true → test m = true

theorem searchUp_range (test : Int → Bool) (bits : Nat) (base : Int) :
    base ≤ searchUp test bits base ∧ searchUp test bits base < base + 2 ^ bits := by
  induction bits generalizing base with
  | zero => exact ⟨le_rfl, Int.lt_add_one_iff.mpr le_rfl⟩
  | succ bits ih =>
    have hpos : (0 : Int) < 2 ^ bits := by positivity
    have hdouble : (2 : Int) ^ (bits + 1) = 2 ^ bits + 2 ^ bits := by ring
    unfold searchUp
    dsimp only
    split
    · have := ih (base + 2 ^ bits)
      omega
    · have := ih base
      omega

/-- The search ends at a value the test accepts, or at its base. -/
theorem searchUp_accepts (test : Int → Bool) (bits : Nat) (base : Int) :
    searchUp test bits base = base ∨ test (searchUp test bits base) = true := by
  induction bits generalizing base with
  | zero => exact .inl rfl
  | succ bits ih =>
    unfold searchUp
    dsimp only
    split
    · next h =>
      rcases ih (base + 2 ^ bits) with heq | htest
      · rw [heq]
        exact .inr h
      · exact .inr htest
    · exact ih base

/-- And the test fails at every value beyond it within reach. -/
theorem searchUp_rejects {test : Int → Bool} {bits : Nat} {base n : Int} (h : FailsBeyond test base)
    (hlt : searchUp test bits base < n) (hn : n < base + 2 ^ bits) : test n = false := by
  induction bits generalizing base with
  | zero =>
    have : base < n := hlt
    have : n < base + 1 := hn
    omega
  | succ bits ih =>
    have hpos : (0 : Int) < 2 ^ bits := by positivity
    have hdouble : (2 : Int) ^ (bits + 1) = 2 ^ bits + 2 ^ bits := by ring
    unfold searchUp at hlt
    dsimp only at hlt
    split at hlt
    · exact ih (fun m k hm => h m k (by omega)) hlt (by omega)
    · next hfails =>
      by_cases hreach : n < base + 2 ^ bits
      · exact ih h hlt hreach
      · exact eq_false_of_ne_true fun htest => hfails (h _ n (by omega) (by omega) htest)

/-- A search whose test is a bound within reach ends at the bound. -/
theorem searchUp_eq {test : Int → Bool} {bits : Nat} {base b : Int} (h : ∀ n, base < n → (test n = true ↔ n ≤ b))
    (hlo : base ≤ b) (hhi : b < base + 2 ^ bits) : searchUp test bits base = b := by
  have hfails : FailsBeyond test base := fun m n hm hmn hn => (h m hm).mpr (hmn.trans ((h n (by omega)).mp hn))
  have hrange := searchUp_range test bits base
  have hle : searchUp test bits base ≤ b := by
    rcases searchUp_accepts test bits base with heq | htest
    · rw [heq]
      exact hlo
    · by_cases hbase : searchUp test bits base = base
      · rw [hbase]
        exact hlo
      · exact (h _ (by omega)).mp htest
  by_contra hne
  have hlt : searchUp test bits base < b := by omega
  have hrejects := searchUp_rejects hfails hlt hhi
  rw [(h b (by omega)).mpr le_rfl] at hrejects
  cases hrejects

/-! ### Comparisons of powers -/

theorem powTenLe_iff (a : Nat) (e : Int) (b : Nat) : powTenLe a e b = true ↔ (a : ℚ) * 10 ^ e ≤ b := by
  unfold powTenLe
  split
  · next h =>
    obtain ⟨k, rfl⟩ := Int.eq_ofNat_of_zero_le h
    rw [decide_eq_true_iff, Int.toNat_natCast, zpow_natCast]
    exact_mod_cast Iff.rfl
  · next h =>
    obtain ⟨k, hk⟩ := Int.eq_ofNat_of_zero_le (show 0 ≤ -e by omega)
    have hpos : (0 : ℚ) < 10 ^ k := by positivity
    have he : e = -(k : Int) := by omega
    rw [decide_eq_true_iff, he, neg_neg, Int.toNat_natCast, zpow_neg, zpow_natCast, ← div_eq_mul_inv, div_le_iff₀ hpos]
    exact_mod_cast Iff.rfl

/-! ### A loudness (R98) -/

section Loudness
variable {num den : Nat}

theorem loudnessAtLeast_iff (hden : 0 < den) (n : Int) :
    loudnessAtLeast num den n = true ↔ (10 : ℚ) ^ (5 * n + 343) ≤ ((num : ℚ) / den) ^ 5000 := by
  have hpos : (0 : ℚ) < (den : ℚ) ^ 5000 := pow_pos (Nat.cast_pos.mpr hden) _
  unfold loudnessAtLeast
  rw [powTenLe_iff, Nat.cast_pow, Nat.cast_pow, div_pow, le_div_iff₀ hpos, mul_comm]

theorem loudness_failsBeyond (hden : 0 < den) (base : Int) :
    FailsBeyond (fun n => decide (n ≤ maxLoudness) && loudnessAtLeast num den n) base := by
  intro m n _ hmn h
  rw [Bool.and_eq_true, decide_eq_true_iff, loudnessAtLeast_iff hden] at h ⊢
  obtain ⟨hmax, hpow⟩ := h
  exact ⟨hmn.trans hmax, (zpow_le_zpow_right₀ (by norm_num) (by omega)).trans hpow⟩

/-- The value of an energy is the largest of −7,000 to +3,543 that it reaches (R98). -/
theorem loudness_bounds (hden : 0 < den) : (num = 0 → loudness num den = -7000) ∧ -7000 ≤ loudness num den ∧
    loudness num den ≤ 3543 ∧
    (-7000 < loudness num den → (10 : ℚ) ^ (5 * loudness num den + 343) ≤ ((num : ℚ) / den) ^ 5000) ∧
    (num ≠ 0 → loudness num den < 3543 →
      ((num : ℚ) / den) ^ 5000 < (10 : ℚ) ^ (5 * (loudness num den + 1) + 343)) := by
  by_cases hnum : num = 0
  · have hvalue : loudness num den = -7000 := if_pos hnum
    rw [hvalue]
    exact ⟨fun _ => rfl, le_rfl, by decide, fun h => absurd h (lt_irrefl _), fun h => absurd hnum h⟩
  · have hvalue : loudness num den =
        searchUp (fun n => decide (n ≤ maxLoudness) && loudnessAtLeast num den n) 14 (-7000) := if_neg hnum
    have hrange := searchUp_range (fun n => decide (n ≤ maxLoudness) && loudnessAtLeast num den n) 14 (-7000)
    have haccepts := searchUp_accepts (fun n => decide (n ≤ maxLoudness) && loudnessAtLeast num den n) 14 (-7000)
    have hrejects := fun n => searchUp_rejects (n := n) (bits := 14) (loudness_failsBeyond (num := num) hden (-7000))
    rw [← hvalue] at hrange haccepts hrejects
    generalize loudness num den = v at hrange haccepts hrejects ⊢
    have htest : -7000 < v → v ≤ 3543 ∧ (10 : ℚ) ^ (5 * v + 343) ≤ ((num : ℚ) / den) ^ 5000 := fun hv => by
      have := haccepts.resolve_left hv.ne'
      rwa [Bool.and_eq_true, decide_eq_true_iff, loudnessAtLeast_iff hden] at this
    have hmax : v ≤ 3543 := by
      by_cases hv : -7000 < v
      · exact (htest hv).1
      · omega
    refine ⟨fun h => absurd h hnum, hrange.1, hmax, fun hv => (htest hv).2, fun _ hv => ?_⟩
    have hnext := hrejects (v + 1) (lt_add_one v) (by norm_num; omega)
    have hle : decide (v + 1 ≤ maxLoudness) = true := decide_eq_true (show v + 1 ≤ 3543 by omega)
    rw [hle, Bool.true_and] at hnext
    exact lt_of_not_ge fun h => by
      rw [(loudnessAtLeast_iff hden _).mpr h] at hnext
      cases hnext

end Loudness

/-! ### A linear gain (R119) -/

/-- The comparison of R119 for a root of any degree: 2n − 1 is at most the N-th root of b · 10^g. -/
def gainTest (N b : Nat) (g n : Int) : Bool := decide (0 < n) && powTenLe ((2 * n - 1).toNat ^ N) (-g) b

section LinearGain
variable {N b : Nat} {g m n : Int}

theorem gainTest_iff (hn : 0 < n) : gainTest N b g n = true ↔ ((2 * n - 1 : Int) : ℚ) ^ N ≤ b * 10 ^ g := by
  obtain ⟨k, hk⟩ := Int.eq_ofNat_of_zero_le (show 0 ≤ 2 * n - 1 by omega)
  have hpos : (0 : ℚ) < 10 ^ g := zpow_pos (by norm_num) g
  unfold gainTest
  rw [decide_eq_true hn, Bool.true_and, powTenLe_iff, hk, Int.toNat_natCast, zpow_neg, ← div_eq_mul_inv, div_le_iff₀ hpos,
    Nat.cast_pow, Int.cast_natCast]

theorem gainTest_failsBeyond : FailsBeyond (gainTest N b g) 0 := by
  intro m n hm hmn h
  have hzero : (0 : ℚ) ≤ ((2 * m - 1 : Int) : ℚ) := Int.cast_nonneg (by omega)
  have hle : ((2 * m - 1 : Int) : ℚ) ≤ ((2 * n - 1 : Int) : ℚ) := Int.cast_le.mpr (by omega)
  exact (gainTest_iff hm).mpr ((pow_le_pow_left₀ hzero hle N).trans ((gainTest_iff (hm.trans_le hmn)).mp h))

/-- The search ends at the root rounded to nearest, for a root of at least 1 and below the search's reach. -/
theorem searchUp_gainTest (hone : (1 : ℚ) ≤ b * 10 ^ g)
    (htop : (b : ℚ) * 10 ^ g < ((2 * 16777216 - 1 : Int) : ℚ) ^ N) {v : Int} (hv : v = searchUp (gainTest N b g) 24 0) :
    ((2 * v - 1 : Int) : ℚ) ^ N ≤ b * 10 ^ g ∧ (b : ℚ) * 10 ^ g < ((2 * v + 1 : Int) : ℚ) ^ N := by
  have hrange := searchUp_range (gainTest N b g) 24 0
  have haccepts := searchUp_accepts (gainTest N b g) 24 0
  have hrejects := fun n => searchUp_rejects (n := n) (bits := 24) (gainTest_failsBeyond (N := N) (b := b) (g := g))
  have htest1 : gainTest N b g 1 = true := by
    rw [gainTest_iff one_pos, show (2 * 1 - 1 : Int) = 1 from rfl, Int.cast_one, one_pow]
    exact hone
  rw [← hv] at hrange haccepts hrejects
  have hpos : 0 < v := by
    rcases hrange.1.lt_or_eq with hlt | heq
    · exact hlt
    · have hfails := hrejects 1 (by omega) (by norm_num)
      rw [htest1] at hfails
      cases hfails
  have hnext : ((2 * v + 1 : Int) : ℚ) = ((2 * (v + 1) - 1 : Int) : ℚ) := by
    congr 1
    omega
  refine ⟨(gainTest_iff hpos).mp (haccepts.resolve_left hpos.ne'), ?_⟩
  rw [hnext]
  by_cases hreach : v + 1 < 0 + 2 ^ 24
  · exact lt_of_not_ge fun h => by
      have hfails := hrejects (v + 1) (lt_add_one v) hreach
      rw [(gainTest_iff (by omega)).mpr h] at hfails
      cases hfails
  · have hlast : v + 1 = 16777216 := by
      norm_num at hreach hrange
      omega
    rw [hlast]
    exact htop

/-- The root of R119 is at least 1 in the range of a gain. -/
theorem gain_ge_one (hlo : -3000 ≤ g) : (1 : ℚ) ≤ 2 ^ (14 * 3000) * 10 ^ g := by
  have hten : (10 : ℚ) ^ (-3000 : Int) ≤ 10 ^ g := zpow_le_zpow_right₀ (by norm_num) hlo
  have hpow : (2 : ℚ) ^ (14 * 3000) * 10 ^ (-3000 : Int) = (2 ^ 14 / 10) ^ 3000 := by
    rw [div_pow, ← pow_mul, zpow_neg, ← div_eq_mul_inv, zpow_ofNat]
  calc (1 : ℚ) ≤ (2 ^ 14 / 10) ^ 3000 := one_le_pow₀ (by norm_num)
    _ = 2 ^ (14 * 3000) * 10 ^ (-3000 : Int) := hpow.symm
    _ ≤ 2 ^ (14 * 3000) * 10 ^ g := mul_le_mul_of_nonneg_left hten (pow_nonneg (by norm_num) _)

/-- And below 2^25 − 1. -/
theorem gain_lt_top (hhi : g ≤ 2000) : (2 : ℚ) ^ (21 * 2000) * 10 ^ g < ((2 * 16777216 - 1 : Int) : ℚ) ^ 2000 := by
  have hten : (10 : ℚ) ^ g ≤ 10 ^ (2000 : Int) := zpow_le_zpow_right₀ (by norm_num) hhi
  have hpow : (2 : ℚ) ^ (21 * 2000) * 10 ^ (2000 : Int) = (2 ^ 21 * 10) ^ 2000 := by
    rw [mul_pow, ← pow_mul, zpow_ofNat]
  calc (2 : ℚ) ^ (21 * 2000) * 10 ^ g ≤ 2 ^ (21 * 2000) * 10 ^ (2000 : Int) :=
        mul_le_mul_of_nonneg_left hten (pow_nonneg (by norm_num) _)
    _ = (2 ^ 21 * 10) ^ 2000 := hpow
    _ < ((2 * 16777216 - 1 : Int) : ℚ) ^ 2000 := pow_lt_pow_left₀ (by norm_num) (by norm_num) (by decide)

theorem cast_two_pow (k : Nat) : ((2 ^ k : Nat) : ℚ) = 2 ^ k := by
  rw [Nat.cast_pow, Nat.cast_ofNat]

theorem linearGain_eq (g : Int) : linearGain g = searchUp (gainTest 2000 (2 ^ 42000) g) 24 0 := by
  unfold linearGain
  rfl

/-- The linear gain of a value is 2^20 · 10^(g/2000) rounded to nearest, ties upward (R119). -/
theorem linearGain_bounds (hlo : -3000 ≤ g) (hhi : g ≤ 2000) :
    ((2 * linearGain g - 1 : Int) : ℚ) ^ 2000 ≤ 2 ^ 42000 * 10 ^ g ∧
      2 ^ 42000 * 10 ^ g < ((2 * linearGain g + 1 : Int) : ℚ) ^ 2000 := by
  have hcast := cast_two_pow 42000
  have hone := gain_ge_one hlo
  have htop := gain_lt_top hhi
  rw [show 14 * 3000 = 42000 from rfl, ← hcast] at hone
  rw [show 21 * 2000 = 42000 from rfl, ← hcast] at htop
  rw [← hcast]
  exact searchUp_gainTest hone htop (linearGain_eq g)

end LinearGain

/-! ### Blocks of one bin (R100) -/

section OneBin
variable {i count : Nat}

theorem wholeSum_one : 10 ^ (25 * (i % 40)) * wholeSum [(i, count)] ^ 1000 = 10 ^ (25 * i) * count ^ 1000 := by
  have hsplit : 25 * (i % 40) + i / 40 * 1000 = 25 * i := by omega
  have hwhole : wholeSum [(i, count)] = count * 10 ^ (i / 40) := by
    unfold wholeSum
    rw [List.map_singleton, List.sum_singleton]
  rw [hwhole, mul_pow, ← pow_mul, ← hsplit, pow_add, Nat.mul_assoc, Nat.mul_comm (count ^ 1000)]

/-- Blocks that all lie in one bin reach every value up to its centre (R100). -/
theorem meanAtLeast_one (hcount : 0 < count) (n : Int) : meanAtLeast [(i, count)] n = true ↔ n ≤ -6987 + 25 * i := by
  unfold meanAtLeast
  split
  · exact ⟨fun _ => by omega, fun _ => rfl⟩
  · have hresidue : oneResidue [(i, count)] = true := by simp [oneResidue]
    have hblocks : blockCount [(i, count)] = count := by simp [blockCount]
    rw [if_pos hresidue]
    unfold oneResidueAtLeast
    rw [decide_eq_true_iff, hblocks, List.map_cons, List.headD_cons, wholeSum_one, Nat.mul_le_mul_right_iff (Nat.pow_pos hcount), Nat.pow_le_pow_iff_right (by decide)]
    omega

theorem meanValue_one (hcount : 0 < count) (hi : i < 300) : meanValue [(i, count)] = -6987 + 25 * i := by
  have htest : ∀ n : Int, -7000 < n →
      ((decide (n ≤ maxLoudness) && meanAtLeast [(i, count)] n) = true ↔ n ≤ -6987 + 25 * i) := fun n _ => by
    rw [Bool.and_eq_true, decide_eq_true_iff, meanAtLeast_one hcount]
    exact ⟨fun h => h.2, fun h => ⟨h.trans (show (-6987 : Int) + 25 * i ≤ 3543 by omega), h⟩⟩
  unfold meanValue
  exact searchUp_eq htest (by omega) (by norm_num; omega)

/-- The integrated value of blocks of one bin is the bin's centre, unless its absolute gate shuts it out (R100). -/
theorem integratedValue_one (hcount : 0 < count) (hi : i < 300) (absGate relGate : Int) (hrel : relGate ≤ -500) :
    integratedValue [(i, count)] absGate relGate =
      if absGate ≤ -7000 + 25 * i then -6987 + 25 * (i : Int) else -7000 := by
  have hedge : binEdge i = -7000 + 25 * i := rfl
  have hmean := meanValue_one hcount hi
  unfold integratedValue
  dsimp only
  by_cases hgate : absGate ≤ -7000 + 25 * i
  · have hloud : -6987 + 25 * (i : Int) + relGate ≤ -7000 + 25 * i := by omega
    rw [if_pos hgate]
    simp only [List.filter_singleton, hedge, decide_eq_true hgate, decide_eq_true hcount, Bool.and_true, cond_true,
      List.isEmpty_cons, Bool.false_eq_true, if_false, hmean, decide_eq_true hloud]
  · rw [if_neg hgate]
    simp only [List.filter_singleton, hedge, decide_eq_false hgate, Bool.false_and, cond_false, List.isEmpty_nil, if_true]

end OneBin

end Sys2Proof.Machine
end

section
/-! SUPPORT. What a segment end makes of the meter (R95 to R102): its energies and values, the block it enters, and the cues
behind the boundary. -/

namespace Sys2Proof.Machine

/-! ### The histogram (R99) -/

/-- The occupied bins of a histogram. -/
def histogramBins (h : Vector Nat 300) : List (Nat × Nat) :=
  ((List.finRange 300).map fun i => (i.val, h[i])).filter fun b => b.2 != 0

theorem Vector.map_finRange {n : Nat} (h : Vector Nat n) : ((List.finRange n).map fun i => h[i]) = h.toList := by
  refine List.ext_getElem (by simp) fun k hk hk' => by simp

theorem sum_filter_nonzero (bs : List (Nat × Nat)) : ((bs.filter fun b => b.2 != 0).map (·.2)).sum = (bs.map (·.2)).sum := by
  induction bs with
  | nil => rfl
  | cons b bs ih =>
    by_cases hb : b.2 = 0
    · rw [List.filter_cons_of_neg (by simp [hb]), ih, List.map_cons, List.sum_cons, hb, Nat.zero_add]
    · rw [List.filter_cons_of_pos (by simp [hb]), List.map_cons, List.map_cons, List.sum_cons, List.sum_cons, ih]

/-- The blocks of a histogram are what its bins count (R102). -/
theorem Meter.blocks_eq (m : Meter) : m.blocks = m.histogram.toList.sum := by
  unfold Meter.blocks blockCount Meter.bins
  rw [sum_filter_nonzero, List.map_map, ← Vector.map_finRange]
  rfl

/-- The block of a segment end enters the histogram: in OPEN, complete, of an energy above 0 whose unraised value is at least
−7,000, and not below the absolute gate (R99). -/
def Meter.enters (m : Meter) (unit : Nat) (absGate : Int) : Prop :=
  let block := m.history.drop (m.history.length - 4)
  m.integration = .opened ∧ block.length = 4 ∧ block.sum ≠ 0 ∧
    (10 : ℚ) ^ (-34657 : Int) ≤ ((block.sum : ℚ) / (4 * unit : Nat)) ^ 5000 ∧ absGate ≤ m.momentary

section EnterBlock
variable {m : Meter} {unit : Nat} {absGate : Int}

theorem Meter.enterBlock_frame : m.enterBlock unit absGate = { m with histogram := (m.enterBlock unit absGate).histogram } := by
  unfold Meter.enterBlock
  dsimp only
  split <;> rfl

theorem histogramBin_val (value : Int) : (histogramBin value).val = min ((value + 7000) / 25).toNat 299 := by
  unfold histogramBin
  dsimp only
  split
  · dsimp only
    omega
  · change 299 = _
    omega

theorem Meter.enters_iff (hunit : 0 < unit) : m.enters unit absGate ↔
    (m.integration == .opened && (m.history.drop (m.history.length - 4)).length == 4 &&
      (m.history.drop (m.history.length - 4)).sum != 0 &&
      loudnessAtLeast (m.history.drop (m.history.length - 4)).sum (4 * unit) (-7000) &&
      decide (absGate ≤ m.momentary)) = true := by
  have hden : 0 < 4 * unit := Nat.mul_pos (by decide) hunit
  unfold Meter.enters
  rw [Bool.and_eq_true, Bool.and_eq_true, Bool.and_eq_true, Bool.and_eq_true, beq_iff_eq, beq_iff_eq, bne_iff_ne,
    decide_eq_true_iff, loudnessAtLeast_iff hden, and_assoc, and_assoc, and_assoc]
  rfl

theorem Meter.enterBlock_not (hunit : 0 < unit) (h : ¬ m.enters unit absGate) :
    (m.enterBlock unit absGate).histogram = m.histogram := by
  unfold Meter.enterBlock
  dsimp only
  rw [if_neg (mt (Meter.enters_iff hunit).mpr h)]

theorem Meter.enterBlock_bin (hunit : 0 < unit) (h : m.enters unit absGate) (i : Fin 300) :
    (m.enterBlock unit absGate).histogram[i] = if i.val = min ((m.momentary + 7000) / 25).toNat 299 then
      min (m.histogram[i] + 1) 4294967295 else m.histogram[i] := by
  unfold Meter.enterBlock
  dsimp only
  rw [if_pos ((Meter.enters_iff hunit).mp h), ← histogramBin_val]
  by_cases hij : i = histogramBin m.momentary
  · subst hij
    rw [if_pos rfl]
    exact Vector.getElem_set_self _
  · have hne : i.val ≠ (histogramBin m.momentary).val := fun heq => hij (Fin.ext heq)
    rw [if_neg hne]
    exact Vector.getElem_set_ne (histogramBin m.momentary).isLt i.isLt (Ne.symm hne)

end EnterBlock

/-! ### The values of a segment end (R96 to R98) -/

/-- The meter with its segment's energy in the history and these values formed, before the block is entered. -/
def Meter.valued (m : Meter) (cls : RateClass) (history : List Nat) (momentary short : Int) : Meter :=
  { m with
    segments := nextSegmentCount m.segments m.boundary
    boundary := m.boundary + BitVec.ofNat 32 cls.segment
    history := history
    members := m.members.map fun (x : MemberMeter) => { x with sum := 0 }
    momentary := momentary
    shortTerm := short }

theorem meanLoudness_all {unit n : Nat} {history : List Nat} (h : history.length ≤ n) :
    meanLoudness unit n history = loudness history.sum (history.length * unit) := by
  unfold meanLoudness
  rw [Nat.sub_eq_zero_of_le h, List.drop_zero]

theorem Meter.closeSegment_eq (m : Meter) (cls : RateClass) (weights : List Nat) (f : Profile) {history : List Nat}
    {momentary short : Int} {h : Vector Nat 300} (hhistory : history = pushEnergy m.history (segmentEnergy weights m.members))
    (hmomentary : momentary = meanLoudness (energyUnit cls) 4 history)
    (hshort : short = loudness history.sum (history.length * energyUnit cls))
    (hh : h = ((m.valued cls history momentary short).enterBlock (energyUnit cls) f.absGate).histogram) :
    m.closeSegment cls weights f = { m.valued cls history momentary short with
      histogram := h, integrated := integratedValue (histogramBins h) f.absGate f.relGate } := by
  have hlast := meanLoudness_all (unit := energyUnit cls) (pushEnergy_length m.history (segmentEnergy weights m.members))
  have hframe := Meter.enterBlock_frame (m := m.valued cls history momentary short) (unit := energyUnit cls) (absGate := f.absGate)
  have hclose : m.closeSegment cls weights f =
      { (m.valued cls history momentary short).enterBlock (energyUnit cls) f.absGate with
        integrated := integratedValue ((m.valued cls history momentary short).enterBlock (energyUnit cls) f.absGate).bins
          f.absGate f.relGate } := by
    unfold Meter.closeSegment Meter.valued
    dsimp only
    rw [hlast, hmomentary, hshort, hhistory]
  rw [hclose, hframe, ← hh]
  rfl

/-! ### The cues behind the boundary (R101, R102, R104) -/

/-- What the segment cues move: histogram, integration state, record and the values handed to the SEGMENT rules. -/
abbrev CueRun := Vector Nat 300 × Integration × Option SegmentRecord × List CloseReport

/-- One segment cue (R102). -/
def cueStep (integrated : Int) (segments : BitVec 32) (target : Int) (r : CueRun) (c : Stamp × CueType) : CueRun :=
  match c.2, r.2.1 with
  | .segmentStart, _ => (Vector.replicate 300 0, .opened, r.2.2)
  | .segmentEnd, .opened => (r.1, .closed,
      some ⟨integrated, c.1, blockTotal r.1.toList.sum, segments⟩, r.2.2.2 ++ [⟨integrated, target⟩])
  | _, _ => r

/-- The meter with what the cues move. -/
def Meter.withRun (m : Meter) (r : CueRun) : Meter :=
  { m with histogram := r.1, integration := r.2.1, record := r.2.2.1 }

theorem Meter.applyCue_eq (m : Meter) (target : Int) (closes : List CloseReport) (c : Stamp × CueType) {r : CueRun}
    (hr : r = cueStep m.integrated m.segments target (m.histogram, m.integration, m.record, closes) c) :
    (m.applyCue c).1 = m.withRun r ∧ closes ++ (m.applyCue c).2.map (fun v => ⟨v, target⟩) = r.2.2.2 := by
  obtain ⟨t, kind⟩ := c
  unfold Meter.applyCue
  unfold cueStep at hr
  dsimp only at hr ⊢
  cases kind with
  | segmentStart => exact ⟨by rw [hr]; rfl, by rw [hr]; exact List.append_nil _⟩
  | segmentEnd =>
    cases hint : m.integration with
    | opened =>
      rw [hint] at hr
      rw [hr, Meter.blocks_eq]
      exact ⟨rfl, rfl⟩
    | closed =>
      have hsame : m = m.withRun (m.histogram, .closed, m.record, closes) := by
        rw [← hint]
        rfl
      rw [hint] at hr
      rw [hr]
      exact ⟨hsame, List.append_nil _⟩
  | userMark => exact ⟨by rw [hr]; rfl, by rw [hr]; exact List.append_nil _⟩

/-- The cues one after another. -/
theorem Meter.applyCues_eq (cs : List (Stamp × CueType)) (target : Int) (m : Meter) (closes : List CloseReport) {r : CueRun}
    (hr : r = cs.foldl (cueStep m.integrated m.segments target) (m.histogram, m.integration, m.record, closes)) :
    (m.applyCues cs).1 = m.withRun r ∧ closes ++ (m.applyCues cs).2.map (fun v => ⟨v, target⟩) = r.2.2.2 := by
  induction cs generalizing m closes with
  | nil =>
    rw [hr]
    exact ⟨rfl, List.append_nil _⟩
  | cons c cs ih =>
    obtain ⟨hmeter, hcloses⟩ := m.applyCue_eq target closes c rfl
    rw [List.foldl_cons] at hr
    generalize cueStep m.integrated m.segments target (m.histogram, m.integration, m.record, closes) c = q at hmeter hcloses hr
    obtain ⟨hrest, hmore⟩ := ih (m.withRun q) q.2.2.2 hr
    unfold Meter.applyCues
    dsimp only
    rw [hmeter]
    refine ⟨hrest, ?_⟩
    rw [List.map_append, ← List.append_assoc, hcloses, hmore]

end Sys2Proof.Machine
end

section
/-! SUPPORT. The gain decision of a segment end (R112 to R116) and its meter report (R105, R106). -/

namespace Sys2Proof.Machine

/-! ### A GAIN entry offered (R112 to R116) -/

theorem mergeNewestGain_none {value : Int} {es : List Entry} (h : ∀ y ∈ es, y.code ≠ 0) : mergeNewestGain value es = none := by
  induction es with
  | nil => rfl
  | cons e es ih =>
    unfold mergeNewestGain
    rw [ih fun y hy => h y (List.mem_cons_of_mem e hy)]
    cases e with
    | gain t v => exact absurd rfl (h _ List.mem_cons_self)
    | cue t kind mark => rfl

/-- The newest GAIN entry is the last of the schedule (R116). -/
theorem mergeNewestGain_last (value : Int) (before : List Entry) (t : Stamp) (v : Int) {after : List Entry}
    (h : ∀ y ∈ after, y.code ≠ 0) :
    mergeNewestGain value (before ++ .gain t v :: after) = some (before ++ .gain t value :: after) := by
  induction before with
  | nil =>
    rw [List.nil_append]
    unfold mergeNewestGain
    rw [mergeNewestGain_none h]
    rfl
  | cons e before ih =>
    rw [List.cons_append]
    unfold mergeNewestGain
    rw [ih]
    rfl

/-- What becomes of a gain block that is offered a GAIN entry, and whether the schedule takes it (R112, R114, R116). -/
def Gain.offered (g : Gain) (reached : Bool) (t : Stamp) (value : Int) : Bool × Gain :=
  if reached then (true, g.startRamp value)
  else if g.schedule.length < 128 then (true, { g with schedule := insertEntry (.gain t value) g.schedule })
  else
    match mergeNewestGain value g.schedule with
    | some merged => (true, { g with schedule := merged, coalesces := satAdd g.coalesces 1 })
    | none => (false, { g with gainDrops := satAdd g.gainDrops 1 })

/-- A gain block that has taken its decision: the entry offered, and the gain scheduled with it (R112). -/
def Gain.decided (g : Gain) (reached : Bool) (t : Stamp) (value : Int) : Gain :=
  if (g.offered reached t value).1 then { (g.offered reached t value).2 with scheduled := value, reissue := false }
  else (g.offered reached t value).2

section Decision
variable {s : State} {p : Fin 16} {g : Gain} {t boundary : Stamp} {value : Int}

theorem State.offer_gain : s.offer p (.gain t value) =
    (((s.program p).gain.offered (s.reached p t) t value).1,
      s.setProgram p { s.program p with gain := ((s.program p).gain.offered (s.reached p t) t value).2 }) := by
  unfold Gain.offered
  cases hreached : s.reached p t with
  | true =>
    rw [State.offer_of_reached (e := .gain t value) hreached]
    rfl
  | false =>
    rw [if_neg Bool.false_ne_true]
    rcases Nat.lt_or_ge (s.program p).gain.schedule.length 128 with hroom | hfull
    · rw [State.offer_of_room (e := .gain t value) hreached hroom, if_pos hroom]
    · rw [State.offer_of_full (e := .gain t value) hreached hfull, if_neg (Nat.not_lt.mpr hfull)]
      dsimp only
      cases mergeNewestGain value (s.program p).gain.schedule <;> rfl

/-- The Gain Law acts when the block is complete, the short-term value is at least the hold gate, FREEZE is not in force and
there is a gain to offer (R112). -/
def State.decides (s : State) (p : Fin 16) : Prop :=
  let x := s.program p
  let f := s.tables.profiles[(s.entry p).profile]
  let next := f.nextGain x.gain.scheduled x.meter.shortTerm
  4 ≤ x.meter.history.length ∧ f.holdGate ≤ x.meter.shortTerm ∧ x.holds.freeze = 0 ∧
    (next ≠ x.gain.scheduled ∨ x.gain.reissue = true)

/-- The gain block behind the gain decision of a segment end (R112). -/
def State.decidedGain (s : State) (p : Fin 16) (boundary : Stamp) : Gain :=
  let x := s.program p
  x.gain.decided (s.reached p boundary) boundary
    (s.tables.profiles[(s.entry p).profile].nextGain x.gain.scheduled x.meter.shortTerm)

theorem State.decideGain_of_decides (h : s.decides p) : s.decideGain p boundary =
    s.setProgram p { s.program p with gain := s.decidedGain p boundary } := by
  obtain ⟨hcomplete, hgate, hfreeze, hoffers⟩ := h
  have hacts : (decide (4 ≤ (s.program p).meter.history.length) &&
      decide (s.tables.profiles[(s.entry p).profile].holdGate ≤ (s.program p).meter.shortTerm) &&
      (s.program p).holds.freeze == 0) = true := by
    rw [decide_eq_true hcomplete, decide_eq_true hgate, hfreeze]
    rfl
  have hoffer : (s.tables.profiles[(s.entry p).profile].nextGain (s.program p).gain.scheduled (s.program p).meter.shortTerm !=
      (s.program p).gain.scheduled || (s.program p).gain.reissue) = true := by
    rwa [Bool.or_eq_true, bne_iff_ne]
  unfold State.decideGain
  dsimp only
  rw [if_pos hacts, if_pos hoffer, State.offer_gain]
  dsimp only
  unfold State.decidedGain Gain.decided
  dsimp only
  split
  · rw [State.program_setProgram_self]
    exact s.setProgram_setProgram p _ _
  · rfl

theorem State.decideGain_of_not (h : ¬ s.decides p) : s.decideGain p boundary = s := by
  unfold State.decideGain
  dsimp only
  split
  · next hacts =>
    rw [Bool.and_eq_true, Bool.and_eq_true, decide_eq_true_iff, decide_eq_true_iff, beq_iff_eq] at hacts
    obtain ⟨⟨hcomplete, hgate⟩, hfreeze⟩ := hacts
    refine if_neg fun hoffer => h ⟨hcomplete, hgate, hfreeze, ?_⟩
    rwa [Bool.or_eq_true, bne_iff_ne] at hoffer
  · rfl

/-- The decided gain by what becomes of its entry (R112 to R116, R119). -/
theorem Gain.decided_reached : g.decided true t value = { g with
    scheduled := value, reissue := false
    applied := value, rampStart := g.linear, rampEnd := linearGain value, rampStep := 0 } := rfl

theorem Gain.decided_room (h : g.schedule.length < 128) : g.decided false t value = { g with
    scheduled := value, reissue := false, schedule := insertEntry (.gain t value) g.schedule } := by
  unfold Gain.decided Gain.offered
  rw [if_neg Bool.false_ne_true, if_pos h]
  rfl

theorem Gain.decided_merged (h : 128 ≤ g.schedule.length) {merged : List Entry}
    (hm : mergeNewestGain value g.schedule = some merged) : g.decided false t value = { g with
      scheduled := value, reissue := false, schedule := merged, coalesces := min (g.coalesces + 1) 65535 } := by
  unfold Gain.decided Gain.offered
  rw [if_neg Bool.false_ne_true, if_neg (Nat.not_lt.mpr h), hm]
  rfl

theorem Gain.decided_dropped (h : 128 ≤ g.schedule.length) (hm : mergeNewestGain value g.schedule = none) :
    g.decided false t value = { g with gainDrops := min (g.gainDrops + 1) 65535 } := by
  unfold Gain.decided Gain.offered
  rw [if_neg Bool.false_ne_true, if_neg (Nat.not_lt.mpr h), hm]
  rfl

theorem Profile.nextGain_eq (f : Profile) (gs short : Int) (hboost : 0 ≤ f.maxBoost) (hcut : 0 ≤ f.maxCut) {desired : Int}
    (hdesired : desired = max (-f.maxCut) (min (f.target - short) f.maxBoost)) :
    f.nextGain gs short = max (-3000) (min (if desired < gs then max desired (gs - f.attack)
      else if gs < desired then min desired (gs + f.release) else gs) 2000) := by
  unfold Profile.nextGain
  dsimp only
  rw [clampInt_eq (show -f.maxCut ≤ f.maxBoost by omega), clampInt_eq (by decide), ← hdesired]

end Decision

/-! ### The meter report (R105, R106) -/

/-- The report count of a segment end, and the report of one that is due (R105). -/
theorem State.stepReport_eq (s : State) (p : Fin 16) {interval count : Nat} (hinterval : interval = (s.entry p).meterInterval)
    (hcount : count = (s.program p).meter.reportCount) : s.stepReport p = s.setProgram p { s.program p with
      meter := { (s.program p).meter with
        reportCount := if interval = 0 ∨ interval ≠ 0 ∧ interval ≤ count + 1 then 0 else count + 1
        report := if (interval ≠ 0 ∧ interval ≤ count + 1) ∧ s.tables.settings.node ≠ 0 then some (s.makeReport p)
          else (s.program p).meter.report } } := by
  unfold State.stepReport
  dsimp only
  rw [← hinterval, ← hcount]
  by_cases hzero : interval = 0
  · rw [if_pos hzero, if_pos (.inl hzero), if_neg (fun h => h.1.1 hzero)]
  · by_cases hshort : count + 1 < interval
    · rw [if_neg hzero, if_pos hshort, if_neg (fun h => h.elim hzero fun h => absurd h.2 (Nat.not_le.mpr hshort)),
        if_neg (fun h => absurd h.1.2 (Nat.not_le.mpr hshort))]
    · have hdue : interval ≠ 0 ∧ interval ≤ count + 1 := ⟨hzero, Nat.not_lt.mp hshort⟩
      rw [if_neg hzero, if_neg hshort, if_pos (Or.inr hdue : interval = 0 ∨ interval ≠ 0 ∧ interval ≤ count + 1)]
      by_cases hnode : s.tables.settings.node = 0
      · rw [if_pos hnode, if_neg (fun h => h.2 hnode)]
      · rw [if_neg hnode, if_pos ⟨hdue, hnode⟩]

end Sys2Proof.Machine
end

section
/-! SUPPORT. A segment end in its order (R95), put together from its steps. -/

namespace Sys2Proof.Machine

/-- The meter report of a program (R106). -/
def Program.report (z : Program) (node : BitVec 6) (p : Fin 16) : MeterReport :=
  { node := node
    program := p
    play := z.play.state
    integration := z.meter.integration
    segments := z.meter.segments
    momentary := z.meter.momentary
    shortTerm := z.meter.shortTerm
    integrated := match z.meter.integration, z.meter.record with
      | .closed, some r => r.value
      | _, _ => z.meter.integrated
    scheduled := z.gain.scheduled
    applied := z.gain.applied
    delay := z.servo.delay
    mode := z.servo.mode
    peaks := z.meter.members.map (·.peak) }

section EndSegment
variable {s : State} {p : Fin 16}

theorem State.makeReport_eq (s : State) (p : Fin 16) : s.makeReport p = (s.program p).report s.tables.settings.node p := by
  unfold State.makeReport Program.report
  rfl

/-- The part once the values of a segment end have been formed and reported (R95, R103). -/
def State.segmentClosed (s : State) (p : Fin 16) (m : Meter) (target : Int) : State :=
  s.setProgram p { s.program p with
    meter := m
    events := { (s.program p).events with levels := (s.program p).events.levels ++ [⟨m.momentary, m.shortTerm, target⟩] } }

/-- The cues of a meter that lie behind a boundary. -/
def Meter.dueAt (m : Meter) (boundary : Stamp) : List (Stamp × CueType) := m.cues.filter fun c => behind c.1 boundary

/-- The program once the cues have acted (R102, R104). -/
def Program.cued (x : Program) (boundary : Stamp) (r : CueRun) : Program :=
  { x with
    meter := { x.meter with cues := x.meter.cues.filter fun c => !behind c.1 boundary }.withRun r
    events := { x.events with closes := r.2.2.2 } }

/-- And once the report has been made and the peaks are 0 (R95, R105). -/
def Program.reported (x : Program) (node : BitVec 6) (p : Fin 16) (interval : Nat) : Program :=
  { x with meter := { x.meter with
    reportCount := if interval = 0 ∨ interval ≠ 0 ∧ interval ≤ x.meter.reportCount + 1 then 0 else x.meter.reportCount + 1
    report := if (interval ≠ 0 ∧ interval ≤ x.meter.reportCount + 1) ∧ node ≠ 0 then some (x.report node p) else x.meter.report
    members := x.meter.members.map fun (y : MemberMeter) => { y with peak := 0 } } }

/-- Steps 7 to 9: cues, report and peaks (R95). -/
theorem State.endSegment_steps {m : Meter} {f : Profile} {y : Program} {r : CueRun}
    (hf : f = s.tables.profiles[(s.entry p).profile])
    (hm : m = (s.program p).meter.closeSegment (s.classOf p) (s.entry p).weights.toList f)
    (hy : (s.segmentClosed p m f.target).decideGain p (s.program p).meter.boundary = s.setProgram p y)
    (hr : r = (y.meter.dueAt (s.program p).meter.boundary).foldl (cueStep y.meter.integrated y.meter.segments f.target)
      (y.meter.histogram, y.meter.integration, y.meter.record, y.events.closes)) :
    s.endSegment p = s.setProgram p
      ((y.cued (s.program p).meter.boundary r).reported s.tables.settings.node p (s.entry p).meterInterval) := by
  have hself : ∀ z, (s.setProgram p z).program p = z := fun z => s.program_setProgram_self p z
  have hset : ∀ z w, (s.setProgram p z).setProgram p w = s.setProgram p w := fun z w => s.setProgram_setProgram p z w
  obtain ⟨hcued, hcloses⟩ := Meter.applyCues_eq (y.meter.dueAt (s.program p).meter.boundary) f.target
    { y.meter with cues := y.meter.cues.filter fun c => !behind c.1 (s.program p).meter.boundary } y.events.closes hr
  have hreport := State.stepReport_eq (s.setProgram p (y.cued (s.program p).meter.boundary r)) p rfl rfl
  rw [hself, hset, State.makeReport_eq, hself] at hreport
  unfold State.segmentClosed at hy
  unfold State.endSegment
  dsimp only
  rw [← hf, ← hm, hy, hself]
  unfold Meter.dueAt at hcued hcloses
  rw [hcued, hcloses, hset]
  unfold Program.cued at hreport
  rw [hreport, hself, hset]
  rfl

end EndSegment

end Sys2Proof.Machine
end

section
/-! SUPPORT. The exact arithmetic of sound and measurement, and the segment end (R51, R62, R63, R95 to R106, R112, R116, R119). -/

namespace Sys2Proof.Machine

section SegmentEnd
variable {s : State} {p : Fin 16} {m : Meter} {f : Profile} {boundary : Stamp}

theorem State.reached_of_not_ahead {P : ReadPos} (hpos : (s.program p).conv.pos = some P) (h : ahead boundary P.stamp = false) :
    s.reached p boundary = true := by
  unfold State.reached
  rw [hpos, Option.any_some, h]
  rfl

theorem State.reached_of_ahead (h : ∀ P, (s.program p).conv.pos = some P → ahead boundary P.stamp = true) :
    s.reached p boundary = false := by
  unfold State.reached
  cases hpos : (s.program p).conv.pos with
  | none => rfl
  | some P => rw [Option.any_some, h P hpos, Bool.not_true]

/-- What becomes of the decided gain's entry: at once, stored, merged into the newest GAIN entry, or dropped
(R113, R114, R116). -/
theorem State.decided_cases {g taken : Gain} {next : Int} (htaken : taken = { g with scheduled := next, reissue := false }) :
    (∀ P, (s.program p).conv.pos = some P → ahead boundary P.stamp = false →
      g.decided (s.reached p boundary) boundary next = { taken with
        applied := next, rampStart := g.linear, rampEnd := linearGain next, rampStep := 0 }) ∧
    ((∀ P, (s.program p).conv.pos = some P → ahead boundary P.stamp = true) →
      (g.schedule.length < 128 → ∃ before after, g.schedule = before ++ after ∧
        (∀ y ∈ before, ahead y.stamp boundary = false) ∧ (∀ y ∈ after.head?, ahead y.stamp boundary = true) ∧
        g.decided (s.reached p boundary) boundary next =
          { taken with schedule := before ++ .gain boundary next :: after }) ∧
      (128 ≤ g.schedule.length →
        (∀ before t v after, g.schedule = before ++ .gain t v :: after → (∀ y ∈ after, y.code ≠ 0) →
          g.decided (s.reached p boundary) boundary next = { taken with
            schedule := before ++ .gain t next :: after, coalesces := min (g.coalesces + 1) 65535 }) ∧
        ((∀ y ∈ g.schedule, y.code ≠ 0) →
          g.decided (s.reached p boundary) boundary next = { g with gainDrops := min (g.gainDrops + 1) 65535 }))) := by
  subst htaken
  refine ⟨fun P hpos h => ?_, fun h => ?_⟩
  · rw [State.reached_of_not_ahead hpos h]
    exact Gain.decided_reached
  · rw [State.reached_of_ahead h]
    refine ⟨fun hroom => ?_, fun hfull => ⟨fun before t v after hes hafter => ?_, fun hnone => ?_⟩⟩
    · obtain ⟨before, after, hes, hbefore, hafter, hinsert⟩ := insertEntry_split (.gain boundary next) g.schedule
      refine ⟨before, after, hes, hbefore, hafter, ?_⟩
      rw [Gain.decided_room hroom, hinsert]
    · refine Gain.decided_merged hfull ?_
      rw [hes]
      exact mergeNewestGain_last next before t v hafter
    · exact Gain.decided_dropped hfull (mergeNewestGain_none hnone)

/-- The Gain Law decides on the values just formed (R112). -/
theorem State.segmentClosed_decides (hf : f = s.tables.profiles[(s.entry p).profile]) {next : Int}
    (hnext : next = f.nextGain (s.program p).gain.scheduled m.shortTerm) :
    (s.segmentClosed p m f.target).decides p ↔ 4 ≤ m.history.length ∧ f.holdGate ≤ m.shortTerm ∧
      (s.program p).holds.freeze = 0 ∧ (next ≠ (s.program p).gain.scheduled ∨ (s.program p).gain.reissue = true) := by
  have htables : (s.segmentClosed p m f.target).tables.profiles[((s.segmentClosed p m f.target).entry p).profile] = f :=
    hf.symm
  unfold State.decides
  dsimp only
  rw [htables]
  unfold State.segmentClosed
  rw [State.program_setProgram_self, ← hnext]

theorem State.segmentClosed_gain (hf : f = s.tables.profiles[(s.entry p).profile]) {next : Int}
    (hnext : next = f.nextGain (s.program p).gain.scheduled m.shortTerm) :
    (s.segmentClosed p m f.target).decidedGain p boundary =
      (s.program p).gain.decided (s.reached p boundary) boundary next := by
  have htables : (s.segmentClosed p m f.target).tables.profiles[((s.segmentClosed p m f.target).entry p).profile] = f :=
    hf.symm
  unfold State.decidedGain State.reached
  dsimp only
  rw [htables]
  unfold State.segmentClosed
  rw [State.program_setProgram_self, ← hnext]

/-- The program once the values are formed and the gain is decided. -/
def State.gainDecided (s : State) (p : Fin 16) (m : Meter) (target : Int) (gain : Gain) : Program :=
  { s.program p with
    meter := m
    gain := gain
    events := { (s.program p).events with levels := (s.program p).events.levels ++ [⟨m.momentary, m.shortTerm, target⟩] } }

/-- The gain block that a segment end leaves (R112). -/
theorem State.exists_decided (hf : f = s.tables.profiles[(s.entry p).profile]) {next : Int}
    (hnext : next = f.nextGain (s.program p).gain.scheduled m.shortTerm) (boundary : Stamp) {decides : Prop}
    (hdecides : decides ↔ 4 ≤ m.history.length ∧ f.holdGate ≤ m.shortTerm ∧
      (s.program p).holds.freeze = 0 ∧ (next ≠ (s.program p).gain.scheduled ∨ (s.program p).gain.reissue = true)) :
    ∃ gain, (s.segmentClosed p m f.target).decideGain p boundary = s.setProgram p (s.gainDecided p m f.target gain) ∧
      (¬ decides → gain = (s.program p).gain) ∧
      (decides → gain = (s.program p).gain.decided (s.reached p boundary) boundary next) := by
  have hiff := hdecides.trans (State.segmentClosed_decides hf hnext).symm
  by_cases h : decides
  · refine ⟨_, ?_, fun hnot => absurd h hnot, fun _ => rfl⟩
    rw [State.decideGain_of_decides (hiff.mp h), State.segmentClosed_gain hf hnext]
    unfold State.segmentClosed
    rw [State.program_setProgram_self]
    exact s.setProgram_setProgram p _ _
  · exact ⟨_, State.decideGain_of_not (mt hiff.mpr h), fun _ => rfl, fun h' => absurd h' h⟩

end SegmentEnd

/-- Settles O26: sound and gains at their ends are exact divisions, each logarithm is the last value a comparison of powers
accepts, and a segment end is its nine steps in order. -/
theorem unityIsExact : Obligations.UnityIsExact := by
  refine ⟨fun s p edge P l h => State.convert_unity edge P l h,
    fun y => ⟨gainedSample_unity y, fadedSample_open y, fadedSample_silent y⟩,
    fun a b => ⟨mixSample_primary a b, mixSample_alternate a b⟩, fun g value => ?_,
    fun g hlo hhi => linearGain_bounds hlo hhi, fun num den hden => loudness_bounds hden,
    fun i count absGate relGate hcount hrel => integratedValue_one hcount i.isLt absGate relGate hrel, fun s p => ?_⟩
  · rw [Gain.repeat_stepRamp g value le_rfl]
    exact ⟨g.ramped_end value, rfl, rfl, rfl⟩
  · intro x m e f unit energies history block momentary short enters desired stepped next decides taken hboost hcut
    have hnext : next = f.nextGain x.gain.scheduled short := (f.nextGain_eq _ _ hboost hcut rfl).symm
    have hhistory : history = pushEnergy m.history (segmentEnergy e.weights.toList m.members) := rfl
    have hmomentary : momentary = meanLoudness (energyUnit (s.classOf p)) 4 history := rfl
    have hshort : short = loudness history.sum (history.length * energyUnit (s.classOf p)) := rfl
    clear_value next stepped desired momentary short history
    have hunit : 0 < unit := by
      change 0 < (s.classOf p).segment * 1000 * 2 ^ 46
      cases s.classOf p <;> decide
    obtain ⟨histogram, hhistogram⟩ : ∃ h, h = ((m.valued (s.classOf p) history momentary short).enterBlock unit f.absGate).histogram :=
      ⟨_, rfl⟩
    have henters : enters ↔ (m.valued (s.classOf p) history momentary short).enters unit f.absGate := Iff.rfl
    have hbins : (m.valued (s.classOf p) history momentary short).histogram = m.histogram := rfl
    have hvalue : (m.valued (s.classOf p) history momentary short).momentary = momentary := rfl
    have hclose := m.closeSegment_eq (s.classOf p) e.weights.toList f hhistory hmomentary hshort hhistogram
    obtain ⟨gain, hgain, hstays, hdecided⟩ := State.exists_decided (s := s) (p := p)
      (m := m.closeSegment (s.classOf p) e.weights.toList f) rfl (next := next) (by rw [hclose]; exact hnext) m.boundary
      (decides := decides) (by rw [hclose]; exact Iff.rfl)
    have hend := State.endSegment_steps rfl rfl hgain rfl
    have hmembers : (m.members.map fun (y : MemberMeter) => { y with sum := 0 }).map (fun (y : MemberMeter) => { y with peak := 0 }) =
        m.members.map fun (y : MemberMeter) => { y with sum := 0, peak := 0 } := List.map_map
    have hpeaks : (m.members.map fun (y : MemberMeter) => { y with sum := 0 }).map (·.peak) = m.members.map (·.peak) := List.map_map
    rw [hclose] at hend
    refine ⟨nextSegmentCount m.segments m.boundary, histogram, gain, ?_, fun hcount => if_neg hcount, fun h => ?_, fun h i => ?_,
      hstays, fun h => ?_⟩
    · rw [← hmembers, ← hpeaks]
      exact hend
    · rw [hhistogram]
      exact Meter.enterBlock_not hunit (mt henters.mpr h)
    · have hbin := Meter.enterBlock_bin hunit (henters.mp h) i
      rw [← hhistogram, hbins, hvalue] at hbin
      exact hbin
    · rw [hdecided h]
      exact State.decided_cases rfl

end Sys2Proof.Machine
end

section
/-! SUPPORT. One program's outputs and its next position (R43, R50, R57, R59 to R66, R119, R120). -/

namespace Sys2Proof.Machine

/-! ### The outputs of a program (R51, R59, R64, R65, R120) -/

section Sound
variable {s : State} {p : Fin 16} {P : ReadPos}

theorem Program.sounds_of_pos {x : Program} (h : x.conv.pos = some P) : x.sounds = x.play.state.sounding := by
  unfold Program.sounds PlayState.sounding
  rw [h]
  cases x.play.state <;> rfl

theorem Play.stepFade_eq (x : Program) : x.play.stepFade = { x.play with fade := x.nextFade } := by
  unfold Play.stepFade Program.nextFade
  generalize x.play = y
  obtain ⟨state, fade, target⟩ := y
  cases target with
  | opened =>
    dsimp only
    split <;> rfl
  | silent => rfl

theorem Program.nextGain_sounding {x : Program} (h : x.sounds = true) : x.nextGain = x.gain.stepRamp := by
  unfold Program.nextGain Gain.stepRamp
  rw [h]
  simp only [true_and]

theorem Program.nextGain_silent {x : Program} (h : x.sounds = false) : x.nextGain = x.gain := by
  unfold Program.nextGain
  rw [h]
  exact if_neg fun h => Bool.false_ne_true h.1

theorem State.voices_sounding (hpos : (s.program p).conv.pos = some P) (h : (s.program p).sounds = true) :
    s.voices p = (s.entry p).members.map fun l => s.convert p (s.edge p) P l := by
  unfold State.voices
  rw [hpos]
  exact if_pos h

theorem State.voices_silent (h : (s.program p).sounds = false) : s.voices p = [] := by
  unfold State.voices
  rw [h]
  cases (s.program p).conv.pos <;> rfl

/-- A member's output under gain and fade, with its mark (R51, R120). -/
def State.faded (s : State) (p : Fin 16) (o : MemberOut) : Int × Bool :=
  let y := s.gained p o
  let v := max (-8388608) (min y 8388607)
  ((v * (s.program p).nextFade).tdiv 480, o.suspect || y != v)

theorem satSample_eq (y : Int) : satSample y = max (-8388608) (min y 8388607) := clampInt_eq (by decide) y

theorem satSample_ne {y : Int} : (y != satSample y) = decide (y < -8388608 ∨ 8388607 < y) := by
  rw [satSample_eq]
  by_cases h : y < -8388608 ∨ 8388607 < y
  · rw [decide_eq_true h, bne_iff_ne]
    omega
  · rw [decide_eq_false h, bne_eq_false_iff_eq]
    omega

theorem MemberOut.gained_eq (h : (s.program p).sounds = true) (o : MemberOut) :
    o.gained (s.program p).gain.stepRamp.linear = (max (-8388608) (min (s.gained p o) 8388607),
      o.suspect || s.gained p o != max (-8388608) (min (s.gained p o) 8388607),
      decide (s.gained p o < -8388608 ∨ 8388607 < s.gained p o)) := by
  have hgained : gainedSample o.value (s.program p).gain.stepRamp.linear = s.gained p o := by
    rw [← Program.nextGain_sounding h]
    rfl
  unfold MemberOut.gained
  dsimp only
  rw [hgained, satSample_ne, ← satSample_eq, satSample_ne]

/-- The counters and events of a program that sounds (R64, R65, R120). -/
structure State.Counts (s : State) (p : Fin 16) (y : Program) : Prop where
  starved : y.conv.starved = min ((s.program p).conv.starved + if (s.voices p).any (·.starved) then 1 else 0) 65535
  clips : y.conv.clips = min ((s.program p).conv.clips + if (s.voices p).any (·.clipped) then 1 else 0) 65535
  gain : y.gain.clips = min ((s.program p).gain.clips +
    if (s.voices p).any fun o => decide (s.gained p o < -8388608 ∨ 8388607 < s.gained p o) then 1 else 0) 65535
  overload : y.events.overload = ((s.program p).events.overload || (s.voices p).any (·.clipped) ||
    (s.voices p).any fun o => decide (s.gained p o < -8388608 ∨ 8388607 < s.gained p o))
  air : y.events.air = ((s.program p).events.air || (s.voices p).any (·.air))

theorem toNat_ite (b : Bool) : b.toNat = if b = true then 1 else 0 := by
  cases b <;> rfl

theorem Gain.stepRamp_clips (g : Gain) : g.stepRamp.clips = g.clips := by
  unfold Gain.stepRamp
  dsimp only
  split <;> rfl

/-- A program that makes outputs (R59). -/
theorem State.soundProgram_sounding (h : (s.program p).sounds = true) :
    (s.soundProgram p).1 = (s.voices p).map (s.faded p) ∧ s.Counts p (s.soundProgram p).2 := by
  obtain ⟨P, hpos⟩ : ∃ P, (s.program p).conv.pos = some P := Option.ne_none_iff_exists'.mp fun hnone => by
    unfold Program.sounds at h
    rw [hnone] at h
    cases h
  have hsounding : (s.program p).play.state.sounding = true := Program.sounds_of_pos hpos ▸ h
  have hvoices := State.voices_sounding hpos h
  have hhigh : ((s.voices p).map fun o => o.gained (s.program p).gain.stepRamp.linear).any (fun o => o.2.2) =
      (s.voices p).any fun o => decide (s.gained p o < -8388608 ∨ 8388607 < s.gained p o) := by
    rw [List.any_map]
    congr 1
    funext o
    rw [Function.comp_apply, MemberOut.gained_eq h]
  unfold State.soundProgram
  dsimp only
  rw [hpos]
  dsimp only
  rw [if_pos hsounding, ← hvoices, hhigh]
  refine ⟨?_, ⟨?_, ?_, ?_, rfl, rfl⟩⟩
  · rw [List.map_map]
    refine List.map_congr_left fun o _ => ?_
    rw [Function.comp_apply, MemberOut.gained_eq h, Play.stepFade_eq]
    rfl
  · rw [← toNat_ite]
    rfl
  · rw [← toNat_ite]
    rfl
  · rw [← toNat_ite]
    dsimp only
    rw [Gain.stepRamp_clips]
    rfl

/-- A program that makes none (R59). -/
theorem State.soundProgram_silent (h : (s.program p).sounds = false) : s.soundProgram p =
    ([], { s.program p with play := { (s.program p).play with fade := (s.program p).nextFade } }) := by
  unfold State.soundProgram
  dsimp only
  rw [Play.stepFade_eq]
  cases hpos : (s.program p).conv.pos with
  | none => rfl
  | some P =>
    dsimp only
    rw [if_neg]
    rw [← Program.sounds_of_pos hpos, h]
    exact Bool.false_ne_true

/-- What a program's outputs leave of it. -/
theorem State.soundProgram_frame (s : State) (p : Fin 16) : (s.soundProgram p).2 = { s.program p with
    play := { (s.program p).play with fade := (s.program p).nextFade }
    conv := { (s.program p).conv with
      starved := (s.soundProgram p).2.conv.starved, clips := (s.soundProgram p).2.conv.clips }
    gain := { (s.program p).nextGain with clips := (s.soundProgram p).2.gain.clips }
    events := { (s.program p).events with
      overload := (s.soundProgram p).2.events.overload, air := (s.soundProgram p).2.events.air } } := by
  cases h : (s.program p).sounds with
  | false =>
    rw [State.soundProgram_silent h, Program.nextGain_silent h]
  | true =>
    obtain ⟨P, hpos⟩ : ∃ P, (s.program p).conv.pos = some P := Option.ne_none_iff_exists'.mp fun hnone => by
      unfold Program.sounds at h
      rw [hnone] at h
      cases h
    have hsounding : (s.program p).play.state.sounding = true := Program.sounds_of_pos hpos ▸ h
    rw [Program.nextGain_sounding h]
    unfold State.soundProgram
    dsimp only
    rw [hpos]
    dsimp only
    rw [if_pos hsounding, Play.stepFade_eq]

end Sound

/-! ### Where P goes (R57, R59 to R61) -/

section Next
variable {s : State} {p : Fin 16} {P Q : ReadPos}

/-- The program's advance is tried: withheld, with the hold flag set, where P would run into W (R60). -/
def Program.tries (x : Program) : Prop :=
  x.conv.pos.isSome ∧ (x.play.state = .warming ∨ (x.play.state = .running ∧ x.servo.phase ≠ some .hold))


/-- The advance leaves P clear of W (R60). -/
def State.fed (s : State) (p : Fin 16) (P : ReadPos) : Bool :=
  (s.leaderHorizon p).any fun W => behind ((P.advance (s.heldRatio p)).stamp + 16) W

theorem State.nextPos_none (h : (s.program p).conv.pos = none) : s.nextPos p = none := by
  unfold State.nextPos
  dsimp only
  rw [h]
  rfl

/-- P free-runs in HOLDOVER, RESYNCING and PARKING (R61). -/
theorem State.nextPos_free (h : (s.program p).conv.pos = some P) (hstate : (s.program p).play.state = .holdover ∨
    (s.program p).play.state = .resyncing ∨ (s.program p).play.state = .parking) :
    s.nextPos p = some (P.advance (s.freeRatio p)) := by
  unfold State.nextPos State.freeRatio Converter.standingTrim
  dsimp only
  rw [h]
  rcases hstate with hstate | hstate | hstate <;> rw [hstate] <;> cases (s.program p).conv.fixed <;> rfl

/-- A tried advance is made where P stays clear of W (R60). -/
theorem State.nextPos_tried (h : (s.program p).conv.pos = some P) (htries : (s.program p).tries) :
    s.nextPos p = if s.fed p P = true then some (P.advance (s.heldRatio p)) else none := by
  obtain ⟨-, hstate⟩ := htries
  unfold State.nextPos State.fed State.heldRatio Converter.standingTrim Converter.standingGlide
  dsimp only
  rw [h]
  rcases hstate with hstate | ⟨hstate, hphase⟩
  · rw [hstate]
    cases (s.program p).conv.fixed <;> rfl
  · rw [hstate]
    cases (s.program p).conv.fixed <;> simp only [hphase, ne_eq, not_false_eq_true, true_and] <;> rfl

/-- P stands while a program is PARKED or PRIMING, and in a jump's HOLD (R59). -/
theorem State.nextPos_rests (h : (s.program p).play.state = .parked ∨ (s.program p).play.state = .priming ∨
    ((s.program p).play.state = .running ∧ (s.program p).servo.phase = some .hold)) : s.nextPos p = none := by
  unfold State.nextPos
  dsimp only
  cases (s.program p).conv.pos with
  | none => rfl
  | some P =>
    rcases h with hstate | hstate | ⟨hstate, hphase⟩
    · rw [hstate]
      rfl
    · rw [hstate]
      rfl
    · rw [hstate, hphase]
      rfl

end Next

end Sys2Proof.Machine
end

section
/-! SUPPORT. One program's house sample (R43, R57, R59 to R61, R117 to R119): its advance, and what the retired edge leaves
behind. -/

namespace Sys2Proof.Machine

/-! ### The advance (R59 to R61) -/

section Advance
variable {s t : State} {p : Fin 16} {P Q : ReadPos}

/-- The hold flag after this house sample: set where the advance is withheld, cleared where it is made (R60). -/
def State.holdNext (s : State) (p : Fin 16) : Bool :=
  let x := s.program p
  if x.conv.pos.isSome ∧ (x.play.state = .warming ∨ (x.play.state = .running ∧ x.servo.phase ≠ some .hold)) then
    (s.nextPos p).isNone
  else x.conv.hold

theorem State.holdNext_tried (h : (s.program p).tries) : s.holdNext p = (s.nextPos p).isNone := if_pos h

theorem State.holdNext_untried (h : ¬ (s.program p).tries) : s.holdNext p = (s.program p).conv.hold := if_neg h

/-- The part with the hold flag moved (R60). -/
def State.trying (s : State) (p : Fin 16) : State :=
  s.setProgram p { s.program p with conv := { (s.program p).conv with hold := s.holdNext p } }

theorem State.trying_untried (h : ¬ (s.program p).tries) : s.trying p = s := by
  unfold State.trying
  rw [State.holdNext_untried h]
  exact s.setProgram_same p

theorem State.heldAdvance_eq (hpos : (s.program p).conv.pos = some P) (h : (s.program p).tries) :
    s.heldAdvance p P = (s.nextPos p).elim (s.trying p) fun Q => (s.trying p).movePos p Q := by
  unfold State.heldAdvance State.trying
  dsimp only
  rw [State.holdNext_tried h, State.nextPos_tried hpos h]
  unfold State.fed
  rcases Option.eq_none_or_eq_some (s.leaderHorizon p) with hW | ⟨W, hW⟩
  · rw [hW]
    simp only [Option.any_none, Bool.false_eq_true, if_false, Bool.not_false, Option.isNone_none, Option.elim_none]
  · rw [hW, Option.any_some]
    dsimp only
    split
    · next hb => simp only [hb, Bool.not_true, Option.isNone_some, Option.elim_some]
    · next hb =>
      rw [Bool.not_eq_true] at hb
      simp only [hb, Bool.not_false, Option.isNone_none, Option.elim_none]

/-- The advance by where P goes (R59 to R61). -/
theorem State.advance_eq (s : State) (p : Fin 16) :
    s.advance p = (s.nextPos p).elim (s.trying p) fun Q => (s.trying p).movePos p Q := by
  unfold State.advance
  dsimp only
  rcases Option.eq_none_or_eq_some (s.program p).conv.pos with hpos | ⟨P, hpos⟩
  · have hrests : ¬ (s.program p).tries := fun h => by
      have hsome := h.1
      rw [hpos] at hsome
      cases hsome
    rw [State.nextPos_none hpos, State.trying_untried hrests, hpos]
    rfl
  · have hsome : (s.program p).conv.pos.isSome = true := by rw [hpos]; rfl
    have hrests : (s.program p).play.state = .parked ∨ (s.program p).play.state = .priming ∨
        ((s.program p).play.state = .running ∧ (s.program p).servo.phase = some .hold) →
        ((s.nextPos p).elim (s.trying p) fun Q => (s.trying p).movePos p Q) = s := fun h => by
      rw [State.nextPos_rests h]
      refine State.trying_untried fun htries => ?_
      rcases htries.2 with hstate | ⟨hstate, hphase⟩ <;> rcases h with h | h | h <;> simp_all
    have hfree : (s.program p).play.state = .holdover ∨ (s.program p).play.state = .resyncing ∨
        (s.program p).play.state = .parking → s.movePos p (P.advance (s.freeRatio p)) =
          ((s.nextPos p).elim (s.trying p) fun Q => (s.trying p).movePos p Q) := fun h => by
      rw [State.nextPos_free hpos h, State.trying_untried]
      · rfl
      · intro htries
        rcases htries.2 with hstate | ⟨hstate, -⟩ <;> rcases h with h | h | h <;> simp_all
    rw [hpos]
    dsimp only
    cases hstate : (s.program p).play.state with
    | parked => exact (hrests (.inl hstate)).symm
    | priming => exact (hrests (.inr (.inl hstate))).symm
    | warming => exact State.heldAdvance_eq hpos ⟨hsome, .inl hstate⟩
    | running =>
      by_cases hphase : (s.program p).servo.phase = some .hold
      · exact (if_pos hphase).trans (hrests (.inr (.inr ⟨hstate, hphase⟩))).symm
      · exact (if_neg hphase).trans (State.heldAdvance_eq hpos ⟨hsome, .inr ⟨hstate, hphase⟩⟩)
    | holdover => exact hfree (.inl hstate)
    | resyncing => exact hfree (.inr (.inl hstate))
    | parking => exact hfree (.inr (.inr hstate))

end Advance

end Sys2Proof.Machine
end

section
/-! SUPPORT. One program's house sample put together (R33, R43, R57 to R61, R117 to R119): what it leaves of the program, the
outbox, the words and the taint counts. -/

namespace Sys2Proof.Machine

/-! ### The words a move of the edge clears (R33) -/

section Clear
variable {m : DelayMem} {old new : Stamp}

theorem DelayMem.clear_clear (a b : Nat → Bool) : (m.clear a).clear b = m.clear fun j => a j || b j := by
  unfold DelayMem.clear
  rw [List.filter_filter]
  refine List.filter_congr fun c _ => ?_
  dsimp only
  rw [Bool.not_or, Bool.and_comm]

theorem DelayMem.clear_none {a : Nat → Bool} (h : ∀ j, a j = false) : m.clear a = m := by
  unfold DelayMem.clear
  exact List.filter_eq_self.mpr fun c _ => by rw [h]; rfl

theorem State.mem_foldl_retireLane (s : State) (ls : List (Fin 32)) : ∃ gone : Nat → Bool,
    (ls.foldl (fun s l => s.retireLane l old new) s).mem = s.mem.clear gone ∧
      ∀ j, gone j = true ↔ ∃ l ∈ ls, (s.laneEntry l).passed old new j = true := by
  induction ls using List.reverseRecOn with
  | nil => exact ⟨fun _ => false, (DelayMem.clear_none fun _ => rfl).symm, fun j => iff_of_false nofun nofun⟩
  | append_singleton ls l ih =>
    obtain ⟨gone, hmem, hgone⟩ := ih
    have hentry := (s.retired_foldl ls old new).laneEntry l
    rw [List.foldl_append]
    generalize ls.foldl (fun s l => s.retireLane l old new) s = t at hmem hentry ⊢
    refine ⟨fun j => gone j || (s.laneEntry l).passed old new j, ?_, fun j => ?_⟩
    · rw [← DelayMem.clear_clear, ← hmem, ← hentry]
      rfl
    · rw [Bool.or_eq_true, hgone]
      constructor
      · rintro (⟨k, hk, h⟩ | h)
        · exact ⟨k, List.mem_append_left _ hk, h⟩
        · exact ⟨l, List.mem_append_right _ (List.mem_singleton_self l), h⟩
      · rintro ⟨k, hk, h⟩
        rcases List.mem_append.mp hk with hk | hk
        · exact .inl ⟨k, hk, h⟩
        · exact .inr (List.mem_singleton.mp hk ▸ h)

theorem State.mem_retire (s : State) (p : Fin 16) (old new : Stamp) : ∃ gone : Nat → Bool,
    (s.retire p (some old) (some new)).mem = s.mem.clear gone ∧
      ∀ j, gone j = true ↔ ∃ l ∈ (s.entry p).members, (s.laneEntry l).passed old new j = true := by
  cases h : ahead new old with
  | true =>
    rw [State.retire, if_pos h]
    exact s.mem_foldl_retireLane _
  | false =>
    rw [State.retire, if_neg (Bool.eq_false_iff.mp h)]
    refine ⟨fun _ => false, (DelayMem.clear_none fun _ => rfl).symm, fun j => iff_of_false nofun fun ⟨l, _, hp⟩ => ?_⟩
    rw [LaneEntry.passed_of_not_ahead h] at hp
    cases hp

theorem State.mem_movePos {s : State} {p : Fin 16} {Q : ReadPos} (hedge : s.edge p = some old) : ∃ gone : Nat → Bool,
    (s.movePos p Q).mem = s.mem.clear gone ∧
      ∀ j, gone j = true ↔ ∃ l ∈ (s.entry p).members, (s.laneEntry l).passed old (s.edgeAt p Q) j = true := by
  have hmem : (s.movePos p Q).mem = (s.edgeMoved p Q).mem := by rw [State.movePos_frame]
  rw [hmem, State.edgeMoved, hedge]
  exact (s.standing p Q).mem_retire p old _

end Clear

/-! ### One program's house sample -/

section Step
variable {s : State} {p : Fin 16} {Q : ReadPos}

/-- The cues that this house sample's advance reaches, as parcels stamped with the house sample that begins next (R118). -/
def State.cuesNext (s : State) (p : Fin 16) : List CueOut :=
  (s.nextPos p).elim [] fun Q => s.cuesOut p Q.stamp s.house.stamp

/-- How many of them find no lane or no place (R118). -/
def State.dropsNext (s : State) (p : Fin 16) : Nat :=
  (s.nextPos p).elim 0 fun Q => (s.dueCues p Q.stamp).length - ((s.cuesNext p).take (8 - s.egress.outbox.length)).length

/-- The gain block once the schedule has played out to the next position (R117). -/
def State.gainNext (s : State) (p : Fin 16) (g : Gain) : Gain :=
  (s.nextPos p).elim g fun Q => g.playedOut Q.stamp (s.dropsNext p)

/-- A program at the end of its house sample (R43, R50, R57, R59 to R61, R117 to R119). -/
def State.sampled (s : State) (p : Fin 16) : Program :=
  let x := s.program p
  let y := (s.soundProgram p).2
  { y with
    play := { y.play with warmUpLeft := if x.play.state = .warming then x.play.warmUpLeft - 1 else x.play.warmUpLeft }
    conv := { y.conv with pos := (s.nextPos p).or x.conv.pos, hold := s.holdNext p, fixed := none }
    gain := s.gainNext p y.gain }

/-- A word that the advance of a program leaves behind its retired edge (R33). -/
def State.leavesNext (s : State) (p : Fin 16) (j : Nat) : Prop :=
  ∃ l ∈ (s.entry p).members, ∃ old Q, s.edge p = some old ∧ s.nextPos p = some Q ∧
    (s.laneEntry l).passed old (s.edgeAt p Q) j = true

/-- What one program's house sample leaves of the part. -/
structure State.SampleStep (s t : State) (p : Fin 16) : Prop where
  frame : t = { s.setProgram p (s.sampled p) with
    mem := t.mem, lanes := t.lanes
    egress := { s.egress with outbox := s.egress.outbox ++ (s.cuesNext p).take (8 - s.egress.outbox.length) } }
  lanes : ∀ l, t.lane l = { s.lane l with taint := (t.lane l).taint }
  others : ∀ l, l ∉ (s.entry p).members ∨ s.nextPos p = none → t.lane l = s.lane l
  mem : ∃ gone : Nat → Bool, t.mem = s.mem.clear gone ∧ ∀ j, gone j = true ↔ s.leavesNext p j
  taint : s.startedOk → s.ringsApart → s.active p = true → ∀ old Q, s.edge p = some old → s.nextPos p = some Q →
    ∀ l ∈ (s.entry p).members, (t.lane l).taint = ((s.retireLane l old (s.edgeAt p Q)).lane l).taint

/-- The program with its outputs made. -/
def State.sounded (s : State) (p : Fin 16) : State := s.setProgram p (s.soundProgram p).2

theorem State.program_sounded : (s.sounded p).program p = (s.soundProgram p).2 := State.program_setProgram_self _ _ _

theorem State.nextPos_sounded : (s.sounded p).nextPos p = s.nextPos p := by
  unfold State.nextPos
  rw [State.program_sounded, State.soundProgram_frame]
  rfl

theorem State.holdNext_sounded : (s.sounded p).holdNext p = s.holdNext p := by
  unfold State.holdNext
  rw [State.nextPos_sounded, State.program_sounded, State.soundProgram_frame]

/-- And with its hold flag moved (R60). -/
def State.poised (s : State) (p : Fin 16) : State :=
  s.setProgram p { (s.soundProgram p).2 with conv := { (s.soundProgram p).2.conv with hold := s.holdNext p } }

theorem State.program_poised : (s.poised p).program p =
    { (s.soundProgram p).2 with conv := { (s.soundProgram p).2.conv with hold := s.holdNext p } } :=
  State.program_setProgram_self _ _ _

theorem State.trying_sounded : (s.sounded p).trying p = s.poised p := by
  unfold State.trying
  rw [State.holdNext_sounded, State.program_sounded]
  exact s.setProgram_setProgram p _ _

theorem State.sampleProgram_eq (s : State) (p : Fin 16) : (s.sampleProgram p).2 =
    ((s.sounded p).advance p).setProgram p (((s.sounded p).advance p).program p).endSample := rfl

theorem State.setPoised (x : Program) : (s.poised p).setProgram p x = s.setProgram p x := s.setProgram_setProgram p _ x

theorem State.edge_poised : (s.poised p).edge p = s.edge p := by
  unfold State.edge
  rw [State.program_poised, State.soundProgram_frame]

theorem State.edgeAt_poised : (s.poised p).edgeAt p Q = s.edgeAt p Q := by
  unfold State.edgeAt
  rw [State.program_poised, State.soundProgram_frame]

theorem Program.nextGain_schedule (x : Program) : x.nextGain.schedule = x.gain.schedule := by
  unfold Program.nextGain
  dsimp only
  split <;> rfl

theorem State.soundProgram_schedule : (s.soundProgram p).2.gain.schedule = (s.program p).gain.schedule := by
  rw [State.soundProgram_frame]
  exact Program.nextGain_schedule _

theorem State.dueCues_poised (at_ : Stamp) : (s.poised p).dueCues p at_ = s.dueCues p at_ := by
  unfold State.dueCues
  rw [State.program_poised, State.soundProgram_schedule]

theorem State.cuesOut_poised (at_ stamp : Stamp) : (s.poised p).cuesOut p at_ stamp = s.cuesOut p at_ stamp :=
  State.cuesOut_congr (s := s) (t := s.poised p) p rfl (by rw [State.program_poised]; exact State.soundProgram_schedule) _ _

/-- The advance is made: P stands there, with the schedule played out to it. -/
theorem State.posPlayed_poised (h : s.nextPos p = some Q) : ((s.poised p).posPlayed p Q).endSample = s.sampled p := by
  have hcues : (s.poised p).cuesOut p Q.stamp (s.poised p).house.stamp = s.cuesNext p := by
    rw [State.cuesOut_poised]
    unfold State.cuesNext
    rw [h]
    rfl
  unfold State.posPlayed State.sampled State.gainNext State.dropsNext Program.endSample
  rw [hcues, State.dueCues_poised, State.program_poised, h]
  dsimp only [Option.elim_some, Option.some_or]
  rw [State.soundProgram_frame]
  dsimp only
  by_cases hwarming : (s.program p).play.state = .warming
  · rw [if_pos hwarming, if_pos hwarming]
    rfl
  · rw [if_neg hwarming, if_neg hwarming]
    rfl

/-- The advance is withheld or P stands: the program ends its house sample where it is. -/
theorem State.endSample_poised (h : s.nextPos p = none) : ((s.poised p).program p).endSample = s.sampled p := by
  unfold State.sampled State.gainNext Program.endSample
  rw [State.program_poised, h]
  dsimp only [Option.elim_none, Option.none_or]
  rw [State.soundProgram_frame]
  dsimp only
  by_cases hwarming : (s.program p).play.state = .warming
  · rw [if_pos hwarming, if_pos hwarming]
  · rw [if_neg hwarming, if_neg hwarming]

theorem State.edge_of_nextPos (h : s.nextPos p = some Q) : ∃ old, s.edge p = some old := by
  rcases Option.eq_none_or_eq_some (s.program p).conv.pos with hpos | ⟨P, hpos⟩
  · rw [State.nextPos_none hpos] at h
    cases h
  · unfold State.edge
    rw [hpos]
    cases (s.program p).meter.pos <;> exact ⟨_, rfl⟩

/-- P stands. -/
theorem State.sampleProgram_stands (h : s.nextPos p = none) : s.SampleStep (s.sampleProgram p).2 p := by
  have hadvance : (s.sounded p).advance p = s.poised p := by
    rw [State.advance_eq, State.nextPos_sounded, h, Option.elim_none, State.trying_sounded]
  have hcues : s.cuesNext p = [] := by
    unfold State.cuesNext
    rw [h]
    rfl
  rw [State.sampleProgram_eq, hadvance, State.endSample_poised h, State.setPoised]
  refine ⟨?_, fun l => rfl, fun l _ => rfl, ⟨fun _ => false, (DelayMem.clear_none fun _ => rfl).symm, fun j => ?_⟩,
    fun _ _ _ old Q _ hnext => ?_⟩
  · rw [hcues, List.take_nil, List.append_nil]
    rfl
  · refine iff_of_false nofun fun ⟨l, _, old, Q, _, hnext, _⟩ => ?_
    rw [h] at hnext
    cases hnext
  · rw [h] at hnext
    cases hnext

/-- P moves. -/
theorem State.sampleProgram_moves (h : s.nextPos p = some Q) : s.SampleStep (s.sampleProgram p).2 p := by
  obtain ⟨old, hedge⟩ := State.edge_of_nextPos h
  have hadvance : (s.sounded p).advance p = (s.poised p).movePos p Q := by
    rw [State.advance_eq, State.nextPos_sounded, h, Option.elim_some, State.trying_sounded]
  have hcues : (s.poised p).cuesOut p Q.stamp (s.poised p).house.stamp = s.cuesNext p := by
    rw [State.cuesOut_poised]
    unfold State.cuesNext
    rw [h]
    rfl
  have hframe := (s.poised p).movePos_frame p Q
  have hmoves := (s.poised p).movePos_moves p Q
  obtain ⟨gone, hmem, hgone⟩ := State.mem_movePos (Q := Q) ((State.edge_poised (s := s)).trans hedge)
  have hegress : (s.poised p).egress = s.egress := rfl
  rw [hcues, State.setPoised, hegress] at hframe
  rw [State.edgeAt_poised] at hgone
  rw [State.sampleProgram_eq, hadvance]
  generalize (s.poised p).movePos p Q = w at hframe hmoves hmem ⊢
  have hlanes : w.lanes = ((s.poised p).edgeMoved p Q).lanes := by rw [hframe]
  have hwords : w.mem = ((s.poised p).edgeMoved p Q).mem := by rw [hframe]
  have hprogram : w.program p = (s.poised p).posPlayed p Q := by
    rw [State.program, hframe]
    exact State.program_setProgram_self _ _ _
  rw [hprogram, State.posPlayed_poised h]
  rw [← hlanes, ← hwords] at hframe
  refine ⟨?_, hmoves.lanes, fun l hl => hmoves.others l (hl.resolve_right ?_), ⟨gone, hmem, fun j => ?_⟩,
    fun hstarted hapart hactive old' Q' ho hQ l hl => ?_⟩
  · conv_lhs => rw [hframe]
    generalize ({ s.egress with
      outbox := s.egress.outbox ++ (s.cuesNext p).take (8 - s.egress.outbox.length) } : Egress) = egress
    exact congrArg (fun u : State => { u with lanes := w.lanes, mem := w.mem, egress := egress })
      (s.setProgram_setProgram p ((s.poised p).posPlayed p Q) (s.sampled p))
  · rw [h]
    exact nofun
  · rw [hgone]
    constructor
    · rintro ⟨l, hl, hpassed⟩
      exact ⟨l, hl, old, Q, hedge, h, hpassed⟩
    · rintro ⟨l, hl, old', Q', ho, hQ, hpassed⟩
      rw [← Option.some.inj (hedge.symm.trans ho), ← Option.some.inj (h.symm.trans hQ)] at hpassed
      exact ⟨l, hl, hpassed⟩
  · have hstate : ∀ q, (s.poised p).playState q = .parked ↔ s.playState q = .parked := fun q => by
      by_cases hq : q = p
      · rw [hq, State.playState, State.program_poised, State.soundProgram_frame]
        rfl
      · rw [State.playState, State.poised, State.program_setProgram_ne s _ hq, State.playState]
    have hstarted' : (s.poised p).startedOk :=
      State.startedOk_congr (s := s) rfl (fun _ => Iff.rfl) hstate hstarted
    have hactive' : (s.poised p).active p = true := by
      rw [State.active, bne_iff_ne] at hactive ⊢
      exact (hstate p).not.mpr hactive
    rw [← Option.some.inj (hedge.symm.trans ho), ← Option.some.inj (h.symm.trans hQ), ← State.edgeAt_poised (s := s)]
    exact hmoves.taint old (State.edge_poised.trans hedge) hstarted' hapart hactive' l hl

theorem State.sampleProgram_step (s : State) (p : Fin 16) : s.SampleStep (s.sampleProgram p).2 p := by
  rcases Option.eq_none_or_eq_some (s.nextPos p) with h | ⟨Q, h⟩
  · exact State.sampleProgram_stands h
  · exact State.sampleProgram_moves h

end Step

end Sys2Proof.Machine
end

section
/-! SUPPORT. Every program's house sample in ascending index (R33, R59 to R66, R117 to R119): what a program's turn finds of the
part as it stood when the sample began. -/

namespace Sys2Proof.Machine

section Turn
variable {s t : State} {p : Fin 16} {n : Nat}

/-- What the programs before a turn leave of the part for the program whose turn it is. -/
structure State.AtTurn (s t : State) (p : Fin 16) : Prop where
  program : t.program p = s.program p
  tables : t.tables = s.tables
  house : t.house = s.house
  map : t.egress.map = s.egress.map
  lanes : ∀ l, t.lane l = { s.lane l with taint := (t.lane l).taint }

theorem State.AtTurn.leaderHorizon (h : s.AtTurn t p) : t.leaderHorizon p = s.leaderHorizon p := by
  have hlane : ∀ l, (t.lane l).horizon = (s.lane l).horizon := fun l => by rw [h.lanes l]
  simp only [State.leaderHorizon, State.leader, State.entry, h.tables, hlane]

theorem State.AtTurn.nextPos (h : s.AtTurn t p) : t.nextPos p = s.nextPos p := by
  unfold State.nextPos
  rw [h.program, h.leaderHorizon, State.nominal_congr h.tables]
  unfold State.entry
  rw [h.tables]

theorem State.AtTurn.edge (h : s.AtTurn t p) : t.edge p = s.edge p := by
  unfold State.edge
  rw [h.program]

theorem State.AtTurn.edgeAt (h : s.AtTurn t p) (Q : ReadPos) : t.edgeAt p Q = s.edgeAt p Q := by
  unfold State.edgeAt
  rw [h.program]

theorem State.AtTurn.entry (h : s.AtTurn t p) (q : Fin 16) : t.entry q = s.entry q := by
  rw [State.entry, h.tables, State.entry]

theorem State.AtTurn.laneEntry (h : s.AtTurn t p) (l : Fin 32) : t.laneEntry l = s.laneEntry l := by
  rw [State.laneEntry, h.tables, State.laneEntry]

theorem State.AtTurn.dueCues (h : s.AtTurn t p) (at_ : Stamp) : t.dueCues p at_ = s.dueCues p at_ := by
  unfold State.dueCues
  rw [h.program]

theorem State.AtTurn.cuesNext (h : s.AtTurn t p) : t.cuesNext p = s.cuesNext p := by
  have htag : t.cueTag p = s.cueTag p := by simp only [State.cueTag, State.mapEntry, h.map]
  have hcues : ∀ at_ stamp, t.cuesOut p at_ stamp = s.cuesOut p at_ stamp :=
    State.cuesOut_congr (s := s) (t := t) p htag (by rw [h.program])
  unfold State.cuesNext
  rw [h.nextPos, h.house]
  simp only [hcues]

theorem State.AtTurn.leavesNext (h : s.AtTurn t p) (j : Nat) : t.leavesNext p j ↔ s.leavesNext p j := by
  unfold State.leavesNext
  rw [h.nextPos, h.edge]
  simp only [h.entry, h.laneEntry, h.edgeAt]

theorem State.AtTurn.gained (h : s.AtTurn t p) (o : MemberOut) : t.gained p o = s.gained p o := by
  unfold State.gained
  rw [h.program]

theorem State.AtTurn.holdNext (h : s.AtTurn t p) : t.holdNext p = s.holdNext p := by
  unfold State.holdNext
  rw [h.nextPos, h.program]

/-- A member that finds its words as they stood is converted alike. -/
theorem State.AtTurn.voices (h : s.AtTurn t p) (hwords : ∀ edge, ∀ l ∈ (s.entry p).members, ∀ u,
    t.readWord edge l u = s.readWord edge l u) : t.voices p = s.voices p := by
  have hbank : t.tables.banks[(t.entry p).bank] = s.tables.banks[(s.entry p).bank] :=
    congrArg (fun T : Tables => T.banks[T.programs[p].bank]) h.tables
  have hconvert : ∀ P, ∀ l ∈ (s.entry p).members, t.convert p (s.edge p) P l = s.convert p (s.edge p) P l := by
    intro P l hl
    unfold State.convert State.tapSum State.spanEmpty
    dsimp only
    rw [h.program, hbank, h.entry]
    simp only [hwords _ l hl]
  unfold State.voices
  rw [h.program, h.edge, h.entry]
  cases (s.program p).conv.pos with
  | none => rfl
  | some P =>
    dsimp only
    rw [List.map_congr_left (hconvert P)]

end Turn

/-! ### The rings of programs in use are apart (R39, R40) -/

section Apart
variable {s : State} {p q : Fin 16} {l k : Fin 32}

theorem State.active_of_nextPos {Q : ReadPos} (h : s.nextPos p = some Q) : s.active p = true := by
  rw [State.active, bne_iff_ne]
  intro hparked
  rw [State.nextPos_rests (.inl hparked)] at h
  cases h

theorem State.active_of_sounds (h : (s.program p).sounds = true) : s.active p = true := by
  rw [State.active, bne_iff_ne]
  intro hparked
  have hstate : (s.program p).play.state = .parked := hparked
  unfold Program.sounds at h
  rw [hstate] at h
  revert h
  cases (s.program p).conv.pos <;> exact nofun

/-- A lane is a member of one program in use (R39). -/
theorem State.startedOk.not_mem (h : s.startedOk) (hpq : p ≠ q) (hp : s.active p = true) (hq : s.active q = true)
    (hl : l ∈ (s.entry p).members) : l ∉ (s.entry q).members :=
  h.1 p q l hpq (h.2.1 p hp) (h.2.1 q hq) hl

/-- The regions of lanes of programs in use share no word (R40). -/
theorem State.regions_apart (hstarted : s.startedOk) (hapart : s.ringsApart) (hp : s.active p = true)
    (hq : s.active q = true) (hl : l ∈ (s.entry p).members) (hk : k ∈ (s.entry q).members) (hne : k ≠ l) {i : Nat}
    (hi : (s.laneEntry k).inRegion i = true) : (s.laneEntry l).inRegion i = false := by
  have hstatus : ∀ (q : Fin 16) (j : Fin 32), s.active q = true → j ∈ (s.entry q).members → (s.lane j).status ≠ .parked :=
    fun q j hq hj => (hstarted.2.2 j).mpr ⟨q, hstarted.2.1 q hq, hj, hq⟩
  refine Bool.eq_false_iff.mpr fun hin => ?_
  rw [LaneEntry.inRegion_iff] at hi hin
  have := hapart k l hne (hstatus q k hq hk) (hstatus p l hp hl)
  omega

end Apart

end Sys2Proof.Machine
end

section
/-! SUPPORT. Every program's house sample in ascending index, put together (R33, R43, R50, R57 to R66, R117 to R119). -/

namespace Sys2Proof.Machine

/-! ### What a house sample leaves of a program -/

section Ends
variable {s t : State} {p : Fin 16}

/-- The cues of the programs before this one (R118). -/
def State.cuesTo (s : State) (n : Nat) : List CueOut := ((List.finRange 16).take n).flatMap s.cuesNext

/-- How many of a program's cues find no lane or no place, the programs before it taking places first (R118). -/
def State.dropsTurn (s : State) (p : Fin 16) : Nat :=
  (s.nextPos p).elim 0 fun Q => (s.dueCues p Q.stamp).length -
    min (s.cuesNext p).length (8 - s.egress.outbox.length - (s.cuesTo p.val).length)

/-- The gain block after the ramp step and the play-out (R117, R119). -/
def State.gainTurn (s : State) (p : Fin 16) : Gain :=
  (s.nextPos p).elim (s.program p).nextGain fun Q => (s.program p).nextGain.playedOut Q.stamp (s.dropsTurn p)

/-- A program at the end of a house sample (R43, R50, R57, R59 to R66, R117 to R120). -/
structure State.Ends (s : State) (p : Fin 16) (y : Program) : Prop where
  frame : y = { s.program p with
    play := { (s.program p).play with
      fade := (s.program p).nextFade
      warmUpLeft := if (s.program p).play.state = .warming then (s.program p).play.warmUpLeft - 1
        else (s.program p).play.warmUpLeft }
    conv := { (s.program p).conv with
      pos := (s.nextPos p).or (s.program p).conv.pos, fixed := none, hold := s.holdNext p
      starved := y.conv.starved, clips := y.conv.clips }
    gain := { s.gainTurn p with clips := y.gain.clips }
    events := { (s.program p).events with overload := y.events.overload, air := y.events.air } }
  silent : (s.program p).sounds = false → y.conv.starved = (s.program p).conv.starved ∧
    y.conv.clips = (s.program p).conv.clips ∧ y.gain.clips = (s.program p).gain.clips ∧ y.events = (s.program p).events
  counts : s.lanesOk → s.startedOk → s.ringsApart → (s.program p).sounds = true → s.Counts p y

theorem Gain.playedOut_withClips (g : Gain) (at_ : Stamp) (dropped c : Nat) :
    ({ g with clips := c } : Gain).playedOut at_ dropped = { g.playedOut at_ dropped with clips := c } := by
  unfold Gain.playedOut
  dsimp only
  split <;> rfl

theorem Gain.playedOut_clips (g : Gain) (at_ : Stamp) (dropped : Nat) : (g.playedOut at_ dropped).clips = g.clips := by
  unfold Gain.playedOut
  dsimp only
  split <;> rfl

theorem State.gainNext_clips (s : State) (p : Fin 16) (g : Gain) : (s.gainNext p g).clips = g.clips := by
  unfold State.gainNext
  cases s.nextPos p with
  | none => rfl
  | some Q => exact g.playedOut_clips _ _

theorem State.gainNext_withClips (s : State) (p : Fin 16) (g : Gain) (c : Nat) :
    s.gainNext p { g with clips := c } = { s.gainNext p g with clips := c } := by
  unfold State.gainNext
  cases s.nextPos p with
  | none => rfl
  | some Q => exact g.playedOut_withClips _ _ c

/-- The outbox as the programs before this one have filled it (R118). -/
theorem State.gainNext_eq (h : s.AtTurn t p)
    (houtbox : t.egress.outbox = s.egress.outbox ++ (s.cuesTo p.val).take (8 - s.egress.outbox.length)) :
    t.gainNext p (s.program p).nextGain = s.gainTurn p := by
  have hdrops : t.dropsNext p = s.dropsTurn p := by
    have hroom : 8 - t.egress.outbox.length = 8 - s.egress.outbox.length - (s.cuesTo p.val).length := by
      rw [houtbox, List.length_append, List.length_take]
      omega
    unfold State.dropsNext State.dropsTurn
    rw [h.nextPos, h.cuesNext, hroom]
    cases s.nextPos p with
    | none => rfl
    | some Q =>
      dsimp only [Option.elim_some]
      rw [h.dueCues, List.length_take, Nat.min_comm]
  unfold State.gainNext State.gainTurn
  rw [h.nextPos, hdrops]

/-- A program's turn, told by the part as it stood when the sample began. -/
theorem State.AtTurn.ends (h : s.AtTurn t p)
    (houtbox : t.egress.outbox = s.egress.outbox ++ (s.cuesTo p.val).take (8 - s.egress.outbox.length))
    (hvoices : s.lanesOk → s.startedOk → s.ringsApart → (s.program p).sounds = true → t.voices p = s.voices p) :
    s.Ends p (t.sampled p) := by
  have hframe := t.soundProgram_frame p
  have hsilent := State.soundProgram_silent (s := t) (p := p)
  have hsounding := State.soundProgram_sounding (s := t) (p := p)
  rw [h.program] at hsilent hsounding hframe
  have hclips : (t.sampled p).gain.clips = (t.soundProgram p).2.gain.clips := t.gainNext_clips p _
  refine ⟨?_, fun hs => ?_, fun hlanes hstarted hapart hs => ?_⟩
  · rw [hclips]
    unfold State.sampled
    dsimp only
    rw [h.program, h.nextPos, h.holdNext]
    conv_lhs => rw [hframe]
    dsimp only
    rw [State.gainNext_withClips, State.gainNext_eq h houtbox]
  · have hout := congrArg Prod.snd (hsilent hs)
    rw [hclips]
    unfold State.sampled
    dsimp only
    rw [hout]
    exact ⟨rfl, rfl, rfl, rfl⟩
  · have hcounts := (hsounding hs).2
    have hgained : t.gained p = s.gained p := funext h.gained
    obtain ⟨hstarved, hclip, hgain, hoverload, hair⟩ := hcounts
    rw [hvoices hlanes hstarted hapart hs, h.program] at hstarved hclip hgain hoverload hair
    simp only [hgained] at hgain hoverload
    exact ⟨hstarved, hclip, hclips.trans hgain, hoverload, hair⟩

end Ends

/-! ### All programs -/

/-- The part once the programs below `n` have made their house sample. -/
structure State.Sampled (s t : State) (n : Nat) : Prop where
  frame : t = { s with
    mem := t.mem, lanes := t.lanes, programs := t.programs
    egress := { s.egress with outbox := s.egress.outbox ++ (s.cuesTo n).take (8 - s.egress.outbox.length) } }
  lanes : ∀ l, t.lane l = { s.lane l with taint := (t.lane l).taint }
  still : ∀ l, (∀ q : Fin 16, q.val < n → l ∈ (s.entry q).members → s.nextPos q = none) → t.lane l = s.lane l
  waiting : ∀ q : Fin 16, n ≤ q.val → t.program q = s.program q
  mem : ∃ gone : Nat → Bool, t.mem = s.mem.clear gone ∧
    ∀ j, gone j = true ↔ ∃ q : Fin 16, q.val < n ∧ s.leavesNext q j
  done : ∀ q : Fin 16, q.val < n → s.Ends q (t.program q)
  taint : s.startedOk → s.ringsApart → ∀ q : Fin 16, q.val < n → ∀ old Q, s.edge q = some old → s.nextPos q = some Q →
    ∀ l ∈ (s.entry q).members, (t.lane l).taint = ((s.retireLane l old (s.edgeAt q Q)).lane l).taint

section Sampled
variable {s t u : State} {p : Fin 16} {n : Nat}

theorem State.Sampled.zero (s : State) : s.Sampled s 0 where
  frame := by
    have hnone : (s.cuesTo 0).take (8 - s.egress.outbox.length) = [] := List.take_nil
    rw [hnone, List.append_nil]
  lanes := fun _ => rfl
  still := fun _ _ => rfl
  waiting := fun _ _ => rfl
  mem := ⟨fun _ => false, (DelayMem.clear_none fun _ => rfl).symm, fun j => iff_of_false nofun fun ⟨q, hq, _⟩ => absurd hq (Nat.not_lt_zero _)⟩
  done := fun _ h => absurd h (Nat.not_lt_zero _)
  taint := fun _ _ _ h => absurd h (Nat.not_lt_zero _)

theorem State.Sampled.atTurn (h : s.Sampled t n) (hp : n ≤ p.val) : s.AtTurn t p where
  program := h.waiting p hp
  tables := by rw [h.frame]
  house := by rw [h.frame]
  map := by rw [h.frame]
  lanes := h.lanes

theorem State.Sampled.outbox (h : s.Sampled t n) :
    t.egress.outbox = s.egress.outbox ++ (s.cuesTo n).take (8 - s.egress.outbox.length) := by rw [h.frame]

theorem State.cuesTo_succ (s : State) (p : Fin 16) : s.cuesTo (p.val + 1) = s.cuesTo p.val ++ s.cuesNext p := by
  have htake : (List.finRange 16).take (p.val + 1) = (List.finRange 16).take p.val ++ [p] := by
    rw [List.take_add_one]
    simp
  unfold State.cuesTo
  rw [htake, List.flatMap_append, List.flatMap_singleton]

theorem append_take_room {α : Type} (xs as bs : List α) : (xs ++ as.take (8 - xs.length)) ++
    bs.take (8 - (xs ++ as.take (8 - xs.length)).length) = xs ++ (as ++ bs).take (8 - xs.length) := by
  have hroom : 8 - (xs ++ as.take (8 - xs.length)).length = 8 - xs.length - as.length := by
    rw [List.length_append, List.length_take]
    omega
  rw [hroom, List.append_assoc, List.take_append]

/-- The words of a sounding program's rings stand as they stood: what has been left behind lies in other rings (R33, R40). -/
theorem State.Sampled.readWord (h : s.Sampled t p.val) (hlanes : s.lanesOk) (hstarted : s.startedOk) (hapart : s.ringsApart)
    (hactive : s.active p = true) (edge : Option Stamp) (l : Fin 32) (hl : l ∈ (s.entry p).members) (w : Stamp) :
    t.readWord edge l w = s.readWord edge l w := by
  obtain ⟨gone, hmem, hgone⟩ := h.mem
  have hfind : t.mem.find ((s.laneEntry l).wordIndex w) = s.mem.find ((s.laneEntry l).wordIndex w) := by
    rw [hmem, DelayMem.find_clear, if_neg]
    rw [hgone]
    rintro ⟨q, hq, k, hk, old, Q, -, hnext, hpassed⟩
    have hactiveq := State.active_of_nextPos hnext
    have hne : p ≠ q := fun heq => absurd hq (heq ▸ lt_irrefl _)
    have hkl : k ≠ l := fun heq => hstarted.not_mem hne hactive hactiveq hl (heq ▸ hk)
    have hout := State.regions_apart hstarted hapart hactive hactiveq hl hk hkl (LaneEntry.inRegion_of_passed hpassed)
    rw [State.inRegion_wordIndex hlanes] at hout
    cases hout
  unfold State.readWord
  dsimp only
  rw [(h.atTurn le_rfl).laneEntry, hfind]

theorem State.Sampled.voices (h : s.Sampled t p.val) (hlanes : s.lanesOk) (hstarted : s.startedOk) (hapart : s.ringsApart)
    (hsounds : (s.program p).sounds = true) : t.voices p = s.voices p :=
  (h.atTurn le_rfl).voices fun edge l hl w =>
    h.readWord hlanes hstarted hapart (State.active_of_sounds hsounds) edge l hl w

end Sampled

end Sys2Proof.Machine
end

section
/-! SUPPORT. The induction over the programs' turns, and what it hands the egress lanes (R33, R51, R59, R118). -/

namespace Sys2Proof.Machine

section Turns
variable {s t u : State} {p : Fin 16}

/-- A turn of a program whose part is as the programs before it left it. -/
theorem State.Sampled.step (h : s.Sampled t p.val) (k : t.SampleStep u p) (htranquil : s.Tranquil t) :
    s.Sampled u (p.val + 1) := by
  have hturn := h.atTurn (p := p) le_rfl
  have hprogram : ∀ q, u.program q = if q = p then t.sampled p else t.program q := fun q => by
    rw [State.program, k.frame]
    by_cases hq : q = p
    · rw [if_pos hq, hq]
      exact State.program_setProgram_self _ _ _
    · rw [if_neg hq]
      exact State.program_setProgram_ne t _ hq
  have hlt : ∀ {q : Fin 16}, q.val < p.val + 1 → q.val < p.val ∨ q = p := fun {q} hq =>
    (Nat.lt_succ_iff_lt_or_eq.mp hq).imp_right Fin.ext
  have hother : ∀ q, q.val < p.val → q ≠ p := fun q hq heq => absurd hq (heq ▸ lt_irrefl _)
  obtain ⟨gone, hmem, hgone⟩ := h.mem
  obtain ⟨left, hleft, hleaves⟩ := k.mem
  refine ⟨?_, fun l => ?_, fun l hl => ?_, fun q hq => ?_, ⟨fun j => gone j || left j, ?_, fun j => ?_⟩, fun q hq => ?_,
    fun hstarted hapart q hq old Q hedge hnext l hl => ?_⟩
  · have hfilled : t.egress =
        { s.egress with outbox := s.egress.outbox ++ (s.cuesTo p.val).take (8 - s.egress.outbox.length) } := by rw [h.frame]
    have hrest : ∀ programs mem lanes egress, ({ t with programs := programs, mem := mem, lanes := lanes, egress := egress } : State) =
        { s with programs := programs, mem := mem, lanes := lanes, egress := egress } := fun _ _ _ _ => by rw [h.frame]
    have hframe := k.frame
    rw [hturn.cuesNext, hfilled] at hframe
    dsimp only at hframe
    rw [append_take_room, ← State.cuesTo_succ] at hframe
    have hprograms : u.programs = (t.setProgram p (t.sampled p)).programs := by rw [hframe]
    rw [hprograms]
    exact hframe.trans (hrest _ _ _ _)
  · rw [k.lanes l, h.lanes l]
  · have hstill := h.still l fun q hq hin => hl q (Nat.lt_succ_of_lt hq) hin
    rw [← hstill]
    refine k.others l ?_
    rw [hturn.nextPos, hturn.entry]
    by_cases hin : l ∈ (s.entry p).members
    · exact .inr (hl p (Nat.lt_succ_self _) hin)
    · exact .inl hin
  · rw [hprogram, if_neg (fun heq => by rw [heq] at hq; omega)]
    exact h.waiting q (by omega)
  · rw [hleft, hmem, DelayMem.clear_clear]
  · rw [Bool.or_eq_true, hgone, hleaves, hturn.leavesNext]
    constructor
    · rintro (⟨q, hq, hj⟩ | hj)
      · exact ⟨q, Nat.lt_succ_of_lt hq, hj⟩
      · exact ⟨p, Nat.lt_succ_self _, hj⟩
    · rintro ⟨q, hq, hj⟩
      rcases hlt hq with hq | rfl
      · exact .inl ⟨q, hq, hj⟩
      · exact .inr hj
  · rw [hprogram]
    rcases hlt hq with hq | rfl
    · rw [if_neg (hother q hq)]
      exact h.done q hq
    · rw [if_pos rfl]
      exact hturn.ends h.outbox h.voices
  · have hactiveq := State.active_of_nextPos hnext
    rcases hlt hq with hq | rfl
    · rw [← h.taint hstarted hapart q hq old Q hedge hnext l hl]
      have hsame : u.lane l = t.lane l := by
        refine k.others l ?_
        rw [hturn.nextPos, hturn.entry]
        rcases Option.eq_none_or_eq_some (s.nextPos p) with hnone | ⟨P, hsome⟩
        · exact .inr hnone
        · exact .inl (hstarted.not_mem (hother q hq) hactiveq (State.active_of_nextPos hsome) hl)
      rw [hsame]
    · have hstarted' : t.startedOk := State.startedOk_congr (s := s) (t := t) (by rw [hturn.tables])
        (fun l => by rw [(htranquil.lanes l).status]) (fun q => by rw [State.playState, (htranquil.programs q).state, State.playState])
        hstarted
      have hapart' : t.ringsApart := State.ringsApart_congr (s := s) (t := t) (by rw [hturn.tables])
        (fun l hl => (htranquil.lanes l).status.trans hl) hapart
      have hactive' : t.active q = true := by
        rw [State.active, State.playState, hturn.program]
        exact hactiveq
      have hstill : t.lane l = s.lane l := h.still l fun k hk hin => by
        rcases Option.eq_none_or_eq_some (s.nextPos k) with hnone | ⟨P, hsome⟩
        · exact hnone
        · exact absurd hin (hstarted.not_mem (hother k hk).symm hactiveq (State.active_of_nextPos hsome) hl)
      have hsuspects : t.mem.suspects ((s.laneEntry l).passed old (s.edgeAt q Q)) =
          s.mem.suspects ((s.laneEntry l).passed old (s.edgeAt q Q)) := by
        rw [hmem]
        refine DelayMem.suspects_clear_of_disjoint fun i hi => Bool.eq_false_iff.mpr fun hg => ?_
        obtain ⟨k, hk, j, hj, o, P, -, hsome, hpassed⟩ := (hgone i).mp hg
        have hactivek := State.active_of_nextPos hsome
        have hjl : j ≠ l := fun heq => hstarted.not_mem (hother k hk).symm hactiveq hactivek hl (heq ▸ hj)
        have hout := State.regions_apart hstarted hapart hactiveq hactivek hl hj hjl (LaneEntry.inRegion_of_passed hpassed)
        rw [LaneEntry.inRegion_of_passed hi] at hout
        cases hout
      rw [k.taint hstarted' hapart' hactive' old Q (hturn.edge.trans hedge) (hturn.nextPos.trans hnext) l
        (by rw [hturn.entry]; exact hl), State.lane_retireLane_self, State.lane_retireLane_self, hturn.edgeAt, hturn.laneEntry,
        hstill, hsuspects]

end Turns

/-! ### All turns -/

section All
variable {s : State} {n : Nat}

theorem State.samplePrograms_snoc (s : State) (ps : List (Fin 16)) (p : Fin 16) : s.samplePrograms (ps ++ [p]) =
    ((s.samplePrograms ps).1 ++ [(p, ((s.samplePrograms ps).2.soundProgram p).1)],
      ((s.samplePrograms ps).2.sampleProgram p).2) := by
  induction ps generalizing s with
  | nil => rfl
  | cons q ps ih =>
    have hih := ih (s.sampleProgram q).2
    rw [List.cons_append]
    unfold State.samplePrograms
    dsimp only
    rw [hih]
    rfl

theorem take_finRange_succ (p : Fin 16) : (List.finRange 16).take (p.val + 1) = (List.finRange 16).take p.val ++ [p] := by
  rw [List.take_add_one]
  simp

theorem State.samplePrograms_sampled (s : State) (hn : n ≤ 16) :
    s.Sampled (s.samplePrograms ((List.finRange 16).take n)).2 n := by
  induction n with
  | zero => exact .zero s
  | succ n ih =>
    have h : s.Sampled (s.samplePrograms ((List.finRange 16).take (⟨n, hn⟩ : Fin 16).val)).2 (⟨n, hn⟩ : Fin 16).val :=
      ih (Nat.le_of_succ_le hn)
    have htake := take_finRange_succ ⟨n, hn⟩
    have htranquil := s.samplePrograms_tranquil ((List.finRange 16).take (⟨n, hn⟩ : Fin 16).val)
    have hsnoc := s.samplePrograms_snoc ((List.finRange 16).take (⟨n, hn⟩ : Fin 16).val) ⟨n, hn⟩
    rw [← htake] at hsnoc
    rw [show n + 1 = (⟨n, hn⟩ : Fin 16).val + 1 from rfl, hsnoc]
    exact h.step (State.sampleProgram_step _ _) htranquil

/-- A program's faded outputs at its turn (R51, R120). -/
theorem State.Sampled.outputs {t : State} {p : Fin 16} (h : s.Sampled t p.val) (hlanes : s.lanesOk) (hstarted : s.startedOk)
    (hapart : s.ringsApart) : (t.soundProgram p).1 = (s.voices p).map (s.faded p) := by
  have hturn := h.atTurn (p := p) le_rfl
  have hsilent := State.soundProgram_silent (s := t) (p := p)
  have hsounding := State.soundProgram_sounding (s := t) (p := p)
  rw [hturn.program] at hsilent hsounding
  cases hs : (s.program p).sounds with
  | false => rw [hsilent hs, State.voices_silent hs, List.map_nil]
  | true =>
    have hfaded : t.faded p = s.faded p := by
      funext o
      unfold State.faded
      rw [hturn.gained, hturn.program]
    rw [(hsounding hs).1, h.voices hlanes hstarted hapart hs, hfaded]

theorem State.samplePrograms_outputs (hlanes : s.lanesOk) (hstarted : s.startedOk) (hapart : s.ringsApart) (hn : n ≤ 16) :
    (s.samplePrograms ((List.finRange 16).take n)).1 =
      ((List.finRange 16).take n).map fun p => (p, (s.voices p).map (s.faded p)) := by
  induction n with
  | zero => rfl
  | succ n ih =>
    have h := s.samplePrograms_sampled (Nat.le_of_succ_le hn)
    have hout := State.Sampled.outputs (p := ⟨n, hn⟩) h hlanes hstarted hapart
    have htake := take_finRange_succ ⟨n, hn⟩
    have hsnoc := s.samplePrograms_snoc ((List.finRange 16).take n) ⟨n, hn⟩
    dsimp only at htake
    rw [htake, hsnoc, ih (Nat.le_of_succ_le hn), hout, List.map_append]
    rfl

end All

end Sys2Proof.Machine
end

section
/-! SUPPORT. HOUSE_SAMPLE (R33, R43, R50, R57 to R66, R117 to R120, R150, R153, R157, R158): the clock, the programs in their turns,
the egress lanes, and what a change hands on. -/

namespace Sys2Proof.Machine

/-! ### The house sample begins (R118, R150) -/

section Clocked
variable {s t : State} {p : Fin 16}

/-- The part with its clock stepped, as the programs' turns find it. -/
def State.clocked (s : State) : State :=
  { s with house := s.house.step, egress := { s.egress with sampleFrom := some s.egress.outbox.length } }

theorem State.cuesNext_clocked (s : State) (p : Fin 16) : s.clocked.cuesNext p = s.sampleCues p := by
  have hnext : s.clocked.nextPos p = s.nextPos p := rfl
  unfold State.cuesNext State.sampleCues
  rw [hnext]
  cases s.nextPos p <;> rfl

theorem filter_finRange_lt (p : Fin 16) : (List.finRange 16).filter (· < p) = (List.finRange 16).take p.val := by
  revert p
  decide

theorem State.dropsTurn_clocked (s : State) (p : Fin 16) : s.clocked.dropsTurn p = s.sampleDrops p := by
  have hnext : s.clocked.nextPos p = s.nextPos p := rfl
  have hcues : s.clocked.cuesNext = s.sampleCues := funext s.cuesNext_clocked
  unfold State.dropsTurn State.sampleDrops State.cuesTo
  rw [hnext, hcues, filter_finRange_lt]
  cases s.nextPos p <;> rfl

theorem State.cuesTo_clocked (s : State) : s.clocked.cuesTo 16 = (List.finRange 16).flatMap s.sampleCues := by
  have hcues : s.clocked.cuesNext = s.sampleCues := funext s.cuesNext_clocked
  unfold State.cuesTo
  rw [hcues, List.take_of_length_le (List.length_finRange).le]

/-- Every program has made its house sample. -/
theorem State.clocked_sampled (s : State) : s.clocked.Sampled (s.clocked.samplePrograms (List.finRange 16)).2 16 := by
  have h := s.clocked.samplePrograms_sampled (n := 16) le_rfl
  rwa [List.take_of_length_le (List.length_finRange).le] at h

theorem State.clocked_outputs (hlanes : s.lanesOk) (hstarted : s.startedOk) (hapart : s.ringsApart) :
    (s.clocked.samplePrograms (List.finRange 16)).1 = (List.finRange 16).map fun p => (p, (s.voices p).map (s.faded p)) := by
  have h := State.samplePrograms_outputs (s := s.clocked) (n := 16) hlanes hstarted hapart le_rfl
  rwa [List.take_of_length_le (List.length_finRange).le] at h

end Clocked

/-! ### The egress lanes (R51, R153, R157, R158) -/

section Egress
variable {s t : State} {outs : List (Fin 16 × List (Int × Bool))}

theorem find_finRange (p : Fin 16) : (List.finRange 16).find? (fun q => q == p) = some p := by
  revert p
  decide

/-- What an egress lane takes of a program's member (R51, R153). -/
theorem memberOutput_voice (s : State) (p : Fin 16) (member : Nat) :
    memberOutput ((List.finRange 16).map fun p => (p, (s.voices p).map (s.faded p))) p member = s.voice p member := by
  have hfind : ((List.finRange 16).map fun p => (p, (s.voices p).map (s.faded p))).find? (fun o => o.1 == p) =
      some (p, (s.voices p).map (s.faded p)) := by
    rw [List.find?_map]
    exact congrArg (Option.map _) (find_finRange p)
  unfold memberOutput State.voice
  rw [hfind]
  dsimp only
  rw [List.getD_eq_getElem?_getD, List.getElem?_map]
  cases (s.voices p)[member]? <;> rfl

/-- The part with its egress lanes' samples taken. -/
def State.laneSampled (t : State) (outs : List (Fin 16 × List (Int × Bool))) : State :=
  t.mapEgressLanes fun e x => t.laneSample outs e x

theorem State.laneSampled_frame (t : State) (outs : List (Fin 16 × List (Int × Bool))) :
    t.laneSampled outs = { t with egress := { t.egress with lanes := (t.laneSampled outs).egress.lanes } } := rfl

theorem State.egressLane_laneSampled (t : State) (outs : List (Fin 16 × List (Int × Bool))) (e : Fin 32) :
    (t.laneSampled outs).egressLane e = t.laneSample outs e (t.egressLane e) := t.egressLane_mapEgressLanes _ e

theorem stepCrossfade_eq (x : Nat) (c : ChangeoverState) : stepCrossfade x c.crossed =
    if c = .alternate ∨ c = .reverting then (if x < 960 then x + 1 else x) else x - 1 := by
  unfold stepCrossfade
  exact if_congr (ChangeoverState.crossed_iff c) rfl rfl

theorem State.laneSample_disabled {e : Fin 32} {x : EgressLane} (h : (t.mapEntry e).enabled = false) :
    t.laneSample outs e x = x := by
  unfold State.laneSample
  dsimp only
  rw [h]
  rfl

/-- The crossfade moves, whatever the lane takes (R158). -/
theorem State.laneSample_enabled {e : Fin 32} {x : EgressLane} (h : (t.mapEntry e).enabled = true) :
    t.laneSample outs e x = { x with
      samples := (t.laneSample outs e x).samples
      x := stepCrossfade x.x (t.program (t.mapEntry e).program).change.state.crossed } := by
  unfold State.laneSample
  dsimp only
  rw [h, Bool.not_true, if_neg Bool.false_ne_true]
  split <;> rfl

/-- The alternate that a lane takes: its latch's member (R153). -/
def alternateOutput (outs : List (Fin 16 × List (Int × Bool))) (c : Change) (member : Nat) : Int × Bool :=
  c.latch.elim (0, false) fun q => memberOutput outs q member

/-- The mix that a lane takes once the warm-up has ended (R153). -/
theorem State.laneSample_samples {e : Fin 32} {x : EgressLane} (h : (t.mapEntry e).enabled = true) :
    (t.laneSample outs e x).samples =
      if t.house.warmedUp = true ∧ t.strapFault = false then x.samples ++ [mixSample
        (memberOutput outs (t.mapEntry e).program (t.mapEntry e).member)
        (alternateOutput outs (t.program (t.mapEntry e).program).change (t.mapEntry e).member)
        (t.laneSample outs e x).x]
      else x.samples := by
  have hmix : (t.house.warmedUp && !t.strapFault) = true ↔ t.house.warmedUp = true ∧ t.strapFault = false := by
    rw [Bool.and_eq_true, Bool.not_eq_true']
  unfold State.laneSample alternateOutput
  dsimp only
  rw [h, Bool.not_true, if_neg Bool.false_ne_true]
  by_cases hw : t.house.warmedUp = true ∧ t.strapFault = false
  · rw [if_pos hw, if_pos (hmix.mpr hw)]
    cases (t.program (t.mapEntry e).program).change.latch <;> rfl
  · rw [if_neg hw, if_neg (mt hmix.mp hw)]

theorem State.lanesHome_iff (t : State) (p : Fin 16) : t.lanesHome p = true ↔
    ∀ e, (t.mapEntry e).enabled = true → (t.mapEntry e).program = p → (t.egressLane e).x = 0 := by
  unfold State.lanesHome
  rw [List.all_eq_true]
  refine ⟨fun h e henabled hprogram => ?_, fun h e _ => ?_⟩
  · have hhome := h e (List.mem_finRange e)
    rw [henabled, hprogram, beq_self_eq_true] at hhome
    exact beq_iff_eq.mp hhome
  · by_cases hfeeds : (t.mapEntry e).enabled = true ∧ (t.mapEntry e).program = p
    · rw [h e hfeeds.1 hfeeds.2, beq_self_eq_true, Bool.or_true]
    · have hfalse : ((t.mapEntry e).enabled && (t.mapEntry e).program == p) = false := by
        rw [← Bool.not_eq_true, Bool.and_eq_true, beq_iff_eq]
        exact hfeeds
      rw [hfalse]
      rfl

end Egress

end Sys2Proof.Machine
end

section
/-! SUPPORT. HOUSE_SAMPLE as its statement tells it (R33, R43, R50, R57 to R66, R117 to R120, R150, R153, R157, R158). -/

namespace Sys2Proof.Machine

section Parts
variable {s t : State}

/-- The clock and the outbox (R118, R150). -/
theorem State.Sampled.house_frame (h : s.clocked.Sampled t 16) (outs : List (Fin 16 × List (Int × Bool))) :
    t.laneSampled outs = { s with
      house := { s.house with
        stamp := s.house.stamp + 1, toTick := s.house.toTick - 1
        toFrame := if s.house.warmedUp then s.house.toFrame - 1 else s.house.toFrame
        warmUpLeft := s.house.warmUpLeft - 1 }
      mem := (t.laneSampled outs).mem, lanes := (t.laneSampled outs).lanes, programs := (t.laneSampled outs).programs
      egress := { s.egress with
        lanes := (t.laneSampled outs).egress.lanes
        sampleFrom := some s.egress.outbox.length
        outbox := s.egress.outbox ++
          ((List.finRange 16).flatMap s.sampleCues).take (8 - s.egress.outbox.length) } } := by
  have hlanes := t.laneSampled_frame outs
  have hframe := h.frame
  rw [State.cuesTo_clocked] at hframe
  generalize t.laneSampled outs = u at hlanes ⊢
  have hmem : u.mem = t.mem := by rw [hlanes]
  have hlane : u.lanes = t.lanes := by rw [hlanes]
  have hprograms : u.programs = t.programs := by rw [hlanes]
  rw [hmem, hlane, hprograms]
  conv_lhs => rw [hlanes, hframe]
  rfl

/-- What the statement says of a program (R43, R50, R57, R59 to R61, R117 to R119). -/
theorem State.gainTurn_clocked (s : State) (p : Fin 16) : s.clocked.gainTurn p =
    (s.nextPos p).elim (s.program p).nextGain fun Q => (s.program p).nextGain.playedOut Q.stamp (s.sampleDrops p) := by
  have hnext : s.clocked.nextPos p = s.nextPos p := rfl
  unfold State.gainTurn
  rw [hnext, State.dropsTurn_clocked]
  rfl

/-- The words left behind, by their stamps (R33). -/
theorem State.leavesNext_iff (hlanes : s.lanesOk) (p : Fin 16) (j : Nat) : s.leavesNext p j ↔
    ∃ l ∈ (s.entry p).members, ∃ old Q, s.edge p = some old ∧ s.nextPos p = some Q ∧ ∃ d < (s.laneEntry l).ringSize,
      (d : Int) < stampDiff (s.edgeAt p Q) old ∧ j = (s.laneEntry l).wordIndex (old + BitVec.ofNat 32 d) := by
  unfold State.leavesNext
  simp only [LaneEntry.passed_iff (hlanes.1 _).1]

theorem State.Sampled.words (h : s.clocked.Sampled t 16) {gone : Prop} {j : Nat}
    (hgone : gone ↔ ∃ p, s.leavesNext p j) :
    (gone → t.mem.find j = none) ∧ (¬ gone → t.mem.find j = s.mem.find j) := by
  obtain ⟨left, hmem, hleft⟩ := h.mem
  have hiff : left j = true ↔ gone := by
    rw [hleft, hgone]
    exact ⟨fun ⟨q, _, hq⟩ => ⟨q, hq⟩, fun ⟨q, hq⟩ => ⟨q, q.isLt, hq⟩⟩
  rw [hmem, DelayMem.find_clear]
  exact ⟨fun hg => if_pos (hiff.mpr hg), fun hg => if_neg (mt hiff.mp hg)⟩

/-- A PARKED lane keeps its taint count. -/
theorem State.Sampled.parked_taint (h : s.clocked.Sampled t 16) (hstarted : s.startedOk) {l : Fin 32}
    (hparked : (s.lane l).status = .parked) : (t.lane l).taint = (s.lane l).taint := by
  rw [h.still l fun q _ hl => ?_]
  · rfl
  · rcases Option.eq_none_or_eq_some (s.clocked.nextPos q) with hnone | ⟨Q, hsome⟩
    · exact hnone
    · have hactive : s.active q = true := State.active_of_nextPos (s := s.clocked) hsome
      exact absurd hparked ((hstarted.2.2 l).mpr ⟨q, hstarted.2.1 q hactive, hl, hactive⟩)

/-- A member's taint count follows what its ring leaves behind (R33). -/
theorem State.Sampled.member_taint (h : s.clocked.Sampled t 16) (hstarted : s.startedOk) (hapart : s.ringsApart)
    {p : Fin 16} {l : Fin 32} (hmember : s.memberOf l p) :
    (s.nextPos p = none → (t.lane l).taint = (s.lane l).taint) ∧
    ∀ old Q, s.edge p = some old → s.nextPos p = some Q →
      (t.lane l).taint = ((s.retireLane l old (s.edgeAt p Q)).lane l).taint := by
  obtain ⟨-, hdefined, hl⟩ := hmember
  refine ⟨fun hnone => ?_, fun old Q hedge hnext => h.taint hstarted hapart p p.isLt old Q hedge hnext l hl⟩
  rw [h.still l fun q _ hin => ?_]
  · rfl
  · rcases Option.eq_none_or_eq_some (s.clocked.nextPos q) with hnone' | ⟨Q, hsome⟩
    · exact hnone'
    · have hactive : s.active q = true := State.active_of_nextPos (s := s.clocked) hsome
      by_cases hq : p = q
      · rw [← hq]
        exact hnone
      · exact absurd hin (hstarted.1 p q l hq hdefined (hstarted.2.1 q hactive) hl)

end Parts

theorem State.sampleHouse_eq (s : State) : s.sampleHouse = ((s.clocked.samplePrograms (List.finRange 16)).2.laneSampled
    (s.clocked.samplePrograms (List.finRange 16)).1).followThrough := by
  unfold State.sampleHouse State.clocked
  dsimp only
  generalize ({ s with house := s.house.step, egress := { s.egress with
    sampleFrom := some s.egress.outbox.length } } : State).samplePrograms (List.finRange 16) = r
  rfl

/-- In PRIMARY a latch clears once every lane is home (R157). -/
theorem State.latch_followThrough {u : State} {p : Fin 16} (hunwanted : u.wanted p = false)
    (hstate : (u.program p).change.state = .primary ∨ (u.program p).change.state = .wanted) :
    (u.followThrough.program p).change.latch = if u.lanesHome p = true then none else (u.program p).change.latch := by
  obtain ⟨-, -, -, hmoves⟩ := (changesAreHandedOn u).2 p
  obtain ⟨-, -, hhome⟩ := hmoves hunwanted
  exact (hhome hstate).2

/-- Settles O25: the programs make their house sample in ascending index, each finding its own part as it stood; the egress
lanes take what they made, and the changes are handed on behind. -/
theorem houseSampleAdvances : Obligations.HouseSampleAdvances := by
  intro s hrest hclock
  have hexec : exec .houseSample s = .next ((s.clocked.samplePrograms (List.finRange 16)).2.laneSampled
      (s.clocked.samplePrograms (List.finRange 16)).1).followThrough :=
    congrArg Host.Outcome.next ((State.outside_of_rest hrest _).trans (by rw [State.settleClock_of_quiet hclock, State.sampleHouse_eq]))
  have hsampled := s.clocked_sampled
  have houts := State.clocked_outputs (s := s)
  have htranquil := s.clocked.samplePrograms_tranquil (List.finRange 16)
  generalize s.clocked.samplePrograms (List.finRange 16) = r at hexec hsampled houts htranquil
  obtain ⟨outs, t⟩ := r
  dsimp only at hexec hsampled houts htranquil
  have hmap : ∀ e, t.mapEntry e = s.mapEntry e := fun e => by
    rw [State.mapEntry, hsampled.frame]
    rfl
  have hegress : ∀ e, t.egressLane e = s.egressLane e := fun e => by
    rw [State.egressLane, hsampled.frame]
    rfl
  have hchange : ∀ p, (t.program p).change = (s.program p).change := fun p => (htranquil.programs p).change
  have hholds : ∀ p, (t.program p).holds = (s.program p).holds := fun p => (htranquil.programs p).holds
  have hframe := hsampled.house_frame outs
  have hlaneSampled := t.egressLane_laneSampled outs
  have hu := t.laneSampled_frame outs
  generalize t.laneSampled outs = u at hexec hframe hlaneSampled hu
  have hprogram : ∀ p, u.program p = t.program p := fun p => by rw [State.program, hu]; rfl
  have hlane : ∀ l, u.lane l = t.lane l := fun l => by rw [State.lane, hu]; rfl
  have hmem : u.mem = t.mem := by rw [hu]
  have humap : ∀ e, u.mapEntry e = s.mapEntry e := fun e => by
    rw [← hmap, State.mapEntry, hu]
    rfl
  refine ⟨u, hexec, hframe, fun l => ?_, fun p => ?_, fun hlanes j => ?_,
    fun hlanes hstarted hapart => ⟨fun l hl => ?_, fun p l hmember => ?_, fun p hsounds => ?_,
      fun e henabled => ?_⟩, fun e => ⟨fun hdisabled => ?_, fun henabled => ?_⟩, fun p hunwanted hstate => ?_⟩
  · rw [hlane]
    exact hsampled.lanes l
  · have hends := hsampled.done p p.isLt
    have hprogramFrame := hends.frame
    have hself : s.clocked.program p = s.program p := rfl
    have hnext : s.clocked.nextPos p = s.nextPos p := rfl
    have hhold : s.clocked.holdNext p = s.holdNext p := rfl
    rw [State.gainTurn_clocked, ← hprogram, hself, hnext, hhold] at hprogramFrame
    unfold State.holdNext at hprogramFrame
    have hsilent := hends.silent
    rw [← hprogram] at hsilent
    refine ⟨hprogramFrame.trans ?_, hsilent⟩
    cases s.nextPos p <;> rfl
  · rw [hmem]
    exact hsampled.words (exists_congr fun p => (State.leavesNext_iff hlanes p j).symm)
  · rw [hlane]
    exact hsampled.parked_taint hstarted hl
  · obtain ⟨hstill, hmoved⟩ := hsampled.member_taint hstarted hapart hmember
    rw [hlane]
    rcases Option.eq_none_or_eq_some (s.nextPos p) with hnone | ⟨Q, hnext⟩
    · rw [hnone]
      cases s.edge p <;> exact hstill hnone
    · obtain ⟨old, hedge⟩ := State.edge_of_nextPos hnext
      rw [hedge, hnext]
      exact hmoved old Q hedge hnext
  · obtain ⟨hstarved, hclips, hgain, hoverload, hair⟩ := (hsampled.done p p.isLt).counts hlanes hstarted hapart hsounds
    rw [← hprogram] at hstarved hclips hgain hoverload hair
    exact ⟨hstarved, hclips, hgain, hoverload, hair⟩
  · have hsamples := State.laneSample_samples (t := t) (outs := outs) (x := t.egressLane e) (by rw [hmap]; exact henabled)
    have hwarm : t.house.warmedUp = s.house.warmedUp := by rw [hsampled.frame]; rfl
    have hstrap : t.strapFault = s.strapFault := by rw [State.strapFault, hsampled.frame]; rfl
    have hvoice := memberOutput_voice s
    rw [← houts hlanes hstarted hapart] at hvoice
    rw [← hlaneSampled, hmap, hchange, hwarm, hstrap, hvoice, hegress] at hsamples
    refine hsamples.trans ?_
    unfold alternateOutput
    cases (s.program (s.mapEntry e).program).change.latch with
    | none => rfl
    | some q =>
      dsimp only [Option.elim_some]
      rw [hvoice]
      rfl
  · rw [hlaneSampled, State.laneSample_disabled ((hmap e).symm ▸ hdisabled), hegress]
  · have hx := State.laneSample_enabled (t := t) (outs := outs) (x := t.egressLane e) (by rw [hmap]; exact henabled)
    rw [← hlaneSampled, hmap, hchange, stepCrossfade_eq, hegress] at hx
    exact hx
  · have hwanted : u.wanted p = false := by
      unfold State.wanted at hunwanted ⊢
      rw [hprogram, hchange, hholds]
      exact hunwanted
    have hstate' : (u.program p).change.state = .primary ∨ (u.program p).change.state = .wanted := by
      rw [hprogram, hchange]
      exact hstate
    rw [State.latch_followThrough hwanted hstate', hprogram, hchange]
    refine if_congr ((u.lanesHome_iff p).trans ?_) rfl rfl
    simp only [humap]

end Sys2Proof.Machine
end
